-- ==== Sys2Proof/Word.lean ====
section
/-! DEFINITION. The word types of the Shushatar: bytes, 32-bit perch words, 64-bit registers, 128-byte lines. -/

namespace Sys2Proof

/-- A byte of memory. -/
abbrev Byte := BitVec 8

/-- A word of the perch sequencer (R81: RV32). -/
abbrev W32 := BitVec 32

/-- A control-space register (R7) or a steward register (R461: RV64). -/
abbrev W64 := BitVec 64

/-- A 128 B cache line, byte 0 in the low bits (R5, R197). -/
abbrev LineData := BitVec 1024

end Sys2Proof
end

