-- ==== Sys2Proof/Syntax.lean ====
section
/-! DEFINITION. The commands of the block: one constructor of `Instr` for each row of spec/opcode_table.json, with its operands.
An operand carries what comes from outside the package (a frame, a packet, a sensor sample, the data a bus read returns) or names
the unit that acts. Dies, perches, queues and harts are named by the numbers of R16, R17, R487 and R462. -/

namespace Sys2Proof

/-- What one end of a die edge sends at discovery (R30 step 2). -/
structure Identity where
  steward : Bool
  serial : Nat
  revision : Nat
  port : Nat
  primary : Bool
  deriving DecidableEq, Repr

/-- The identity flits of both ends of edge number `edge` (R21): `a` from the die named first, `b` from the other. -/
structure EdgeEvidence where
  edge : Nat
  a : Identity
  b : Identity
  deriving DecidableEq, Repr

/-- An SSD on a root port (R245) with its namespaces: (NSID, 4 KiB blocks). -/
structure Ssd where
  port : Nat
  spaces : List (Nat × Nat)
  deriving DecidableEq, Repr

/-- What boot finds outside the package and in its fuses' company at a start (R30, R536, R537, R242, R556, R553). -/
structure Board where
  /-- STRAP_SB_ADDR[1:0] (R650). -/
  strapAddr : Nat
  /-- TEST_N pulled high (R650). -/
  testN : Bool
  /-- Edges whose training has ended by now, with their evidence (R30). -/
  edges : List EdgeEvidence
  /-- (die site, port) pairs that did not train (R31). -/
  isolated : List (Nat × Nat)
  /-- Version of the boot firmware copy A and B where the copy verifies (R537). -/
  fwA : Option Nat
  fwB : Option Nat
  /-- Step 3, 6 or 8 of R536 does not end by itself. -/
  hangFw : Bool
  hangMem : Bool
  hangNvme : Bool
  /-- Training and self-test of the memories succeed (R536 step 6). -/
  memOk : Bool
  /-- Capacity found on each fathom channel, GiB (R242). -/
  fathomGib : List Nat
  ssds : List Ssd
  /-- The bytes that the NVMe read of each model-table entry returns, in table order; `none` for a read error (R553). -/
  images : List (Option (List Byte))
  deriving DecidableEq, Repr

/-- What the device measures and receives for the tick that ends at a boundary. -/
structure BoundaryObs where
  /-- Phase error of the primary and of the alternate source at their event, ns; `none` where the event is missing (R39). -/
  priErr : Option Int
  altErr : Option Int
  /-- 48 V input power and per-compute-die rail power over the tick, W (R574). -/
  powerW : Nat
  railW : List Nat
  /-- Package input energy of the tick, µJ (R585). -/
  energyUj : Nat
  /-- Hottest sensor of each die by die number, °C (R580). -/
  dieTemp : List Nat
  /-- Per compute die, four stacks: the stack's own hottest sensor, and the die sensor beneath it (R580). -/
  stackTemp : List Nat
  underTemp : List Nat
  /-- Dies that acknowledged the tick on the side path (R612). -/
  acks : List Nat
  /-- The unit has processed Sync and delay messages in the last 2 s (R447). -/
  ptpValid : Bool
  deriving DecidableEq, Repr

/-- Bytes that a read of the host window, of another package or of an SSD returns to an engine, and whether they are poisoned. -/
structure Ext where
  bytes : List Byte
  poison : Bool
  deriving DecidableEq, Repr

/-- A perch that starts a span, with what the read-back of its save area brings where the area lies outside the package (R60): the scratchpad image and
the context. -/
structure PerchStart where
  perch : Nat
  image : Ext
  context : Ext
  deriving DecidableEq, Repr

/-- A queue whose RUN ends, with RESULT and KSTATUS where they stand outside the package (R504). -/
structure RunRef where
  queue : Nat
  ext : Ext
  deriving DecidableEq, Repr

/-- What the ECC finds in the sectors a read touches (R204, R598): their addresses. -/
structure Ecc where
  corrected : List Nat
  uncorrectable : List Nat
  deriving DecidableEq, Repr

/-- A request at a home (R205, R263): the die it comes from (R26), address, partition, requester (R626), NO_ALLOC, and whether R658 exempts it from holding. -/
structure HomeReq where
  die : Nat
  pa : Nat
  part : Nat
  unit : Nat
  req : Nat
  noAlloc : Bool
  exempt : Bool
  deriving DecidableEq, Repr

/-- The fields of a custom-3 conversion word (R181). -/
structure VxFields where
  fmt : Nat
  sat : Bool
  sr : Bool
  vm : Bool
  vs2 : Nat
  rs1 : Nat
  vd : Nat
  deriving DecidableEq, Repr

/-- Names one cache for way counts (R222): a chain cache or a die's system cache. -/
inductive CacheId where
  | chain (die chain : Nat)
  | system (die : Nat)
  deriving DecidableEq, Repr

/-- One IDENT record (R391). -/
structure Ident where
  kind : Nat
  port : Nat
  plane : Nat
  slot : Nat
  major : Nat
  minor : Nat
  /-- The byte at offset 6, where a switch reports a quarantine cause (R393). -/
  cause : Nat
  serial : Nat
  fwVersion : Nat
  digest : Nat
  deriving DecidableEq, Repr

/-- A link packet: header (R398) and payload. -/
structure Packet where
  type : Nat
  poison : Bool
  masked : Bool
  srcPkg : Nat
  dstPkg : Nat
  slice : Nat
  epoch : Nat
  partition : Nat
  tag : Nat
  addr : Nat
  len : Nat
  status : Nat
  mask : Nat
  payload : List Byte
  deriving DecidableEq, Repr

/-- One entry of an EPOCH_SET (R407, R430). -/
structure RouteEntry where
  id : Nat
  valid : Bool
  slice : Nat
  slot : Nat
  epoch : Nat
  effective : Nat
  deriving DecidableEq, Repr

/-- An AMO operation of the A extension or of a host command (R309, R499). -/
inductive AmoOp where
  | swap | add | xor | and | or | min | max | minu | maxu | cas
  deriving DecidableEq, Repr

/-- Causes of a host loss (R513). -/
inductive HostLossCause where
  | perst | linkDown | hotReset | flr | bme
  deriving DecidableEq, Repr

/-- What the feed of the matrix array does at an ARRAY_PASS_START: cycles that it stalls, unmasked rows that it feeds and zero rows that the drain writes, at
most (R149 to R155). -/
structure PassFeed where
  stall : Nat
  rows : Nat
  zeros : Nat
  deriving DecidableEq, Repr

/-- The JOIN request of a package (R416). -/
structure JoinReq where
  slot : Nat
  serial : Nat
  oldEpoch : Nat
  digest : Nat
  fwVersion : Nat
  deriving DecidableEq, Repr

/-- What JOIN_GRANT carries (R399, R416). -/
structure JoinGrantMsg where
  epoch : Nat
  id : Nat
  role : Nat
  deriving DecidableEq, Repr

/-- The uses of MGMT packets (R399, R516, R613). -/
inductive MgmtMsg where
  | routeWrite (e : RouteEntry)
  | switchTable (slot : Nat) (serial : Nat) (id : Nat)
  | relayRequest (src die offset : Nat)
  | relayAnswer (value : Nat)
  | dieFailed (pkg dieMask : Nat)
  deriving DecidableEq, Repr

/-- The payload of a beacon (R408). -/
structure BeaconMsg where
  tick : Nat
  oppNext : Nat
  plan : Nat
  planNext : Nat
  oppNext2 : Nat
  epochGen : Nat
  lost : Nat
  deriving DecidableEq, Repr

/-- What a BEACON_ACK carries (R410). -/
structure BeaconAckMsg where
  pkg : Nat
  tick : Nat
  league : Nat
  epoch : Nat
  allowance : Nat
  deriving DecidableEq, Repr

/-- The requester of a control-space write (R7, R626), with the die it is on (R26). -/
structure Requester where
  die : Nat := 0
  unit : Nat
  req : Nat
  part : Nat
  deriving DecidableEq, Repr

/-- The registers that a register write reaches: the control space of a die (R28), or the page of a queue in BAR2 (R487, R527). -/
inductive RegPlace where
  | control (die : Nat)
  | queue (q : Nat)
  deriving DecidableEq, Repr

/-- The commands: one constructor per row of spec/opcode_table.json. -/
inductive Instr where
  | coldStart (b : Board)
  | pwrGoodDeassert (widthNs : Nat)
  | edgeTrained (e : EdgeEvidence)
  | edgeTrainTimeout (site port : Nat)
  | bootStepTimeout (step : Nat)
  | tickAcquireTimeout
  | joinWaitExpiry
  | leagueSealTimeout
  | seal
  | tickBoundary (o : BoundaryObs)
  | tickInPulse (offsetNs : Int) (widthNs : Nat)
  | ppsEdge (offsetNs : Int)
  | holdoverExpiry
  | avsConfirm (die : Nat)
  | avsRiseLate (die : Nat)
  | thermalTrip (cause : Nat) (die : Nat)
  | ethrefLoss (durationNs : Nat)
  | dieClockLoss (die : Nat)
  | spanStart (span : Nat) (perch : PerchStart)
  | spanLateStart (span : Nat) (perch : PerchStart)
  | spanend (perch : Nat)
  | budgetExpiry (perch : Nat)
  | displacement (perch : Nat)
  | spanStatusRecord (span : Nat)
  | spanWarning (perch : Nat)
  | perchGate (perch : Nat)
  | perchWake (perch : Nat)
  | seqInstruction (perch : Nat) (ecc : Ecc)
  | perchTrap (perch : Nat) (cause tval : W32)
  | perchMret (perch : Nat)
  | pspanwarnWrite (perch : Nat) (value : W32)
  | perchFenceSc (perch scope : Nat)
  | cwait (perch ctr rs1 rd : Nat)
  | cwaitSatisfied (perch : Nat)
  | cread (perch ctr rd inc : Nat)
  | cset (perch ctr rs1 rd inc : Nat)
  | cadd (perch ctr rs1 rd inc : Nat)
  | dmaq (perch ctx rs1 rd : Nat)
  | dmactlStatus (perch ctx rd : Nat)
  | dmactlAbort (perch ctx rd : Nat)
  | dmactlWaitidle (perch ctx rd : Nat)
  | dmaDescriptorStart (perch ctx : Nat) (ext : Ext) (ecc : Ecc)
  | dmaDescriptorComplete (perch ctx : Nat)
  | arrivalIncrement (perch ctx : Nat)
  | scopSend (perch ep rs1 rs2 rd : Nat)
  | scopAck (perch ep rs2 rd : Nat)
  | scopStatus (perch ep rd : Nat)
  | channelMessageArrival (perch ep : Nat)
  | channelSourceRelease (perch ep : Nat)
  | channelCreditArrival (perch ep : Nat)
  | mld (perch fmt : Nat) (wscaled : Bool) (rs1 rs2 : Nat)
  | mxm (perch fmt : Nat) (acc zfill scaled : Bool) (rs1 rs2 rd : Nat)
  | mwaitPasses (perch rd : Nat)
  | mwaitLoads (perch rd : Nat)
  | arrayLoadStart (perch : Nat)
  | arrayPassStart (perch : Nat) (stallCycles : PassFeed)
  | arrayPassComplete (perch : Nat)
  | keeperWindowExpiry (perch : Nat)
  | arrayRampDownStep (perch : Nat)
  | arrayRampUpStep (perch : Nat)
  | vxncvt (perch : Nat) (f : VxFields)
  | vxncvts (perch : Nat) (f : VxFields)
  | vxwcvt (perch : Nat) (f : VxFields)
  | vxwcvts (perch : Nat) (f : VxFields)
  | vxmaxsc (perch : Nat) (f : VxFields)
  | homeWrite (r : HomeReq) (data : List Byte) (poison : Bool)
  | homeRead (r : HomeReq) (len : Nat) (ecc : Ecc)
  | homeAtomic (r : HomeReq) (op : AmoOp) (width : Nat) (operand compare : W64)
  | wcbEntryTimeout (die channel line : Nat)
  | wcbEntryIssue (die channel line : Nat)
  | chainCacheFill (die chain line : Nat)
  | wayDisable (c : CacheId) (way : Nat)
  | scrubRead (die : Nat) (ecc : Ecc)
  | moveCopy (die entry : Nat) (ext : Ext)
  | moveZero (die entry : Nat)
  | moveKvIn (die entry : Nat)
  | moveKvOut (die entry : Nat)
  | moveNvmeRd (die entry : Nat)
  | moveNvmeWr (die entry : Nat)
  | moveEntryDone (die entry atNs : Nat)
  | moveTailAbort (die : Nat)
  | ownClaim (part count page : Nat)
  | ownRelease (part count page : Nat)
  | ownReleaseComplete
  | pageWalkDone (die unit req part dva access : Nat)
  | mmuInvRange (part count : Nat)
  | mmuInvPartition (part : Nat)
  | mmuInvComplete
  | collPost (coll member : Nat)
  | collMemberComplete (coll k member : Nat)
  | collDeadline (coll k : Nat)
  | collTimeout (coll k : Nat)
  | linkPortTrain (die port : Nat) (lanes : List Bool) (rttNs : Nat)
  | identReceive (die port : Nat) (rec : Ident)
  | identResend (die port : Nat)
  | flitReplay (die port : Nat) (fecCorrected : Nat)
  | linkFence (die port : Nat)
  | linkRetrainDone (die port : Nat) (rec : Ident)
  | linkRead (die port : Nat) (p : Packet)
  | linkWrite (die port : Nat) (p : Packet)
  | linkAtomic (die port : Nat) (p : Packet)
  | readRsp (die port : Nat) (p : Packet)
  | writeAck (die port : Nat) (p : Packet)
  | atomicRsp (die port : Nat) (p : Packet)
  | collData (die port : Nat) (p : Packet)
  | collCtrl (die port : Nat) (p : Packet)
  | beacon (plane : Nat) (offsetNs : Int) (m : BeaconMsg)
  | beaconAck (plane : Nat) (m : BeaconAckMsg)
  | mgmt (plane : Nat) (m : MgmtMsg)
  | join (plane : Nat) (m : JoinReq)
  | joinGrant (plane : Nat) (m : JoinGrantMsg)
  | portDown (plane slot : Nat)
  | epochSet (plane gen : Nat) (entries : List RouteEntry)
  | remoteWriteLost (tag : Nat)
  | beaconMiss
  | packageLost (pkg : Nat)
  | ethFrameRx (port arrivalNs : Nat) (frame : List Byte)
  | slotClose (flow tick : Nat)
  | egressRelease (flow : Nat)
  | pacedSend (flow cell : Nat) (lateNs : Nat)
  | excRingTx (port : Nat) (frame : List Byte)
  | flowEnable (flow : Nat)
  | flowDisable (flow : Nat)
  | flowRekey (flow key : Nat)
  | flowReanchor (flow : Nat)
  | keyLoad (key : Nat) (long : Bool)
  | nvmeCommandIssue (port entry : Nat) (write : Bool) (lba bytes dva : Nat)
  | nvmeCommandComplete (port cid : Nat) (ok : Bool) (ext : Ext)
  | nvmeAbortTimeout (port cid : Nat)
  | nvmeControllerReset (port : Nat) (recovered : Bool)
  | stewardInstruction (hart : Nat) (ext : Ext)
  | twait (hart : Nat) (next : Bool) (rs1 rd : Nat)
  | stewardFenceSc (hart scope : Nat)
  | spanq (hart rs1 rd : Nat)
  | tread (hart sel rd : Nat)
  | setipi (hart rs1 identity : Nat) (supervisor : Bool)
  | mpartWrite (hart : Nat) (value : W64)
  | mliveWrite (hart : Nat) (value : W64)
  | mlosterrWrite (hart : Nat)
  | mtimecmpxExpiry (hart : Nat) (supervisor : Bool)
  | wfi (hart : Nat)
  | coreWake (hart : Nat)
  | cboClean (hart rs1 : Nat)
  | cboFlush (hart rs1 : Nat)
  | cboInval (hart rs1 : Nat)
  | stewardAmo (hart : Nat) (op : AmoOp) (width rd rs1 rs2 : Nat)
  | loadReserved (hart width rd rs1 : Nat)
  | storeConditional (hart width rd rs1 rs2 : Nat)
  | reservationTimeout (hart : Nat)
  | sfenceVma (hart rs1 rs2 : Nat)
  | sbiPageMap (hart : Nat)
  | sbiPageUnmap (hart : Nat)
  | sbiFlowCmd (hart : Nat)
  | sbiKeyLoad (hart : Nat)
  | bar0DieViewWrite (offset size : Nat) (value : W64)
  | bar4Read (offset len : Nat)
  | bar4Write (offset : Nat) (data : List Byte) (poison : Bool)
  | doorbell (queue : Nat) (value : W64)
  | commandFetch (queue : Nat) (slots : List (List Byte))
  | commandReread (queue : Nat) (slots : List (List Byte))
  | nop (queue : Nat)
  | fence (queue : Nat)
  | write (queue : Nat)
  | copy (queue : Nat) (ext : Ext)
  | fill (queue : Nat)
  | atomic (queue : Nat)
  | runComplete (queue : RunRef)
  | hostWindowEnd (part : Nat)
  | completionWrite (queue : Nat)
  | msixHoldoffExpiry (queue : Nat)
  | cqHeadWrite (queue : Nat) (value : W64)
  | queueEnable (queue holdoff depth sqBase cqBase : Nat)
  | queueDisable (queue : Nat)
  | queueResume (queue sqBase cqBase : Nat)
  | queueAbort (queue : Nat)
  | queueAbortDone (queue : Nat)
  | hostLost (cause : HostLossCause)
  | hostAttach
  | relayRead (pkg die offset : Nat)
  | relayTimeout
  | deviceReset (b : Board)
  | dumpUnitTimeout
  | dumpTake
  | dumpChunkRelease
  | logConsWrite (value : Nat)
  | flashProgramPage
  | flashEraseSector
  | flashCmdComplete (verifyOk : Bool)
  | cntClr
  | sbRead (die offset : Nat)
  | sbReset (key : Nat) (b : Board)
  | sbAlert (ack : Nat)
  | sbIdent
  | jtagInstruction (ir : Nat)
  | registerWrite (r : Requester) (place : RegPlace) (offset size : Nat) (value : W64)
  | edgeRetrain (edge : Nat) (ok : Bool)
  | perstNRelease (rate width : Nat)
  | pcieConfigWrite (msixEnable bme : Bool)
  | msixVectorUnmask (vector : Nat)
  | ethPortLinkChange (port : Nat) (up : Bool)
  | remoteReadLost (tag : Nat)
  | hostWindowStart (part : Nat)
  | beaconUnanswered (pkg : Nat)
  | recallDeferralEnd (hart : Nat)
  deriving DecidableEq, Repr

end Sys2Proof
end

