-- ==== Sys2Proof/Config.lean ====
section
/-! DEFINITION. The values that the spec leaves open: opaque constants, so that nothing can be proved about what they are (assumption 2). -/

namespace Sys2Proof.Config

/-- A word whose value the spec leaves open, for each count of State's seed. -/
opaque freeWord : Nat → Nat

/-- A byte whose value the spec leaves open, for each count of State's seed and position. -/
opaque freeByte : Nat → Nat → Byte

/-- The major version of the link protocol that the package speaks; the spec gives no number (assumption 8). -/
opaque protoMajor : Byte

/-- The minor version of the link protocol that the package speaks (assumption 8). -/
opaque protoMinor : Byte

/-- The bytes of the boot ROM (R537); the spec does not give them (assumption 2). -/
opaque romByte : Nat → Byte

/-- The IDCODE and BYPASS opcodes of the TAP and the word that IDCODE captures; the spec gives none of them (assumption 48). -/
opaque idcodeOp : Nat
opaque bypassOp : Nat
opaque idcodeWord : Nat

end Sys2Proof.Config
end

