-- ==== Sys2Proof/Machine/KMap.lean ====
section
/-! DEFINITION. Sparse stores keyed by a number, in one canonical form: keys strictly rising, no entry equal to the default.
Registers, counters, memory bytes and every indexed resource of the block are held in this form. -/

namespace Sys2Proof.Machine

/-- A sparse store: (key, value) pairs; an unlisted key holds the default. -/
abbrev KMap (α : Type) := List (Nat × α)

/-- The value at key `k`; `d` where the store lists none. -/
def KMap.get {α : Type} (d : α) : KMap α → Nat → α
  | [], _ => d
  | (k', v) :: t, k => if k = k' then v else KMap.get d t k

/-- Removes the entries of a key. -/
def KMap.erase {α : Type} : KMap α → Nat → KMap α
  | [], _ => []
  | (k', v') :: t, k => if k = k' then KMap.erase t k else (k', v') :: KMap.erase t k

/-- Enters `v` at key `k` before the first greater key. -/
def KMap.insert {α : Type} : KMap α → Nat → α → KMap α
  | [], k, v => [(k, v)]
  | (k', v') :: t, k, v => if k < k' then (k, v) :: (k', v') :: t else (k', v') :: KMap.insert t k v

/-- Writes `v` at key `k`, keeping the canonical form: writing the default removes the entry. -/
def KMap.set {α : Type} [DecidableEq α] (d : α) (m : KMap α) (k : Nat) (v : α) : KMap α :=
  if v = d then KMap.erase m k else KMap.insert (KMap.erase m k) k v

/-- Every key of the store is above `b`, keys rise strictly, and no value is the default. -/
def KMap.wfFrom {α : Type} [DecidableEq α] (d : α) : Nat → KMap α → Bool
  | _, [] => true
  | b, (k, v) :: t => decide (b ≤ k) && !decide (v = d) && KMap.wfFrom d (k + 1) t

/-- The canonical form. -/
def KMap.wf {α : Type} [DecidableEq α] (d : α) (m : KMap α) : Bool := KMap.wfFrom d 0 m

/-- Applies `f` to the value at `k`. -/
def KMap.upd {α : Type} [DecidableEq α] (d : α) (m : KMap α) (k : Nat) (f : α → α) : KMap α :=
  KMap.set d m k (f (KMap.get d m k))

/-- Drops every entry whose key satisfies `p`. -/
def KMap.dropIf {α : Type} (p : Nat → Bool) (m : KMap α) : KMap α := m.filter (fun e => !p e.1)

/-- Applies `f` to every listed value; entries that become the default leave the store. -/
def KMap.mapV {α : Type} [DecidableEq α] (d : α) (f : Nat → α → α) : KMap α → KMap α
  | [] => []
  | (k, v) :: t => if f k v = d then KMap.erase (KMap.mapV d f t) k else (k, f k v) :: KMap.erase (KMap.mapV d f t) k

/-- Writes consecutive values from key `k` up. -/
def KMap.setList {α : Type} [DecidableEq α] (d : α) (m : KMap α) (k : Nat) : List α → KMap α
  | [] => m
  | v :: t => KMap.setList d (KMap.set d m k v) (k + 1) t

/-- Reads `n` consecutive values from key `k` up. -/
def KMap.getList {α : Type} (d : α) (m : KMap α) (k : Nat) : Nat → List α
  | 0 => []
  | n + 1 => KMap.get d m k :: KMap.getList d m (k + 1) n

end Sys2Proof.Machine
end

