-- ==== Sys2Proof/Machine/Base.lean ====
section
/-! DEFINITION. Bit-field, byte-order and list helpers that the layouts of the spec use (R5: little-endian). -/

namespace Sys2Proof.Machine

/-- Bits [lo + w - 1 : lo] of a number. -/
def bits (n lo w : Nat) : Nat := n / 2 ^ lo % 2 ^ w

/-- Bit `i` of a number. -/
def bit (n i : Nat) : Bool := n / 2 ^ i % 2 = 1

/-- 1 for true. -/
def b2n (b : Bool) : Nat := if b then 1 else 0

/-- Rounds `n` down to a multiple of `m`. -/
def alignDown (n m : Nat) : Nat := m * (n / m)

/-- Rounds `n` up to a multiple of `m`. -/
def alignUp (n m : Nat) : Nat := (n + m - 1) / m * m

/-- `n` divided by `m`, rounded up. -/
def ceilDiv (n m : Nat) : Nat := (n + m - 1) / m

/-- Saturating sum in a field of `w` bits. -/
def satAdd (w a b : Nat) : Nat := min (a + b) (2 ^ w - 1)

/-- The signed value of the low `w` bits of `n`. -/
def toSigned (w n : Nat) : Int :=
  let v := n % 2 ^ w
  if 2 * v < 2 ^ w then (v : Int) else (v : Int) - (2 ^ w : Nat)

/-- The low `w` bits of a signed value. -/
def ofSigned (w : Nat) (i : Int) : Nat := (i % (2 ^ w : Nat)).toNat

/-- The number that bytes hold, least significant first (R5). -/
def leNat : List Byte → Nat
  | [] => 0
  | b :: t => b.toNat + 256 * leNat t

/-- `k` bytes of a number, least significant first (R5). -/
def leBytes : Nat → Nat → List Byte
  | 0, _ => []
  | k + 1, n => BitVec.ofNat 8 n :: leBytes k (n / 256)

/-- The number that bytes hold, most significant first (network order). -/
def beNat (l : List Byte) : Nat := leNat l.reverse

/-- `k` bytes of a number, most significant first (network order). -/
def beBytes (k n : Nat) : List Byte := (leBytes k n).reverse

/-- A little-endian field of `size` bytes at `off` of a byte source. -/
def le (src : Nat → Byte) (off : Nat) : Nat → Nat
  | 0 => 0
  | n + 1 => (src off).toNat + 256 * le src (off + 1) n

/-- `n` bytes of a byte source. -/
def srcList (src : Nat → Byte) (off : Nat) : Nat → List Byte
  | 0 => []
  | n + 1 => src off :: srcList src (off + 1) n

/-- A list of bytes as a byte source, `d` beyond its end. -/
def srcOf (d : Byte) (l : List Byte) (off : Nat) : Byte := l.getD off d

/-- Field of `size` bytes at `off` of a byte list (zero beyond its end). -/
def fld (l : List Byte) (off size : Nat) : Nat := leNat ((l.drop off).take size)

/-- Big-endian field of `size` bytes at `off` of a byte list. -/
def fldBE (l : List Byte) (off size : Nat) : Nat := beNat ((l.drop off).take size)

/-- Cuts a list into pieces of `k` elements; `fuel` bounds the pieces. -/
def chunksAux {α : Type} (k : Nat) : Nat → List α → List (List α)
  | 0, _ => []
  | f + 1, l => if l.isEmpty then [] else l.take k :: chunksAux k f (l.drop k)

/-- Cuts a list into pieces of `k` elements. -/
def chunks {α : Type} (k : Nat) (l : List α) : List (List α) := chunksAux k l.length l

/-- Numbers below `n` that satisfy `p`, rising. -/
def numsBelow (n : Nat) (p : Nat → Bool) : List Nat := (List.range n).filter p

/-- Replaces element `i`. -/
def setAt {α : Type} (l : List α) (i : Nat) (v : α) : List α := l.set i v

/-- Changes element `i`. -/
def updAt {α : Type} (l : List α) (i : Nat) (f : α → α) : List α := l.modify i f

/-- Inserts into a list sorted by `key`, after equals. -/
def insertBy {α : Type} (key : α → Nat) (x : α) : List α → List α
  | [] => [x]
  | y :: t => if key x < key y then x :: y :: t else y :: insertBy key x t

/-- Stable sort by a number. -/
def sortBy {α : Type} (key : α → Nat) (l : List α) : List α := l.foldl (fun acc x => insertBy key x acc) []

/-- True when no element stands twice. -/
def noDup {α : Type} [DecidableEq α] : List α → Bool
  | [] => true
  | a :: t => !t.contains a && noDup t

/-- Number of one bits among the low `w` bits. -/
def popcount (n : Nat) : Nat → Nat
  | 0 => 0
  | w + 1 => b2n (bit n w) + popcount n w

/-- A number without the bits of a mask. -/
def clearBits (n m : Nat) : Nat := n - (n &&& m)

/-- Index of the lowest one bit below `w`, counted from `i`. -/
def lowestBit (n : Nat) : Nat → Nat → Option Nat
  | 0, _ => none
  | f + 1, i => if bit n i then some i else lowestBit n f (i + 1)

/-- Applies `f` while it answers, at most `fuel` times. -/
def iterWhile {α : Type} (f : α → Option α) : Nat → α → α
  | 0, a => a
  | n + 1, a => match f a with
    | some a' => iterWhile f n a'
    | none => a

/-- CRC over bytes, reflected polynomial: CRC-32 of IEEE 802.3 (R540, R542). -/
def crc32Step (c : BitVec 32) : Nat → BitVec 32
  | 0 => c
  | n + 1 => crc32Step (if c.getLsbD 0 then (c >>> 1) ^^^ 0xEDB88320#32 else c >>> 1) n

/-- CRC-32 (IEEE 802.3) of a byte list. -/
def crc32 (l : List Byte) : Nat :=
  (~~~(l.foldl (fun c b => crc32Step (c ^^^ b.zeroExtend 32) 8) 0xFFFFFFFF#32)).toNat

/-- CRC-16/CCITT-FALSE over one byte. -/
def crc16Step (c : BitVec 16) : Nat → BitVec 16
  | 0 => c
  | n + 1 => crc16Step (if c.getLsbD 15 then (c <<< 1) ^^^ 0x1021#16 else c <<< 1) n

/-- CRC-16/CCITT-FALSE of a byte list. -/
def crc16 (l : List Byte) : Nat :=
  (l.foldl (fun c b => crc16Step (c ^^^ BitVec.shiftLeft (b.zeroExtend 16) 8) 8) 0xFFFF#16).toNat

end Sys2Proof.Machine
end

