-- ==== Sys2Proof/Machine/CharterTypes.lean ====
section
/-! DEFINITION. The charter as data (R542 to R555): the sections with the fields that the spec's layouts name, as read from flash. -/

namespace Sys2Proof.Machine

/-- Span entry (R49). -/
structure SpanEntry where
  spanId : Nat := 0
  kind : Nat := 0
  flags : Nat := 0
  group : Nat := 0
  kernel : Nat := 0
  startNs : Nat := 0
  budget : Nat := 0
  partition : Nat := 0
  carryLimit : Nat := 0
  contId : Nat := 0
  saveBytes : Nat := 0
  argDva : Nat := 0
  statusDva : Nat := 0
  saveDva : Nat := 0
  deriving DecidableEq, Repr

/-- Pattern entry of the SCHD section (R550). -/
structure Pattern where
  firstSpan : Nat := 0
  spanCount : Nat := 0
  firstMove : Nat := 0
  moveCount : Nat := 0
  deriving DecidableEq, Repr

/-- Move-list entry (R248). -/
structure MoveEntry where
  kind : Nat := 0
  flags : Nat := 0
  partition : Nat := 0
  execDie : Nat := 0
  userSpan : Nat := 0
  startNs : Nat := 0
  deadlineNs : Nat := 0
  src : Nat := 0
  dst : Nat := 0
  amount : Nat := 0
  port : Nat := 0
  nsid : Nat := 0
  doneDva : Nat := 0
  deriving DecidableEq, Repr

/-- Collective definition (R354). -/
structure CollDef where
  collId : Nat := 0
  op : Nat := 0
  mode : Nat := 0
  dtype : Nat := 0
  redop : Nat := 0
  scope : Nat := 0
  resultFmt : Nat := 0
  partition : Nat := 0
  root : Nat := 0
  maxCount : Nat := 0
  deadlineNs : Nat := 0
  memberFirst : Nat := 0
  memberCount : Nat := 0
  deriving DecidableEq, Repr

/-- Collective member entry (R355). -/
structure CollMember where
  package : Nat := 0
  readyCtr : Nat := 0
  doneCtr : Nat := 0
  perch : Nat := 0
  spanId : Nat := 0
  postOff : Nat := 0
  srcDva : Nat := 0
  dstDva : Nat := 0
  resDva : Nat := 0
  statusDva : Nat := 0
  deriving DecidableEq, Repr

/-- SCHD body (R550). A group is its bitmap as a number, bit p for package perch p (R50). -/
structure Sched where
  period : Nat := 0
  srcPri : Nat := 0
  srcAlt : Nat := 0
  reqLock : Bool := false
  tickInEdge : Bool := false
  ptpDomain : Nat := 0
  tickOutWidth : Nat := 0
  floorOpp : Nat := 0
  patternCount : Nat := 0
  patterns : List Pattern := []
  spans : List SpanEntry := []
  groups : List Nat := []
  moves : List MoveEntry := []
  collDefs : List CollDef := []
  collMembers : List CollMember := []
  /-- First entry of the move list, the definitions and the members with a reserved byte that is not zero (R250, R356). -/
  badMove : Option Nat := .none
  badDef : Option Nat := .none
  badMember : Option Nat := .none
  deriving DecidableEq, Repr

/-- HEAD body (R545). -/
structure Head where
  magic : Nat := 0
  format : Nat := 0
  part : Nat := 0
  flags : Nat := 0
  seq : Nat := 0
  minFw : Nat := 0
  joinWaitS : Nat := 0
  totalLen : Nat := 0
  deriving DecidableEq, Repr

/-- Slot entry of TOPO (R546). -/
structure SlotEntry where
  serial : Nat := 0
  id : Nat := 0
  role : Nat := 0
  slice : Nat := 0
  standsFor : Nat := 0
  deriving DecidableEq, Repr

/-- TOPO body (R546). -/
structure Topo where
  planes : Nat := 0
  managerSlot : Nat := 0
  fathomGib : Nat := 0
  nvmePorts : Nat := 0
  bandMode : Nat := 0
  switchSerial : List Nat := []
  edgeReserve : List Nat := []
  slots : List SlotEntry := []
  deriving DecidableEq, Repr

/-- Mapping entry (R548). -/
structure MapEntry where
  dva : Nat := 0
  count : Nat := 0
  rights : Nat := 0
  kind : Nat := 0
  band : Nat := 0
  gib : Nat := 0
  leaf : Nat := 0
  pkg : Nat := 0
  forId : Nat := 0
  target : Nat := 0
  deriving DecidableEq, Repr

/-- APLIC route of a source (R547, R474): hart, interrupt file, identity. -/
structure AplicRoute where
  hart : Nat := 0
  file : Nat := 0
  identity : Nat := 0
  deriving DecidableEq, Repr

/-- PART record (R547) with its mapping list and APLIC routes. -/
structure PartRec where
  flags : Nat := 0
  tableBand : Nat := 0
  tableGib : Nat := 0
  harts : Nat := 0
  service : Nat := 0xFFFFFFFF
  entryDva : Nat := 0
  maps : List MapEntry := []
  routes : List AplicRoute := []
  deriving DecidableEq, Repr

/-- QUOT record (R549). -/
structure QuotRec where
  scratch : Nat := 0
  chainMask : Nat := 0
  scMask : List Nat := []
  stewardMask : List Nat := []
  stackedPages : Nat := 0
  fathomPages : Nat := 0
  stackedBw : List Nat := []
  fathomBw : List Nat := []
  /-- (port, NSID) grants. -/
  nvme : List (Nat × Nat) := []
  deriving DecidableEq, Repr

/-- Kernel entry (R551) with its channel table: rows of 32 endpoint words (R128). -/
structure KernelEntry where
  imageOff : Nat := 0
  imageSize : Nat := 0
  entry : Nat := 0
  chanRows : List (List Nat) := []
  deriving DecidableEq, Repr

/-- Model-table entry (R552). -/
structure ModelEntry where
  partition : Nat := 0
  port : Nat := 0
  forId : Nat := 0
  flags : Nat := 0
  nsid : Nat := 0
  lba : Nat := 0
  bytes : Nat := 0
  dva : Nat := 0
  digest : List Byte := []
  deriving DecidableEq, Repr

/-- KERN body (R551). -/
structure Kern where
  kernels : List KernelEntry := []
  /-- Bytes of the KERN body, where IMAGE_OFF points. -/
  image : List Byte := []
  models : List ModelEntry := []
  deriving DecidableEq, Repr

/-- Flow entry (R433): structural and session fields. -/
structure FlowEntry where
  kind : Nat := 0
  flags : Nat := 0
  port : Nat := 0
  partition : Nat := 0
  pt : Nat := 0
  jitter : Nat := 0
  vlanTci : Nat := 0
  ssrc : Nat := 0
  localUdp : Nat := 0
  remoteUdp : Nat := 0
  localIp : List Byte := []
  remoteIp : List Byte := []
  nextHopMac : List Byte := []
  key : Nat := 0
  tsPerTick : Nat := 0
  tsPerCell : Nat := 0
  ringDva : Nat := 0
  slotBytes : Nat := 0
  slotCount : Nat := 0
  cellBytes : Nat := 0
  producer : Nat := 0
  t140Pt : Nat := 0
  earliestNs : Nat := 0
  deriving DecidableEq, Repr

/-- PWR body (R554). -/
structure PwrSec where
  capW : Nat := 0
  oppMin : Nat := 0
  oppMax : Nat := 0
  policy : Nat := 0
  keeperQ : Nat := 0
  gateUs : Nat := 0
  stewardMhz : Nat := 0
  deriving DecidableEq, Repr

/-- RAS body (R554). -/
structure RasSec where
  eventEn : Nat := 0
  scrubH : Nat := 0
  scrupleKib : Nat := 0
  deriving DecidableEq, Repr

/-- DEGR plan entry (R555) with its SCHD body. -/
structure Plan where
  plan : Nat := 0
  dieId : Nat := 0xFF
  dieMask : Nat := 0
  pkgMask : Nat := 0
  adopt : List (Nat × Nat) := []
  sched : Sched := {}
  deriving DecidableEq, Repr

/-- A whole charter (R542). -/
structure Charter where
  head : Head := {}
  topo : Topo := {}
  parts : List PartRec := []
  quots : List QuotRec := []
  sched : Sched := {}
  kern : Kern := {}
  rout : List Nat := []
  excUnmatched : Bool := false
  flows : List FlowEntry := []
  /-- Bytes of the flow entries, for the copy in device pages (R433). -/
  flowBytes : List Byte := []
  host : List Nat := []
  pwr : PwrSec := {}
  ras : RasSec := {}
  plans : List Plan := []
  deriving DecidableEq, Repr

/-- Size of an element (R362). -/
def elemSize (dtype : Nat) : Nat := if dtype = 2 then 1 else 4

/-- Bytes of one member's contribution (R362). -/
def CollDef.readBytes (c : CollDef) (count : Nat) (isRoot : Bool) : Nat :=
  if c.op = 4 then 0 else if c.op = 3 ∧ !isRoot then 0 else if c.op = 5 then count * 4 else count * elemSize c.dtype

/-- Bytes of one member's result (R362). -/
def CollDef.writeBytes (c : CollDef) (count : Nat) : Nat :=
  if c.op = 4 then 0
  else if c.op = 2 then c.memberCount * count * elemSize c.dtype
  else if c.op = 1 ∧ c.resultFmt = 1 then count * 64
  else if c.op = 5 then count * 4 else count * elemSize c.dtype

/-- A reduction that sums exactly. -/
def CollDef.exactSum (c : CollDef) : Bool := c.op = 1 && c.mode = 0 && c.redop = 0

/-- A reduction by MAX or MIN. -/
def CollDef.isPick (c : CollDef) : Bool := c.op = 1 && c.redop ≠ 0

end Sys2Proof.Machine
end

