-- ==== Sys2Proof/Machine/ClockState.lean ====
section
/-! DEFINITION. The state of the tick generator, the power controller and start-up that no register shows (02, 15 and 16 of the spec). -/

namespace Sys2Proof.Machine

/-- The tick generator (R39 to R43). -/
structure TickGen where
  /-- Ticks in a row in which the event of the primary and of the alternate was within 1 µs. -/
  priRun : Nat := 0
  altRun : Nat := 0
  /-- Expected events of the active source missing in a row, and ticks in a row beyond 100 µs. -/
  missRun : Nat := 0
  farRun : Nat := 0
  /-- Offsets of a TICK_IN pulse and a PPS edge accepted for the coming boundary (R43). -/
  tickIn : Option Int := .none
  pps : Option Int := .none
  /-- A source event was missed, or the state changed, in this tick (R67). -/
  srcEvent : Bool := false
  /-- Boundaries marked since the last PPS boundary was placed (R37). -/
  marks : Nat := 0
  /-- ns by which the present tick is longer than the period: a step, a slew, or the period kept in holdover (R40, R41). -/
  adj : Int := 0
  /-- The phase error that is left to be slewed away (R41). -/
  left : Int := 0
  /-- The phase error of the active source's last event, with the ns and the ticks marked since then; none before its first event. -/
  seen : Option (Int × Nat × Nat) := .none
  /-- The interval last measured against the active source: ns, and ticks in it (R40). -/
  measured : Option (Int × Nat) := .none
  deriving DecidableEq, Repr

/-- What the power controller holds for a die (R580): ticks in a row of the hot and of the cool condition, stacks under double refresh, ticks in a row
below the steward limit. -/
structure DieHeat where
  hot : Nat := 0
  cool : Nat := 0
  hotStacks : Nat := 0
  stewCool : Nat := 0
  deriving DecidableEq, Repr

/-- The power controller. -/
structure Power where
  /-- The package allowance A (R578). -/
  allowance : Nat := 0
  /-- Ticks begun since dispatch began or resumed (R579). -/
  ramp : Nat := 0
  heat : KMap DieHeat := []
  /-- A ceiling or a steward clock changed, or CAP_UNMET became set, in this tick (R583). -/
  event : Bool := false
  /-- Dies whose regulator has been given a rise and has not confirmed it (R640, R641). -/
  rising : List Nat := []
  /-- What set the point fixed for the coming ticks (R590): of the next tick, the tick after it and, in a league, those up to the fourth. -/
  limiters : List Nat := []
  deriving DecidableEq, Repr

/-- Start-up and reset (R536, R557, R612, R617). -/
structure Boot where
  /-- READY was reached (R536 step 10). -/
  ready : Bool := false
  /-- What the start found, kept while boot waits; the evidence and the isolated ports so far (R30, R31). -/
  board : Option Board := .none
  evidence : List EdgeEvidence := []
  isolated : List (Nat × Nat) := []
  /-- Dies that discovery has not placed (R32, R33). -/
  absent : List Nat := []
  /-- The step of R536 that boot waits in: 0 none, 2 discovery, 3 firmware, 6 memory, 8 NVMe. -/
  wait : Nat := 0
  /-- The charter copy and the boot firmware copy in use: 0 none, 1 A, 2 B (R539, R567). -/
  copyUsed : Nat := 0
  fwUsed : Nat := 0
  /-- When the device reset in progress began, ns since cold start (R617). -/
  resetAt : Nat := 0
  /-- The charter copy in device pages: address, bytes, and how many of them the digest covers (R543, R561). -/
  copyAt : Nat × Nat × Nat := (0, 0, 0)
  /-- Environment block of each partition with harts: partition, DVA, address (R482). -/
  env : List (Nat × Nat × Nat) := []
  /-- Boot after a device reset that keeps TICK_COUNT (R561). -/
  again : Bool := false
  /-- Dispatch has never begun since cold start: the next boundary after seal begins tick 0 (R47). -/
  fresh : Bool := true
  /-- Boundaries in a row without a die's acknowledgement (R612), and dies that have stopped (R612, R641). -/
  noAck : KMap Nat := []
  stopped : List Nat := []
  /-- Times (ns since cold start) of the failed retrains of an edge in the last ms (R598). -/
  edgeFails : KMap (List Nat) := []
  /-- TEST_N was low at PWR_GOOD (R650), and STRAP_SB_ADDR. -/
  test : Bool := false
  strap : Nat := 0
  /-- THERMTRIP_N is low: the device is inert (R582). -/
  tripped : Bool := false
  /-- A flash command is running: whether it erases, its offset and the bytes to program (R573). -/
  flashOp : Option (Bool × Nat × List Byte) := .none
  /-- A dump is in progress: units done, and where the next record stands in the region (R619). -/
  dumping : Option (Nat × Nat) := .none
  /-- A device reset has been ordered and has not begun: 1 by the host, 2 by the sideband (R616). -/
  resetDue : Nat := 0
  deriving DecidableEq, Repr

end Sys2Proof.Machine
end

