-- ==== Sys2Proof/Machine/Float.lean ====
section
/-! DEFINITION. Floating-point arithmetic, exact and rounded once: the formats of R173, the rounding modes of R177, IEEE 754 operations with the
flags of the RISC-V F and D extensions (R179), subnormals kept (R174). -/

namespace Sys2Proof.Machine

/-- A floating format: exponent and mantissa widths, and which special encodings it has (R173). -/
structure FFmt where
  ebits : Nat
  mbits : Nat
  /-- The all-ones exponent holds infinity and NaN as in IEEE 754. -/
  ieee : Bool
  /-- Only the all-ones code is NaN (E4M3). -/
  topNan : Bool
  deriving DecidableEq, Repr

def fmtF64 : FFmt := ⟨11, 52, true, false⟩
def fmtF32 : FFmt := ⟨8, 23, true, false⟩
def fmtF16 : FFmt := ⟨5, 10, true, false⟩
def fmtBf16 : FFmt := ⟨8, 7, true, false⟩
def fmtE4M3 : FFmt := ⟨4, 3, false, true⟩
def fmtE5M2 : FFmt := ⟨5, 2, true, false⟩
def fmtE3M2 : FFmt := ⟨3, 2, false, false⟩
def fmtE2M3 : FFmt := ⟨2, 3, false, false⟩
def fmtE2M1 : FFmt := ⟨2, 1, false, false⟩

/-- Exponent bias. -/
def FFmt.bias (f : FFmt) : Nat := 2 ^ (f.ebits - 1) - 1

/-- Width in bits. -/
def FFmt.width (f : FFmt) : Nat := 1 + f.ebits + f.mbits

/-- The exponent of one unit of the subnormal grid. -/
def FFmt.qmin (f : FFmt) : Int := 1 - (f.bias : Int) - (f.mbits : Int)

/-- The largest finite code without its sign. -/
def FFmt.maxCode (f : FFmt) : Nat :=
  if f.ieee then (2 ^ f.ebits - 1) * 2 ^ f.mbits - 1
  else if f.topNan then 2 ^ (f.ebits + f.mbits) - 2
  else 2 ^ (f.ebits + f.mbits) - 1

/-- The code of infinity without its sign. -/
def FFmt.infCode (f : FFmt) : Nat := (2 ^ f.ebits - 1) * 2 ^ f.mbits

/-- Canonical NaN (R173); +0 for a format without NaN. -/
def FFmt.nanCode (f : FFmt) : Nat :=
  if f.ieee then f.infCode + 2 ^ (f.mbits - 1) else if f.topNan then 2 ^ (f.ebits + f.mbits) - 1 else 0

/-- A value: NaN (signalling or not), infinity, or an exact (−1)^neg × mant × 2^exp. -/
inductive FVal where
  | nan (signalling : Bool)
  | inf (neg : Bool)
  | fin (neg : Bool) (mant : Nat) (exp : Int)
  deriving DecidableEq, Repr

/-- Reads a code of the format. -/
def FFmt.decode (f : FFmt) (n : Nat) : FVal :=
  let neg := bit n (f.ebits + f.mbits)
  let e := bits n f.mbits f.ebits
  let m := bits n 0 f.mbits
  if f.ieee ∧ e = 2 ^ f.ebits - 1 then
    (if m = 0 then .inf neg else .nan (!bit m (f.mbits - 1)))
  else if f.topNan ∧ e = 2 ^ f.ebits - 1 ∧ m = 2 ^ f.mbits - 1 then .nan false
  else if e = 0 then .fin neg m f.qmin
  else .fin neg (2 ^ f.mbits + m) (f.qmin + (e : Int) - 1)

def FVal.isNan : FVal → Bool
  | .nan _ => true
  | _ => false

def FVal.isSnan : FVal → Bool
  | .nan s => s
  | _ => false

def FVal.isZero : FVal → Bool
  | .fin _ 0 _ => true
  | _ => false

def FVal.isInf : FVal → Bool
  | .inf _ => true
  | _ => false

def FVal.neg : FVal → Bool
  | .nan _ => false
  | .inf s => s
  | .fin s _ _ => s

def FVal.negate : FVal → FVal
  | .nan s => .nan s
  | .inf s => .inf (!s)
  | .fin s m e => .fin (!s) m e

/-- Accrued flags as fflags holds them: NX 1, UF 2, OF 4, DZ 8, NV 16. -/
def flNX : Nat := 1
def flUF : Nat := 2
def flOF : Nat := 4
def flDZ : Nat := 8
def flNV : Nat := 16

/-- Rounding modes by the RISC-V codes (R177). -/
def rmRNE : Nat := 0
def rmRTZ : Nat := 1
def rmRDN : Nat := 2
def rmRUP : Nat := 3
def rmRMM : Nat := 4

/-- Whether a kept magnitude is increased: `rem` is what was cut off, in units of 1/`unit`, with `sticky` below it. -/
def roundUp (rm : Nat) (neg : Bool) (kept rem unit : Nat) (sticky : Bool) : Bool :=
  if rem = 0 ∧ !sticky then false
  else if rm = rmRTZ then false
  else if rm = rmRDN then neg
  else if rm = rmRUP then !neg
  else if unit < 2 * rem ∨ (unit = 2 * rem ∧ sticky) then true
  else if unit = 2 * rem then (if rm = rmRMM then true else kept % 2 = 1)
  else false

/-- Number of bits of a number. -/
def bitLen (n : Nat) : Nat := if n = 0 then 0 else n.log2 + 1

/-- `m × 2^e` counted in units of 2^q: kept units, cut-off part and its unit. -/
def toGrid (m : Nat) (e q : Int) : Nat × Nat × Nat :=
  if q ≤ e then (m * 2 ^ (e - q).toNat, 0, 1)
  else
    let k := (q - e).toNat
    (m / 2 ^ k, m % 2 ^ k, 2 ^ k)

/-- Rounds (m + sticky part) × 2^e to `p` bits with no exponent bound below `q`: mantissa, exponent, inexact. -/
def roundTo (rm : Nat) (neg : Bool) (m : Nat) (e : Int) (sticky : Bool) (q : Int) : Nat × Int × Bool :=
  let (k, rem, unit) := toGrid m e q
  let k' := if roundUp rm neg k rem unit sticky then k + 1 else k
  (k', q, rem ≠ 0 || sticky)

/-- Packs a rounded magnitude `k × 2^q` that is below overflow; `q` is at or above the subnormal grid. -/
def FFmt.pack (f : FFmt) (neg : Bool) (k : Nat) (q : Int) : Nat :=
  let s := if neg then 2 ^ (f.ebits + f.mbits) else 0
  let (k, q) := if 2 ^ (f.mbits + 1) ≤ k then (k / 2, q + 1) else (k, q)
  if k < 2 ^ f.mbits then s + k
  else s + ((q - f.qmin + 1).toNat) * 2 ^ f.mbits + (k - 2 ^ f.mbits)

/-- The result on overflow by rounding mode (IEEE 754 section 7.4). -/
def FFmt.overflow (f : FFmt) (rm : Nat) (neg : Bool) : Nat :=
  let s := if neg then 2 ^ (f.ebits + f.mbits) else 0
  if rm = rmRTZ ∨ (rm = rmRDN ∧ !neg) ∨ (rm = rmRUP ∧ neg) then s + f.maxCode else s + f.infCode

/-- Rounds an exact magnitude (m + sticky part) × 2^e to the format: code and flags. Tininess is detected after rounding. -/
def FFmt.round (f : FFmt) (rm : Nat) (neg : Bool) (m : Nat) (e : Int) (sticky : Bool) : Nat × Nat :=
  let s := if neg then 2 ^ (f.ebits + f.mbits) else 0
  if m = 0 ∧ !sticky then (s, 0)
  else
    let qn : Int := e + (bitLen m : Int) - (f.mbits + 1 : Nat)
    let q := if qn < f.qmin then f.qmin else qn
    let (k, q', inexact) := roundTo rm neg m e sticky q
    let (ku, qu, _) := roundTo rm neg m e sticky qn
    let tiny := (bitLen ku : Int) + qu ≤ f.qmin + f.mbits
    let code := f.pack false k q'
    if f.maxCode < code ∨ f.qmin + 2 ^ f.ebits < q' then (f.overflow rm neg, flOF + flNX)
    else (s + code, if inexact then (if tiny then flUF + flNX else flNX) else 0)

/-- Rounds a value; NaN gives the canonical NaN (R179). -/
def FFmt.ofVal (f : FFmt) (rm : Nat) : FVal → Nat × Nat
  | .nan _ => (f.nanCode, 0)
  | .inf s => ((if s then 2 ^ (f.ebits + f.mbits) else 0) + f.infCode, 0)
  | .fin s m e => f.round rm s m e false

/-- Exact sum of two finite values; the sign of a zero sum follows IEEE 754. -/
def finAdd (rm : Nat) (s1 : Bool) (m1 : Nat) (e1 : Int) (s2 : Bool) (m2 : Nat) (e2 : Int) : FVal :=
  let e := min e1 e2
  let a : Int := (m1 * 2 ^ (e1 - e).toNat : Nat)
  let b : Int := (m2 * 2 ^ (e2 - e).toNat : Nat)
  let t := (if s1 then -a else a) + (if s2 then -b else b)
  if t = 0 then .fin (if s1 = s2 then s1 else rm = rmRDN) 0 e
  else .fin (t < 0) t.natAbs e

/-- Exact sum with the invalid flag. -/
def FVal.add (rm : Nat) (a b : FVal) : FVal × Nat :=
  match a, b with
  | .nan x, .nan y => (.nan false, if x || y then flNV else 0)
  | .nan x, _ => (.nan false, if x then flNV else 0)
  | _, .nan y => (.nan false, if y then flNV else 0)
  | .inf s, .inf t => if s = t then (.inf s, 0) else (.nan false, flNV)
  | .inf s, .fin _ _ _ => (.inf s, 0)
  | .fin _ _ _, .inf t => (.inf t, 0)
  | .fin s1 m1 e1, .fin s2 m2 e2 => (finAdd rm s1 m1 e1 s2 m2 e2, 0)

/-- Exact product with the invalid flag. -/
def FVal.mul (a b : FVal) : FVal × Nat :=
  match a, b with
  | .nan x, .nan y => (.nan false, if x || y then flNV else 0)
  | .nan x, _ => (.nan false, if x then flNV else 0)
  | _, .nan y => (.nan false, if y then flNV else 0)
  | .inf s, v => if v.isZero then (.nan false, flNV) else (.inf (s ^^ v.neg), 0)
  | .fin s m e, .inf t => if m = 0 then (.nan false, flNV) else (.inf (s ^^ t), 0)
  | .fin s1 m1 e1, .fin s2 m2 e2 => (.fin (s1 ^^ s2) (m1 * m2) (e1 + e2), 0)

def FFmt.addOp (f : FFmt) (rm a b : Nat) : Nat × Nat :=
  let (v, fl) := (f.decode a).add rm (f.decode b)
  let (r, fl') := f.ofVal rm v
  (r, fl ||| fl')

/-- The code with its sign changed; NaN codes change sign as bits do. -/
def FFmt.flipSign (f : FFmt) (a : Nat) : Nat := a ^^^ 2 ^ (f.ebits + f.mbits)

def FFmt.subOp (f : FFmt) (rm a b : Nat) : Nat × Nat := f.addOp rm a (f.flipSign b)

def FFmt.mulOp (f : FFmt) (rm a b : Nat) : Nat × Nat :=
  let (v, fl) := (f.decode a).mul (f.decode b)
  let (r, fl') := f.ofVal rm v
  (r, fl ||| fl')

/-- Fused a × b + c. An infinity times zero is invalid even beside a quiet NaN addend. -/
def FFmt.fmaOp (f : FFmt) (rm a b c : Nat) : Nat × Nat :=
  let (p, fl1) := (f.decode a).mul (f.decode b)
  let (v, fl2) := p.add rm (f.decode c)
  let (r, fl3) := f.ofVal rm v
  (r, fl1 ||| fl2 ||| fl3)

def FFmt.divOp (f : FFmt) (rm a b : Nat) : Nat × Nat :=
  match f.decode a, f.decode b with
  | .nan x, .nan y => (f.nanCode, if x || y then flNV else 0)
  | .nan x, _ => (f.nanCode, if x then flNV else 0)
  | _, .nan y => (f.nanCode, if y then flNV else 0)
  | .inf _, .inf _ => (f.nanCode, flNV)
  | .inf s, .fin t _ _ => f.ofVal rm (.inf (s ^^ t))
  | .fin s _ _, .inf t => f.ofVal rm (.fin (s ^^ t) 0 0)
  | .fin s m1 e1, .fin t m2 e2 =>
    if m2 = 0 then (if m1 = 0 then (f.nanCode, flNV) else ((f.ofVal rm (.inf (s ^^ t))).1, flDZ))
    else if m1 = 0 then f.ofVal rm (.fin (s ^^ t) 0 0)
    else
      let k := 2 * f.mbits + 6 + bitLen m2
      let n := m1 * 2 ^ k
      f.round rm (s ^^ t) (n / m2) (e1 - e2 - (k : Int)) (n % m2 ≠ 0)

/-- Integer square root by bits, highest first. -/
def isqrtAux (n : Nat) : Nat → Nat → Nat
  | 0, r => r
  | k + 1, r => if (r + 2 ^ k) * (r + 2 ^ k) ≤ n then isqrtAux n k (r + 2 ^ k) else isqrtAux n k r

def isqrt (n : Nat) : Nat := isqrtAux n (bitLen n / 2 + 1) 0

def FFmt.sqrtOp (f : FFmt) (rm a : Nat) : Nat × Nat :=
  match f.decode a with
  | .nan x => (f.nanCode, if x then flNV else 0)
  | .inf s => if s then (f.nanCode, flNV) else f.ofVal rm (.inf false)
  | .fin s m e =>
    if m = 0 then f.ofVal rm (.fin s 0 0)
    else if s then (f.nanCode, flNV)
    else
      let k := 2 * f.mbits + 8
      let k := if (e - (k : Int)) % 2 = 0 then k else k + 1
      let n := m * 2 ^ k
      let r := isqrt n
      f.round rm false r ((e - (k : Int)) / 2) (r * r ≠ n)

/-- Compares two finite or infinite values: -1, 0 or 1. -/
def FVal.cmp (a b : FVal) : Int :=
  match a, b with
  | .inf s, .inf t => if s = t then 0 else if s then -1 else 1
  | .inf s, _ => if s then -1 else 1
  | _, .inf t => if t then 1 else -1
  | .fin s1 m1 e1, .fin s2 m2 e2 =>
    let e := min e1 e2
    let x : Int := (m1 * 2 ^ (e1 - e).toNat : Nat)
    let y : Int := (m2 * 2 ^ (e2 - e).toNat : Nat)
    let x := if s1 then -x else x
    let y := if s2 then -y else y
    if x < y then -1 else if x = y then 0 else 1
  | _, _ => 0

def FFmt.eqOp (f : FFmt) (a b : Nat) : Bool × Nat :=
  let x := f.decode a
  let y := f.decode b
  if x.isNan || y.isNan then (false, if x.isSnan || y.isSnan then flNV else 0) else (x.cmp y = 0, 0)

def FFmt.ltOp (f : FFmt) (a b : Nat) : Bool × Nat :=
  let x := f.decode a
  let y := f.decode b
  if x.isNan || y.isNan then (false, flNV) else (x.cmp y = -1, 0)

def FFmt.leOp (f : FFmt) (a b : Nat) : Bool × Nat :=
  let x := f.decode a
  let y := f.decode b
  if x.isNan || y.isNan then (false, flNV) else (x.cmp y ≤ 0, 0)

/-- minimumNumber or maximumNumber of the F extension. -/
def FFmt.minMaxOp (f : FFmt) (max : Bool) (a b : Nat) : Nat × Nat :=
  let x := f.decode a
  let y := f.decode b
  let fl := if x.isSnan || y.isSnan then flNV else 0
  if x.isNan && y.isNan then (f.nanCode, fl)
  else if x.isNan then (b, fl)
  else if y.isNan then (a, fl)
  else
    let c := x.cmp y
    let aLess := c = -1 ∨ (c = 0 ∧ x.neg ∧ !y.neg)
    (if aLess then (if max then b else a) else (if max then a else b), fl)

/-- The class mask of fclass. -/
def FFmt.classOp (f : FFmt) (a : Nat) : Nat :=
  match f.decode a with
  | .nan s => if s then 2 ^ 8 else 2 ^ 9
  | .inf s => if s then 2 ^ 0 else 2 ^ 7
  | .fin s m _ =>
    if m = 0 then (if s then 2 ^ 3 else 2 ^ 4)
    else if m < 2 ^ f.mbits then (if s then 2 ^ 2 else 2 ^ 5)
    else (if s then 2 ^ 1 else 2 ^ 6)

/-- Conversion to an integer of `w` bits, as a signed number, with RISC-V saturation and flags. -/
def FFmt.toInt (f : FFmt) (rm a : Nat) (signed : Bool) (w : Nat) : Int × Nat :=
  let lo : Int := if signed then -(2 ^ (w - 1) : Nat) else 0
  let hi : Int := if signed then (2 ^ (w - 1) : Nat) - 1 else (2 ^ w : Nat) - 1
  match f.decode a with
  | .nan _ => (hi, flNV)
  | .inf s => (if s then lo else hi, flNV)
  | .fin s m e =>
    let (k, rem, unit) := toGrid m e 0
    let k := if roundUp rm s k rem unit false then k + 1 else k
    let v : Int := if s then -(k : Int) else k
    if v < lo then (lo, flNV) else if hi < v then (hi, flNV) else (v, if rem = 0 then 0 else flNX)

/-- Conversion from an integer. -/
def FFmt.ofInt (f : FFmt) (rm : Nat) (v : Int) : Nat × Nat := f.round rm (v < 0) v.natAbs 0 false

/-- Conversion between floating formats. -/
def FFmt.convert (src dst : FFmt) (rm a : Nat) : Nat × Nat :=
  let v := src.decode a
  let (r, fl) := dst.ofVal rm v
  (r, if v.isSnan then flNV else fl)

end Sys2Proof.Machine
end

