-- ==== Sys2Proof/Machine/RvInst.lean ====
section
/-! DEFINITION. The RISC-V instruction words of the two processors: RV32IMC, Zicsr, F, Zve32f of the perch sequencer (R81) and RV64GC, V, Zba, Zbb,
Zicond, Zicbom of the steward cores (R461). Field extraction and code numbers follow the RISC-V unprivileged and privileged specifications. -/

namespace Sys2Proof.Machine

/-- Integer operations of OP, OP-IMM and their word forms. -/
inductive Alu where
  | add | sub | sll | slt | sltu | xor | srl | sra | or | and
  | mul | mulh | mulhsu | mulhu | div | divu | rem | remu
  | sh1add | sh2add | sh3add | addUw | sh1addUw | sh2addUw | sh3addUw | slliUw
  | andn | orn | xnor | min | minu | max | maxu | rol | ror
  | clz | ctz | cpop | sextB | sextH | zextH | orcB | rev8
  | czeroEqz | czeroNez
  deriving DecidableEq, Repr

/-- A decoded instruction. Register fields are numbers, immediates are signed values. -/
inductive RvInst where
  | lui (rd : Nat) (imm : Int)
  | auipc (rd : Nat) (imm : Int)
  | jal (rd : Nat) (imm : Int)
  | jalr (rd rs1 : Nat) (imm : Int)
  | branch (f3 rs1 rs2 : Nat) (imm : Int)
  | load (f3 rd rs1 : Nat) (imm : Int)
  | store (f3 rs1 rs2 : Nat) (imm : Int)
  | opImm (op : Alu) (word : Bool) (rd rs1 : Nat) (imm : Int)
  | op (op : Alu) (word : Bool) (rd rs1 rs2 : Nat)
  | fence (fm pred succ : Nat)
  | fenceI
  | cbo (op rs1 : Nat)
  | ecall
  | ebreak
  | mret
  | sret
  | wfi
  | sfenceVma (rs1 rs2 : Nat)
  | csr (f3 rd rs1 num : Nat)
  | fload (size rd rs1 : Nat) (imm : Int)
  | fstore (size rs1 rs2 : Nat) (imm : Int)
  | fma (op : Nat) (dbl : Bool) (rd rs1 rs2 rs3 rm : Nat)
  | fop (f5 : Nat) (dbl : Bool) (rd rs1 rs2 rm : Nat)
  | amo (f5 : Nat) (dbl : Bool) (rd rs1 rs2 : Nat)
  | vset (kind rd rs1 rs2 zimm : Nat)
  | vload (nf mew mop : Nat) (vm : Bool) (rs2 rs1 width vd : Nat)
  | vstore (nf mew mop : Nat) (vm : Bool) (rs2 rs1 width vs3 : Nat)
  | varith (f6 : Nat) (vm : Bool) (vs2 rs1 f3 vd : Nat)
  | custom (space word : Nat)
  deriving DecidableEq, Repr

/-- I-type immediate. -/
def immI (w : Nat) : Int := toSigned 12 (bits w 20 12)

/-- S-type immediate. -/
def immS (w : Nat) : Int := toSigned 12 (bits w 25 7 * 32 + bits w 7 5)

/-- B-type immediate. -/
def immB (w : Nat) : Int := toSigned 13 (bits w 31 1 * 4096 + bits w 7 1 * 2048 + bits w 25 6 * 32 + bits w 8 4 * 2)

/-- J-type immediate. -/
def immJ (w : Nat) : Int := toSigned 21 (bits w 31 1 * 2 ^ 20 + bits w 12 8 * 4096 + bits w 20 1 * 2048 + bits w 21 10 * 2)

/-- U-type immediate. -/
def immU (w : Nat) : Int := toSigned 32 (bits w 12 20 * 4096)

/-- OP and OP-32 operations by funct7 and funct3. -/
def decodeOp (rv64 word : Bool) (f7 f3 rs2 : Nat) : Option Alu :=
  if f7 = 0 then
    (if word ∧ f3 ≠ 0 ∧ f3 ≠ 1 ∧ f3 ≠ 5 then none
     else match f3 with
      | 0 => some .add | 1 => some .sll | 2 => some .slt | 3 => some .sltu | 4 => some .xor | 5 => some .srl | 6 => some .or | _ => some .and)
  else if f7 = 0x20 then
    (match f3 with
      | 0 => some .sub | 5 => some .sra
      | 4 => if rv64 ∧ !word then some .xnor else none
      | 6 => if rv64 ∧ !word then some .orn else none
      | 7 => if rv64 ∧ !word then some .andn else none
      | _ => none)
  else if f7 = 1 then
    (if word ∧ (f3 = 1 ∨ f3 = 2 ∨ f3 = 3) then none
     else match f3 with
      | 0 => some .mul | 1 => some .mulh | 2 => some .mulhsu | 3 => some .mulhu | 4 => some .div | 5 => some .divu | 6 => some .rem | _ => some .remu)
  else if !rv64 then none
  else if f7 = 0x10 then
    (match f3 with
      | 2 => some (if word then .sh1addUw else .sh1add) | 4 => some (if word then .sh2addUw else .sh2add)
      | 6 => some (if word then .sh3addUw else .sh3add) | _ => none)
  else if f7 = 4 then
    (if word ∧ f3 = 0 then some .addUw else if word ∧ f3 = 4 ∧ rs2 = 0 then some .zextH else none)
  else if f7 = 5 ∧ !word then
    (match f3 with | 4 => some .min | 5 => some .minu | 6 => some .max | 7 => some .maxu | _ => none)
  else if f7 = 0x30 then
    (match f3 with | 1 => some .rol | 5 => some .ror | _ => none)
  else if f7 = 7 ∧ !word then
    (match f3 with | 5 => some .czeroEqz | 7 => some .czeroNez | _ => none)
  else none

/-- OP-IMM and OP-IMM-32 operations. -/
def decodeOpImm (rv64 word : Bool) (w : Nat) : Option RvInst :=
  let rd := bits w 7 5
  let rs1 := bits w 15 5
  let f3 := bits w 12 3
  let sh := if rv64 ∧ !word then bits w 20 6 else bits w 20 5
  let hi := if rv64 ∧ !word then bits w 26 6 * 2 else bits w 25 7
  let one := fun (o : Alu) => some (RvInst.opImm o word rd rs1 (sh : Int))
  if f3 = 1 then
    (if hi = 0 then one .sll
     else if !rv64 then none
     else if word ∧ bits w 26 6 = 2 then some (.opImm .slliUw false rd rs1 (bits w 20 6 : Int))
     else if bits w 25 7 = 0x30 then
      (match bits w 20 5 with
        | 0 => some (.opImm .clz word rd rs1 0) | 1 => some (.opImm .ctz word rd rs1 0) | 2 => some (.opImm .cpop word rd rs1 0)
        | 4 => if word then none else some (.opImm .sextB word rd rs1 0) | 5 => if word then none else some (.opImm .sextH word rd rs1 0)
        | _ => none)
     else none)
  else if f3 = 5 then
    (if hi = 0 then one .srl
     else if hi = 0x20 then one .sra
     else if !rv64 then none
     else if hi = 0x30 then one .ror
     else if !word ∧ bits w 20 12 = 0x287 then some (.opImm .orcB word rd rs1 0)
     else if !word ∧ bits w 20 12 = 0x6B8 then some (.opImm .rev8 word rd rs1 0)
     else none)
  else if word then (if f3 = 0 then some (.opImm .add true rd rs1 (immI w)) else none)
  else match f3 with
    | 0 => some (.opImm .add false rd rs1 (immI w)) | 2 => some (.opImm .slt false rd rs1 (immI w))
    | 3 => some (.opImm .sltu false rd rs1 (immI w)) | 4 => some (.opImm .xor false rd rs1 (immI w))
    | 6 => some (.opImm .or false rd rs1 (immI w)) | _ => some (.opImm .and false rd rs1 (immI w))

/-- SYSTEM instructions. The perch has no S mode and no sret or sfence.vma (R81). -/
def decodeSystem (rv64 : Bool) (w : Nat) : Option RvInst :=
  let f3 := bits w 12 3
  if f3 = 0 then
    (if w = 0x00000073 then some .ecall
     else if w = 0x00100073 then some .ebreak
     else if w = 0x30200073 then some .mret
     else if w = 0x10500073 then some .wfi
     else if rv64 ∧ w = 0x10200073 then some .sret
     else if rv64 ∧ bits w 25 7 = 9 ∧ bits w 7 5 = 0 then some (.sfenceVma (bits w 15 5) (bits w 20 5))
     else none)
  else if f3 = 4 then none
  else some (.csr f3 (bits w 7 5) (bits w 15 5) (bits w 20 12))

/-- MISC-MEM instructions. -/
def decodeMiscMem (rv64 : Bool) (w : Nat) : Option RvInst :=
  let f3 := bits w 12 3
  if f3 = 0 then some (.fence (bits w 28 4) (bits w 24 4) (bits w 20 4))
  else if f3 = 1 ∧ rv64 then some .fenceI
  else if f3 = 2 ∧ rv64 ∧ bits w 7 5 = 0 ∧ bits w 20 12 ≤ 2 then some (.cbo (bits w 20 12) (bits w 15 5))
  else none

/-- OP-FP instructions: the format and the codes that F (and D on the steward cores) define. -/
def decodeFp (rv64 : Bool) (w : Nat) : Option RvInst :=
  let f5 := bits w 27 5
  let fmt := bits w 25 2
  let rs2 := bits w 20 5
  let f3 := bits w 12 3
  let okFmt : Bool := fmt = 0 || (fmt = 1 && rv64)
  let ok : Bool := match f5 with
    | 0 | 1 | 2 | 3 => true
    | 4 => f3 ≤ 2
    | 5 => f3 ≤ 1
    | 0x14 => f3 ≤ 2
    | 0x0B => rs2 = 0
    | 0x08 => rv64 && ((fmt = 0 && rs2 = 1) || (fmt = 1 && rs2 = 0))
    | 0x18 | 0x1A => rs2 ≤ 1 || (rv64 && rs2 ≤ 3)
    | 0x1C => rs2 = 0 && ((f3 = 0 && (fmt = 0 || rv64)) || f3 = 1)
    | 0x1E => rs2 = 0 && f3 = 0
    | _ => false
  if okFmt && ok then some (.fop f5 (fmt = 1) (bits w 7 5) (bits w 15 5) rs2 f3) else none

/-- LOAD-FP and STORE-FP: scalar or vector by the width field. -/
def decodeFpMem (rv64 st : Bool) (w : Nat) : Option RvInst :=
  let f3 := bits w 12 3
  if f3 = 2 ∨ (f3 = 3 ∧ rv64) then
    some (if st then .fstore (2 ^ f3) (bits w 15 5) (bits w 20 5) (immS w) else .fload (2 ^ f3) (bits w 7 5) (bits w 15 5) (immI w))
  else if f3 = 0 ∨ f3 = 5 ∨ f3 = 6 ∨ f3 = 7 then
    some (if st then .vstore (bits w 29 3) (bits w 28 1) (bits w 26 2) (bit w 25) (bits w 20 5) (bits w 15 5) f3 (bits w 7 5)
      else .vload (bits w 29 3) (bits w 28 1) (bits w 26 2) (bit w 25) (bits w 20 5) (bits w 15 5) f3 (bits w 7 5))
  else none

/-- OP-V: configuration or arithmetic. `kind` 0 vsetvli, 1 vsetivli, 2 vsetvl. -/
def decodeV (w : Nat) : Option RvInst :=
  if bits w 12 3 = 7 then
    (if bits w 31 1 = 0 then some (.vset 0 (bits w 7 5) (bits w 15 5) 0 (bits w 20 11))
     else if bits w 30 1 = 1 then some (.vset 1 (bits w 7 5) (bits w 15 5) 0 (bits w 20 10))
     else if bits w 25 6 = 0 then some (.vset 2 (bits w 7 5) (bits w 15 5) (bits w 20 5) 0)
     else none)
  else some (.varith (bits w 26 6) (bit w 25) (bits w 20 5) (bits w 15 5) (bits w 12 3) (bits w 7 5))

/-- A extension codes. -/
def decodeAmo (w : Nat) : Option RvInst :=
  let f5 := bits w 27 5
  let f3 := bits w 12 3
  if (f3 = 2 ∨ f3 = 3) ∧ (f5 ∈ [0, 1, 3, 4, 8, 12, 16, 20, 24, 28] ∨ (f5 = 2 ∧ bits w 20 5 = 0)) then
    some (.amo f5 (f3 = 3) (bits w 7 5) (bits w 15 5) (bits w 20 5))
  else none

/-- Reads a 32-bit instruction word. `none` is an illegal instruction; `custom n` gives custom-n with its word (R89, R465). -/
def rvDecode (rv64 : Bool) (w : Nat) : Option RvInst :=
  let rd := bits w 7 5
  let rs1 := bits w 15 5
  let rs2 := bits w 20 5
  let f3 := bits w 12 3
  match bits w 0 7 with
  | 0x37 => some (.lui rd (immU w))
  | 0x17 => some (.auipc rd (immU w))
  | 0x6F => some (.jal rd (immJ w))
  | 0x67 => if f3 = 0 then some (.jalr rd rs1 (immI w)) else none
  | 0x63 => if f3 = 2 ∨ f3 = 3 then none else some (.branch f3 rs1 rs2 (immB w))
  | 0x03 => if f3 ≤ 2 ∨ f3 = 4 ∨ f3 = 5 ∨ (rv64 ∧ (f3 = 3 ∨ f3 = 6)) then some (.load f3 rd rs1 (immI w)) else none
  | 0x23 => if f3 ≤ 2 ∨ (rv64 ∧ f3 = 3) then some (.store f3 rs1 rs2 (immS w)) else none
  | 0x13 => decodeOpImm rv64 false w
  | 0x1B => if rv64 then decodeOpImm rv64 true w else none
  | 0x33 => (decodeOp rv64 false (bits w 25 7) f3 rs2).map (fun o => .op o false rd rs1 rs2)
  | 0x3B => if rv64 then (decodeOp rv64 true (bits w 25 7) f3 rs2).map (fun o =>
      if o = .addUw ∨ o = .sh1addUw ∨ o = .sh2addUw ∨ o = .sh3addUw ∨ o = .zextH then .op o false rd rs1 rs2 else .op o true rd rs1 rs2) else none
  | 0x0F => decodeMiscMem rv64 w
  | 0x73 => decodeSystem rv64 w
  | 0x07 => decodeFpMem rv64 false w
  | 0x27 => decodeFpMem rv64 true w
  | 0x43 => if bits w 25 2 ≤ b2n rv64 then some (.fma 0 (bit w 25) rd rs1 rs2 (bits w 27 5) f3) else none
  | 0x47 => if bits w 25 2 ≤ b2n rv64 then some (.fma 1 (bit w 25) rd rs1 rs2 (bits w 27 5) f3) else none
  | 0x4B => if bits w 25 2 ≤ b2n rv64 then some (.fma 2 (bit w 25) rd rs1 rs2 (bits w 27 5) f3) else none
  | 0x4F => if bits w 25 2 ≤ b2n rv64 then some (.fma 3 (bit w 25) rd rs1 rs2 (bits w 27 5) f3) else none
  | 0x53 => decodeFp rv64 w
  | 0x2F => if rv64 then decodeAmo w else none
  | 0x57 => decodeV w
  | 0x0B => some (.custom 0 w)
  | 0x2B => if rv64 then none else some (.custom 1 w)
  | 0x5B => if rv64 then none else some (.custom 2 w)
  | 0x7B => if rv64 then none else some (.custom 3 w)
  | _ => none

/-- Builds an I-type word. -/
def encI (imm rs1 f3 rd op : Nat) : Nat := imm % 4096 * 2 ^ 20 + rs1 * 2 ^ 15 + f3 * 2 ^ 12 + rd * 2 ^ 7 + op

/-- Builds an R-type word. -/
def encR (f7 rs2 rs1 f3 rd op : Nat) : Nat := f7 * 2 ^ 25 + rs2 * 2 ^ 20 + rs1 * 2 ^ 15 + f3 * 2 ^ 12 + rd * 2 ^ 7 + op

/-- Builds an S-type word. -/
def encS (imm rs2 rs1 f3 op : Nat) : Nat := imm / 32 % 128 * 2 ^ 25 + rs2 * 2 ^ 20 + rs1 * 2 ^ 15 + f3 * 2 ^ 12 + imm % 32 * 2 ^ 7 + op

/-- Builds a B-type word from a 13-bit offset. -/
def encB (imm rs2 rs1 f3 : Nat) : Nat :=
  bits imm 12 1 * 2 ^ 31 + bits imm 5 6 * 2 ^ 25 + rs2 * 2 ^ 20 + rs1 * 2 ^ 15 + f3 * 2 ^ 12 + bits imm 1 4 * 2 ^ 8 + bits imm 11 1 * 2 ^ 7 + 0x63

/-- Builds a J-type word from a 21-bit offset. -/
def encJ (imm rd : Nat) : Nat :=
  bits imm 20 1 * 2 ^ 31 + bits imm 1 10 * 2 ^ 21 + bits imm 11 1 * 2 ^ 20 + bits imm 12 8 * 2 ^ 12 + rd * 2 ^ 7 + 0x6F

/-- Sign-extends `w` bits of `n` into `v` bits. -/
def sext (w v n : Nat) : Nat := ofSigned v (toSigned w n)

/-- Quadrant 0 of the C extension as a 32-bit word. -/
def rvcQ0 (rv64 : Bool) (h : Nat) : Option Nat :=
  let rd := 8 + bits h 2 3
  let rs1 := 8 + bits h 7 3
  let uw := bits h 10 3 * 8 + bits h 6 1 * 4 + bits h 5 1 * 64
  let ud := bits h 10 3 * 8 + bits h 5 2 * 64
  match bits h 13 3 with
  | 0 =>
    let imm := bits h 11 2 * 16 + bits h 7 4 * 64 + bits h 6 1 * 4 + bits h 5 1 * 8
    if imm = 0 then none else some (encI imm 2 0 rd 0x13)
  | 1 => if rv64 then some (encI ud rs1 3 rd 0x07) else none
  | 2 => some (encI uw rs1 2 rd 0x03)
  | 3 => if rv64 then some (encI ud rs1 3 rd 0x03) else some (encI uw rs1 2 rd 0x07)
  | 5 => if rv64 then some (encS ud rd rs1 3 0x27) else none
  | 6 => some (encS uw rd rs1 2 0x23)
  | 7 => if rv64 then some (encS ud rd rs1 3 0x23) else some (encS uw rd rs1 2 0x27)
  | _ => none

/-- Quadrant 1 of the C extension as a 32-bit word. -/
def rvcQ1 (rv64 : Bool) (h : Nat) : Option Nat :=
  let rd := bits h 7 5
  let imm6 := sext 6 12 (bits h 12 1 * 32 + bits h 2 5)
  let sh := bits h 12 1 * 32 + bits h 2 5
  let rdq := 8 + bits h 7 3
  let rs2q := 8 + bits h 2 3
  let jimm := sext 12 21 (bits h 12 1 * 2048 + bits h 11 1 * 16 + bits h 9 2 * 256 + bits h 8 1 * 1024 + bits h 7 1 * 64 + bits h 6 1 * 128
    + bits h 3 3 * 2 + bits h 2 1 * 32)
  let bimm := sext 9 13 (bits h 12 1 * 256 + bits h 10 2 * 8 + bits h 5 2 * 64 + bits h 3 2 * 2 + bits h 2 1 * 32)
  match bits h 13 3 with
  | 0 => some (encI imm6 rd 0 rd 0x13)
  | 1 => if rv64 then (if rd = 0 then none else some (encI imm6 rd 0 rd 0x1B)) else some (encJ jimm 1)
  | 2 => some (encI imm6 0 0 rd 0x13)
  | 3 =>
    if rd = 2 then
      let imm := sext 10 12 (bits h 12 1 * 512 + bits h 6 1 * 16 + bits h 5 1 * 64 + bits h 3 2 * 128 + bits h 2 1 * 32)
      if imm = 0 then none else some (encI imm 2 0 2 0x13)
    else
      let imm := sext 6 20 (bits h 12 1 * 32 + bits h 2 5)
      if imm = 0 then none else some (imm * 4096 + rd * 128 + 0x37)
  | 4 =>
    (match bits h 10 2 with
      | 0 => if !rv64 ∧ bits h 12 1 = 1 then none else some (encI sh rdq 5 rdq 0x13)
      | 1 => if !rv64 ∧ bits h 12 1 = 1 then none else some (encI (sh + 0x400) rdq 5 rdq 0x13)
      | 2 => some (encI imm6 rdq 7 rdq 0x13)
      | _ =>
        if bits h 12 1 = 0 then
          (match bits h 5 2 with
            | 0 => some (encR 0x20 rs2q rdq 0 rdq 0x33) | 1 => some (encR 0 rs2q rdq 4 rdq 0x33)
            | 2 => some (encR 0 rs2q rdq 6 rdq 0x33) | _ => some (encR 0 rs2q rdq 7 rdq 0x33))
        else if !rv64 then none
        else (match bits h 5 2 with
            | 0 => some (encR 0x20 rs2q rdq 0 rdq 0x3B) | 1 => some (encR 0 rs2q rdq 0 rdq 0x3B) | _ => none))
  | 5 => some (encJ jimm 0)
  | 6 => some (encB bimm 0 rdq 0)
  | _ => some (encB bimm 0 rdq 1)

/-- Quadrant 2 of the C extension as a 32-bit word. -/
def rvcQ2 (rv64 : Bool) (h : Nat) : Option Nat :=
  let rd := bits h 7 5
  let rs2 := bits h 2 5
  let sh := bits h 12 1 * 32 + bits h 2 5
  let ulw := bits h 12 1 * 32 + bits h 4 3 * 4 + bits h 2 2 * 64
  let uld := bits h 12 1 * 32 + bits h 5 2 * 8 + bits h 2 3 * 64
  let usw := bits h 9 4 * 4 + bits h 7 2 * 64
  let usd := bits h 10 3 * 8 + bits h 7 3 * 64
  match bits h 13 3 with
  | 0 => if !rv64 ∧ bits h 12 1 = 1 then none else some (encI sh rd 1 rd 0x13)
  | 1 => if rv64 then some (encI uld 2 3 rd 0x07) else none
  | 2 => if rd = 0 then none else some (encI ulw 2 2 rd 0x03)
  | 3 => if rv64 then (if rd = 0 then none else some (encI uld 2 3 rd 0x03)) else some (encI ulw 2 2 rd 0x07)
  | 4 =>
    if bits h 12 1 = 0 then
      (if rs2 = 0 then (if rd = 0 then none else some (encI 0 rd 0 0 0x67)) else some (encR 0 rs2 0 0 rd 0x33))
    else if rs2 = 0 then (if rd = 0 then some 0x00100073 else some (encI 0 rd 0 1 0x67))
    else some (encR 0 rs2 rd 0 rd 0x33)
  | 5 => if rv64 then some (encS usd rs2 2 3 0x27) else none
  | 6 => some (encS usw rs2 2 2 0x23)
  | _ => if rv64 then some (encS usd rs2 2 3 0x23) else some (encS usw rs2 2 2 0x27)

/-- Expands a 16-bit instruction; `none` where its encoding is reserved. -/
def rvcExpand (rv64 : Bool) (h : Nat) : Option Nat :=
  if h % 2 ^ 16 = 0 then none
  else match bits h 0 2 with
    | 0 => rvcQ0 rv64 h
    | 1 => rvcQ1 rv64 h
    | 2 => rvcQ2 rv64 h
    | _ => none

/-- Decodes the bytes at the pc: the instruction and its length, from the low 16 bits and, where needed, all 32. -/
def rvFetchDecode (rv64 : Bool) (w : Nat) : Option RvInst × Nat :=
  if bits w 0 2 = 3 then (rvDecode rv64 (w % 2 ^ 32), 4)
  else ((rvcExpand rv64 (w % 2 ^ 16)).bind (rvDecode rv64), 2)

/-- Counts leading zeros of the low `w` bits. -/
def clzOf (w n : Nat) : Nat := w - (if n % 2 ^ w = 0 then 0 else (n % 2 ^ w).log2 + 1)

/-- Counts trailing zeros of the low `w` bits. -/
def ctzOf (w n : Nat) : Nat := (lowestBit n w 0).getD w

/-- One ALU operation on values of `w` bits (the M extension's division corners included). -/
def aluEval (w : Nat) (op : Alu) (a b : Nat) : Nat :=
  let m := 2 ^ w
  let sa := toSigned w a
  let sb := toSigned w b
  let sh := b % w
  let uw := a % 2 ^ 32
  match op with
  | .add => (a + b) % m
  | .sub => (a + m - b % m) % m
  | .sll => a * 2 ^ sh % m
  | .slt => b2n (sa < sb)
  | .sltu => b2n (a % m < b % m)
  | .xor => (a ^^^ b) % m
  | .srl => a % m / 2 ^ sh
  | .sra => ofSigned w (sa / (2 ^ sh : Nat))
  | .or => (a ||| b) % m
  | .and => (a &&& b) % m
  | .mul => a * b % m
  | .mulh => ofSigned w (sa * sb / (m : Nat))
  | .mulhsu => ofSigned w (sa * ((b % m : Nat) : Int) / (m : Nat))
  | .mulhu => a % m * (b % m) / m
  | .div => if b % m = 0 then m - 1 else ofSigned w (Int.tdiv sa sb)
  | .divu => if b % m = 0 then m - 1 else a % m / (b % m)
  | .rem => if b % m = 0 then a % m else ofSigned w (Int.tmod sa sb)
  | .remu => if b % m = 0 then a % m else a % m % (b % m)
  | .sh1add => (2 * a + b) % m
  | .sh2add => (4 * a + b) % m
  | .sh3add => (8 * a + b) % m
  | .addUw => (uw + b) % m
  | .sh1addUw => (2 * uw + b) % m
  | .sh2addUw => (4 * uw + b) % m
  | .sh3addUw => (8 * uw + b) % m
  | .slliUw => uw * 2 ^ sh % m
  | .andn => (a % m) &&& (m - 1 - b % m)
  | .orn => (a % m) ||| (m - 1 - b % m)
  | .xnor => m - 1 - (a ^^^ b) % m
  | .min => if sa < sb then a % m else b % m
  | .minu => min (a % m) (b % m)
  | .max => if sa < sb then b % m else a % m
  | .maxu => max (a % m) (b % m)
  | .rol => (a % m * 2 ^ sh % m) ||| (a % m / 2 ^ (w - sh))
  | .ror => (a % m / 2 ^ sh) ||| (a % m * 2 ^ (w - sh) % m)
  | .clz => clzOf w a
  | .ctz => ctzOf w a
  | .cpop => popcount a w
  | .sextB => sext 8 w a
  | .sextH => sext 16 w a
  | .zextH => a % 2 ^ 16
  | .orcB => leNat ((leBytes (w / 8) a).map (fun x => if x = 0 then 0 else 0xFF))
  | .rev8 => leNat (leBytes (w / 8) a).reverse
  | .czeroEqz => if b % m = 0 then 0 else a % m
  | .czeroNez => if b % m = 0 then a % m else 0

/-- Branch conditions by funct3. -/
def branchTaken (w f3 a b : Nat) : Bool :=
  match f3 with
  | 0 => a % 2 ^ w = b % 2 ^ w
  | 1 => a % 2 ^ w ≠ b % 2 ^ w
  | 4 => toSigned w a < toSigned w b
  | 5 => toSigned w b ≤ toSigned w a
  | 6 => a % 2 ^ w < b % 2 ^ w
  | _ => b % 2 ^ w ≤ a % 2 ^ w

end Sys2Proof.Machine
end

