-- ==== Sys2Proof/Machine/RvCore.lean ====
section
/-! DEFINITION. The register context of a RISC-V processor: pc, x, f and v registers with the floating and vector control state (R81, R84, R461). -/

namespace Sys2Proof.Machine

/-- The registers of one sequencer or core. Values are held in the width of the processor; v registers as numbers of VLEN bits. -/
structure RvCore where
  pc : Nat := 0
  x : KMap Nat := []
  f : KMap Nat := []
  v : KMap Nat := []
  /-- fcsr: fflags in [4:0], frm in [7:5]. -/
  fcsr : Nat := 0
  vtype : Nat := 0
  vill : Bool := true
  vl : Nat := 0
  vstart : Nat := 0
  vxrm : Nat := 0
  vxsat : Nat := 0
  deriving DecidableEq, Repr

/-- Reads x register `r`; x0 reads zero. -/
def RvCore.gx (c : RvCore) (r : Nat) : Nat := if r = 0 then 0 else KMap.get 0 c.x r

/-- Writes x register `r` in `w` bits; x0 discards the write. -/
def RvCore.sx (w : Nat) (c : RvCore) (r v : Nat) : RvCore :=
  if r = 0 then c else { c with x := KMap.set 0 c.x r (v % 2 ^ w) }

/-- Reads f register `r` as it is held. -/
def RvCore.gf (c : RvCore) (r : Nat) : Nat := KMap.get 0 c.f r

/-- Writes f register `r`. -/
def RvCore.sf (c : RvCore) (r v : Nat) : RvCore := { c with f := KMap.set 0 c.f r v }

/-- Reads v register `r`. -/
def RvCore.gv (c : RvCore) (r : Nat) : Nat := KMap.get 0 c.v r

/-- Writes v register `r`. -/
def RvCore.sv (c : RvCore) (r v : Nat) : RvCore := { c with v := KMap.set 0 c.v r v }

/-- Accrues floating flags. -/
def RvCore.addFlags (c : RvCore) (fl : Nat) : RvCore := { c with fcsr := c.fcsr ||| fl % 32 }

/-- frm (R177). -/
def RvCore.frm (c : RvCore) : Nat := bits c.fcsr 5 3

/-- The rounding mode an instruction names; `none` where it is reserved. -/
def RvCore.rmOf (c : RvCore) (rm : Nat) : Option Nat :=
  let r := if rm = 7 then c.frm else rm
  if r ≤ 4 then some r else none

/-- SEW of vtype in bits. -/
def RvCore.sew (c : RvCore) : Nat := 8 * 2 ^ bits c.vtype 3 3

/-- The register count of a group: LMUL as a numerator over 8. -/
def RvCore.lmul8 (c : RvCore) : Nat :=
  match bits c.vtype 0 3 with
  | 0 => 8 | 1 => 16 | 2 => 32 | 3 => 64 | 5 => 1 | 6 => 2 | 7 => 4 | _ => 0

/-- VLMAX for an element width and the LMUL in force. -/
def vlmaxOf (vlen sew lmul8 : Nat) : Nat := vlen * lmul8 / 8 / sew

/-- Whether a vtype value is supported: vlmul not reserved, SEW within ELEN times LMUL, no reserved bits. -/
def vtypeOk (elen : Nat) (vt : Nat) : Bool :=
  let c : RvCore := { vtype := vt }
  vt < 256 && bits vt 0 3 ≠ 4 && bits vt 3 3 ≤ 3 && c.sew ≤ elen && (8 * c.sew ≤ elen * c.lmul8)

/-- Element `i` of width `w` of the register group from `base`. -/
def RvCore.elem (c : RvCore) (vlen w base i : Nat) : Nat :=
  bits (c.gv (base + i * w / vlen)) (i * w % vlen) w

/-- Writes element `i` of width `w` of the register group from `base`. -/
def RvCore.setElem (vlen w : Nat) (c : RvCore) (base i v : Nat) : RvCore :=
  let r := base + i * w / vlen
  let lo := i * w % vlen
  let old := c.gv r
  c.sv r (old - bits old lo w * 2 ^ lo + v % 2 ^ w * 2 ^ lo)

/-- Mask bit `i` of register `r`. -/
def RvCore.maskBit (c : RvCore) (r i : Nat) : Bool := bit (c.gv r) i

/-- Writes mask bit `i` of register `r`. -/
def RvCore.setMaskBit (c : RvCore) (r i : Nat) (b : Bool) : RvCore := c.setElem (2 ^ 16) 1 r i (b2n b)

/-- Element `i` is active: unmasked, or its bit of v0 is set. -/
def RvCore.active (c : RvCore) (vm : Bool) (i : Nat) : Bool := vm || c.maskBit 0 i

/-- Whether register `r` can start a group of `g8` eighths of a register. -/
def groupOk (g8 r : Nat) : Bool := g8 ≤ 8 || r % (g8 / 8) = 0

/-- Number of registers that a group of `g8` eighths takes. -/
def groupRegs (g8 : Nat) : Nat := if g8 ≤ 8 then 1 else g8 / 8

/-- Two register groups share a register. -/
def groupsOverlap (a na b nb : Nat) : Bool := a < b + nb && b < a + na

/-- A binary32 value read from an f register of a processor with D: NaN-boxed (RISC-V D extension). -/
def unboxS (dext : Bool) (v : Nat) : Nat :=
  if dext ∧ v / 2 ^ 32 ≠ 2 ^ 32 - 1 then fmtF32.nanCode else v % 2 ^ 32

/-- A binary32 result as an f register holds it. -/
def boxS (dext : Bool) (v : Nat) : Nat := if dext then v % 2 ^ 32 + (2 ^ 32 - 1) * 2 ^ 32 else v % 2 ^ 32

end Sys2Proof.Machine
end

