-- ==== Sys2Proof/Machine/PerchState.lean ====
section
/-! DEFINITION. The state of a perch (03 and 04 of the spec): sequencer, counters, DMA contexts, stream endpoints, matrix array, span timer. -/

namespace Sys2Proof.Machine

/-- A byte with its poison mark (R26, R99). -/
abbrev PByte := Byte × Bool

/-- A translated leaf of a side of a descriptor: first DVA, log2 of the size, target. -/
structure Leaf where
  dva : Nat := 0
  size : Nat := 16
  target : Nat := 0
  deriving DecidableEq, Repr

/-- A DMA descriptor in a context's queue (R100, R101): the 64 bytes that DMAQ copied, with the scratchpad offset that they stood at and its ticket. -/
structure DmaDesc where
  raw : List Byte := []
  off : Nat := 0
  ticket : Nat := 0
  /-- It has been checked (R102). -/
  started : Bool := false
  /-- The leaves of its source and its destination, from its translation until a suspension (R102, R337). -/
  leaves : Option (List Leaf × List Leaf) := .none
  /-- Bytes issued, in the order plane, row, byte; a read from another package counts as it is asked for. -/
  pos : Nat := 0
  /-- A remote write of it was declared lost (R313). -/
  lost : Bool := false
  /-- Bytes of it that have landed (R125). -/
  landed : Nat := 0
  deriving DecidableEq, Repr

/-- A line of a perch's DMA write-combining buffer (R108): its context, league address / 128, the bytes gathered, and who wrote them: tickets with their
counts of bytes, the oldest first. -/
structure DmaLine where
  ctx : Nat
  line : Nat
  bytes : List (Option PByte)
  parts : List (Nat × Nat)
  deriving DecidableEq, Repr

/-- A DMA context (R125, R126). -/
structure DmaCtx where
  state : Nat := 0
  queue : List DmaDesc := []
  tickets : Nat := 0
  done : Nat := 0
  landed : Nat := 0
  logSpan : Nat := 0
  logCause : Nat := 0
  logLanded : Nat := 0
  deriving DecidableEq, Repr

/-- A stream-channel endpoint (R110 to R114, R128, R129). Credits and received units count 32 bytes. -/
structure Endpoint where
  cfg : Nat := 0
  bytes : Nat := 0
  /-- Sender: credit held. Receiver: received units not yet returned. -/
  credits : Nat := 0
  /-- Receiver: write position in its ring. -/
  wpos : Nat := 0
  /-- Sender: queued messages (scratchpad offset, length, bytes moved). -/
  pending : List (Nat × Nat × Nat) := []
  /-- Receiver: what has left the sender and not arrived, each with whether it ends a message. -/
  transit : List (List PByte × Bool) := []
  /-- Sender: credit on its way back. -/
  creditIn : Nat := 0
  deriving DecidableEq, Repr

/-- A weight plane (R130, R160): tile as packed bytes, column scales, format, and where they were loaded from. -/
structure Plane where
  tile : Nat := 0
  scales : Nat := 0
  fmt : Nat := 0
  wscaled : Bool := false
  loaded : Bool := false
  pending : Bool := false
  tileOff : Nat := 0
  scaleOff : Nat := 0
  deriving DecidableEq, Repr

/-- A command in the array's queue (R142): MLD or MXM with its plane. -/
structure ArrCmd where
  isLoad : Bool := false
  word : Nat := 0
  fmt : Nat := 0
  acc : Bool := false
  zfill : Bool := false
  scaled : Bool := false
  rows : Nat := 0
  ticket : Nat := 0
  desc : List Byte := []
  tileOff : Nat := 0
  scaleOff : Nat := 0
  plane : Nat := 0
  /-- Its pass has started: rows are being fed (R149). -/
  started : Bool := false
  /-- The next row to be fed and the next row that a zero row may be due for (R160); rows fed since it started or resumed. -/
  next : Nat := 0
  zero : Nat := 0
  fed : Nat := 0
  /-- The words of its row mask read so far (R151). -/
  mask : List Byte := []
  deriving DecidableEq, Repr

/-- The matrix array (R130, R142 to R171). -/
structure Arr where
  plane0 : Plane := {}
  plane1 : Plane := {}
  queue : List ArrCmd := []
  /-- Passes that have left the queue and have not completed (R142, R145). -/
  inflight : List ArrCmd := []
  /-- What passes in flight have overwritten, latest first: scratchpad offset and the bytes before (R144). -/
  wrote : List (Nat × List PByte) := []
  issued : Nat := 0
  passes : Nat := 0
  rows : Nat := 0
  stall : Nat := 0
  iovf : Bool := false
  lastPlane : Nat := 0
  /-- An MXM has issued in this span; an MLD has issued since the last one (R147). -/
  anyMxm : Bool := false
  mldSince : Bool := false
  mldPlane : Nat := 0
  /-- Activity in quarters and whether a ramp is under way (R165 to R169). -/
  activity : Nat := 0
  ramp : Bool := false
  /-- The keeper window of the current gap has not expired. -/
  window : Bool := false
  /-- pmxstat, pmxrows and pmxstall as the last span left them (R170). -/
  held : Nat × Nat × Nat := (0, 0, 0)
  deriving DecidableEq, Repr

/-- What the sequencer is stalled on (R85, R95, R100, R109, R112, R142, R143, R297). -/
inductive Stall where
  | none
  | cwait (ctr threshold rd : Nat)
  | dmaq (ctx off rd : Nat)
  | waitIdle (ctx rd : Nat)
  | send (ep off len rd : Nat)
  | array (word : Nat)
  | mwait (loads : Bool) (target rd : Nat)
  | fence (scope : Nat)
  deriving DecidableEq, Repr

/-- A perch. -/
structure Perch where
  pstate : Nat := 0
  spanId : Nat := 0
  dispatch : Nat := 0
  kernel : Nat := 0
  part : Nat := 0
  kind : Nat := 0
  ctrSat : Bool := false
  inTrap : Bool := false
  budget : Nat := 0
  remaining : Nat := 0
  /-- The cycle in which the span timer reached zero is over (R63). -/
  expired : Bool := false
  warn : Nat := 0
  stall : Stall := .none
  faultCause : Nat := 0
  faultDetail : Nat := 0
  faultCtx : Nat := 0
  faultPc : Nat := 0
  faultAddr : Nat := 0
  /-- pc of the last retired instruction (R122). -/
  lastPc : Nat := 0
  core : RvCore := {}
  mstatus : Nat := 0
  mie : Nat := 0
  mip : Nat := 0
  mtvec : Nat := 0
  mepc : Nat := 0
  mcause : Nat := 0
  mtval : Nat := 0
  mscratch : Nat := 0
  mcycle : Nat := 0
  minstret : Nat := 0
  storeBuf : List (Nat × Nat × Nat) := []
  ctr : KMap Nat := []
  ctx : KMap DmaCtx := []
  /-- The DMA write-combining buffer, the oldest line first (R108). -/
  wcb : List DmaLine := []
  ep : KMap Endpoint := []
  arr : Arr := {}
  memloss : Nat := 0
  /-- Arrival increments on their way to this perch's target counters: (source context, target perch, counter) (R105). -/
  arrivals : List (Nat × Nat × Nat) := []
  ordinal : Nat := 0
  groupSize : Nat := 0
  /-- Lines of the kernel image that the instruction cache holds, by their number in the image, with their bytes and poison marks (R79, R83). -/
  icache : List (Nat × List (Byte × Bool)) := []
  deriving DecidableEq, Repr

/-- ECC counts of a perch's scratchpad (R124), sticky over device reset. -/
structure SpadErr where
  corr : Nat := 0
  uncorr : Nat := 0
  bank : Nat := 0
  row : Nat := 0
  deriving DecidableEq, Repr

/-- What the tick unit knows of a span's last dispatch (R51, R469). -/
structure SpanInfo where
  dispatched : Bool := false
  tick : Nat := 0
  dispatch : Nat := 0
  perches : Nat := 0
  /-- Perches started and still running. -/
  started : Nat := 0
  running : Nat := 0
  ended : Nat := 0
  cyclesMax : Nat := 0
  firstPerch : Nat := 0xFFFF
  opp : Nat := 0
  /-- Outcomes reported by perches, as a mask by OUTCOME code. -/
  seen : Nat := 0
  outcome : Nat := 0xFF
  /-- A queue abort ended the dispatch (R511). -/
  aborted : Bool := false
  /-- The last perch has ended and the record has not been written. -/
  recordDue : Bool := false
  entry : Nat := 0
  deriving DecidableEq, Repr

/-- A continuation (R60 to R62): which perches have saved state, its dispatch count, the entry that runs it and the last record. -/
structure Cont where
  /-- Perches that hold saved state, each with 1. -/
  saved : KMap Nat := []
  dispatch : Nat := 0
  /-- Continuing dispatch has begun in tick `lastTick`. -/
  lastTick : Nat := 0
  entry : Nat := 0
  record : List Byte := []
  /-- A perch of the dispatch in progress was shed, faulted or could not save or read back: nothing is kept for the dispatch after it (R62, R659). -/
  dead : Bool := false
  /-- Remote writes that ended while their perch was suspended: perch, context, ticket, bytes, and whether they were lost (R313). -/
  settled : List (Nat × Nat × Nat × Nat × Bool) := []
  /-- Passes that had left the queue of a suspended perch and wait for one that has not (R146): what the four entries of R160 do not hold. -/
  trail : KMap (List ArrCmd) := []
  /-- pmemloss by perch, kept by the tick unit (R314). -/
  memloss : KMap Nat := []
  /-- Passes issued by perch, with whether a load followed the last of them and its plane (R143, R147): what the 16-bit fields of R160 do not hold. -/
  array : KMap Nat := []
  deriving DecidableEq, Repr

/-- A run group of host spans (R503, R504): the queue whose RUN it holds, the round-robin position, the outcome that ended the RUN. -/
structure RunGroup where
  queue : Option Nat := .none
  next : Nat := 0
  outcome : Nat := 0xFF
  deriving DecidableEq, Repr

end Sys2Proof.Machine
end

