-- ==== Sys2Proof/Machine/CollState.lean ====
section
/-! DEFINITION. The state of the collective engines and the coordinator (10 of the spec). -/

namespace Sys2Proof.Machine

/-- What a coordinator holds of another package for an instance (R399, R401): whether its members have posted, the COUNT of its lowest one, its lowest members
whose post record could not be read and whose record fails the check (0xFFFF for none), whether its buffers are translated (1) or fault (2) and at which member,
the first non-finite element of its contributions, the credit it has granted, the bytes and blocks sent to it, and its data by block index. -/
structure CollPeer where
  pkg : Nat := 0
  posted : Bool := false
  count : Nat := 0
  unread : Nat := 0xFFFF
  wrong : Nat := 0xFFFF
  buffers : Nat := 0
  fault : Nat := 0xFFFF
  firstNf : Nat := 0xFFFFFFFF
  credit : Nat := 0
  sent : Nat := 0
  blocks : Nat := 0
  inbox : List (Nat × List PByte) := []
  deriving DecidableEq, Repr

/-- How an instance ends otherwise than OK (R374): status, member, and whether the agreed COUNT is known. -/
structure CollVerdict where
  status : Nat := 0
  member : Nat := 0xFFFF
  counted : Bool := false
  deriving DecidableEq, Repr

/-- An instance in progress (R359). -/
structure CollInst where
  k : Nat := 0
  tick : Nat := 0
  count : Nat := 0
  /-- Offsets of the members: (member, SRC_OFF, DST_OFF). -/
  offs : List (Nat × Nat × Nat) := []
  /-- The lowest member of this package whose buffers fault, where another package must still tell of its own. -/
  fault : Option Nat := .none
  /-- Its contributions are: not read, as a home holds a read of them (R264, R310); on their way; read. -/
  phase : Nat := 0
  /-- Contribution and residue of each member of this package. -/
  parts : List (Nat × List PByte × List PByte) := []
  /-- Every package's data is here and the result has been computed. -/
  ready : Bool := false
  flags : Nat := 0
  firstNf : Nat := 0xFFFFFFFF
  result : List PByte := []
  residues : List (Nat × List PByte) := []
  /-- Members of this package whose result has been written, and those that have completed. -/
  wrote : List Nat := []
  done : List Nat := []
  /-- The package's data for the other packages (R366, R369). -/
  stream : List PByte := []
  /-- It has been decided to end otherwise than OK, after the instances before it (R359, R374). -/
  verdict : Option CollVerdict := .none
  deriving DecidableEq, Repr

/-- What the coordinator knows of a definition in a tick: the invocations each member has posted with its record (R358), the members whose span has
ended, and the highest invocation begun. -/
structure CollDefState where
  posted : KMap Nat := []
  recs : KMap Nat := []
  gone : List Nat := []
  /-- Invocations that are MISSING but come after ones that wait for room, each with the member that had not posted (R374, R377). -/
  missed : List (Nat × Nat) := []
  begun : Nat := 0
  /-- Invocations whose posting by every member here has been told to the other packages (R399). -/
  told : Nat := 0
  insts : List CollInst := []
  /-- Other packages by invocation: what has come from them. -/
  peers : KMap (List CollPeer) := []
  deriving DecidableEq, Repr

end Sys2Proof.Machine
end

