-- ==== Sys2Proof/Machine/HartState.lean ====
section
/-! DEFINITION. The state of a steward core (13 of the spec; CSRs by their RISC-V numbers). -/

namespace Sys2Proof.Machine

/-- One IMSIC interrupt file (R473): pending and enabled identities as bitmaps, delivery and threshold. -/
structure Imsic where
  pending : Nat := 0
  enabled : Nat := 0
  delivery : Nat := 0
  threshold : Nat := 0
  deriving DecidableEq, Repr

/-- A remote store that has not been acknowledged (R308): its tag, league system address and length. -/
structure RemoteStore where
  tag : Nat
  addr : Nat
  len : Nat
  deriving DecidableEq, Repr

/-- What a core is stalled on: TWAIT (until a count, or until the next boundary), or nothing (R466). -/
inductive HartStall where
  | none
  | twait (next : Bool) (target rd : Nat)
  | fence (scope : Nat)
  /-- An access waits and is tried again (R264, R308, R310). -/
  | store
  /-- An AMO at another package: width, destination and address (R309). -/
  | amo (width rd va : Nat)
  /-- Loads from another package that have not been answered (R399). -/
  | load (left : Nat)
  deriving DecidableEq, Repr

/-- A steward core. -/
structure Hart where
  /-- It runs instructions; held in reset otherwise (R535). -/
  running : Bool := false
  core : RvCore := {}
  /-- Privilege: 0 U, 1 S, 3 M. -/
  priv : Nat := 3
  /-- CSRs without a home of their own, by number. -/
  csr : KMap Nat := []
  imsicM : Imsic := {}
  imsicS : Imsic := {}
  /-- Line of the reservation (R310). -/
  resv : Option Nat := .none
  /-- The first 256 core cycles after the LR have not passed: recalls of the line are deferred (R310). -/
  deferring : Bool := false
  remote : List RemoteStore := []
  /-- Power state (R479): 0 RUN, 1 WAIT, 2 NAP, 3 OFF. -/
  power : Nat := 0
  stall : HartStall := .none
  /-- What other packages have answered to the instruction that a core is at: league address, and bytes with poison (R399). -/
  got : List (Nat × List (BitVec 8 × Bool)) := []
  /-- Liveness word (R485). -/
  live : Nat := 0
  deriving DecidableEq, Repr

end Sys2Proof.Machine
end

