-- ==== Sys2Proof/Machine/HifState.lean ====
section
/-! DEFINITION. The state of the host interface: queues, accepted commands, completions, MSI-X (14 of the spec). -/

namespace Sys2Proof.Machine

/-- A command that a queue has accepted (R498, R506): its slots, the sequence number of its first slot, the tick of acceptance, and what it has done.
`torn` stands for the completion of a torn command, which keeps its place in the order. -/
structure HCmd where
  slots : List Byte := []
  seq : Nat := 0
  tick : Nat := 0
  torn : Bool := false
  /-- The engine has begun it (R502). -/
  started : Bool := false
  /-- Its RUN has been handed to the run group (R503). -/
  handed : Bool := false
  done : Nat := 0
  poison : Bool := false
  /-- Bytes of remote writes declared lost, and the old value of an ATOMIC at another package. -/
  lost : Nat := 0
  result : Nat := 0
  /-- STATUS of a failure after which its accesses to other packages are still under way (R507, R508). -/
  fail : Nat := 0
  deriving DecidableEq, Repr

/-- A completion that has not been written to its ring (R507). -/
structure HDone where
  tag : Nat := 0
  status : Nat := 0
  poison : Bool := false
  seq : Nat := 0
  done : Nat := 0
  result : Nat := 0
  tick : Nat := 0
  fence : Bool := false
  noIrq : Bool := false
  deriving DecidableEq, Repr

/-- A queue (R494 to R534). `state` is R494's code; a queue without binding reads UNBOUND whatever it holds. -/
structure HQueue where
  state : Nat := 1
  depthReg : Nat := 0
  holdoff : Nat := 0
  depth : Nat := 0
  sqBase : Nat := 0
  cqBase : Nat := 0
  nextSeq : Nat := 0
  /-- The last doorbell: sequence number and CRC; none since ENABLE. -/
  bell : Option (Nat × Nat) := .none
  /-- Failed reads of the slot under fetch (R506). -/
  retries : Nat := 0
  accepted : List HCmd := []
  compl : List HDone := []
  /-- Completions written since ENABLE or RESUME, and CQ_HEAD. -/
  written : Nat := 0
  cqHead : Nat := 0
  opRej : Bool := false
  dbErr : Nat := 0
  tornCount : Nat := 0
  tornSeq : Nat := 0
  busy : Bool := false
  /-- The hold-off interval runs, and a message is due at its end (R510). -/
  holding : Bool := false
  irqDue : Bool := false
  deriving DecidableEq, Repr

/-- The host interface. -/
structure Hif where
  /-- The PCIe link is up; MSI-X enabled; Bus Master Enable (R490, R513). -/
  linkUp : Bool := false
  msixEnable : Bool := false
  bme : Bool := false
  /-- MSI-X table by vector: address [63:0], data [95:64], vector control [127:96]; every vector is masked at first (R492, PCIe). -/
  msix : KMap Nat := []
  pba : KMap Nat := []
  queues : KMap HQueue := []
  /-- Partitions whose host window is open (R502), and by partition the queue served last. -/
  windows : List Nat := []
  last : KMap Nat := []
  /-- By run group: the queue whose RUN it took last (R503). -/
  lastRun : KMap Nat := []
  /-- Queues that executed something in this tick (R587). -/
  worked : List Nat := []
  deriving DecidableEq, Repr

end Sys2Proof.Machine
end

