-- ==== Sys2Proof/Machine/LinkState.lean ====
section
/-! DEFINITION. The state of the scale-out links and the league that no register shows (11 of the spec). -/

namespace Sys2Proof.Machine

/-- What the manager holds of a package ID (R406, R410, R414): an epoch has been granted, the beacon of this tick has been answered or counted as
unanswered, beacons in a row unanswered, and the last allowance reported (R578). -/
structure PkgState where
  joined : Bool := false
  answered : Bool := false
  counted : Bool := false
  missed : Nat := 0
  allowance : Nat := 7
  deriving DecidableEq, Repr

/-- The league as a package holds it. -/
structure League where
  /-- The last IDENT of each plane's peer (R391, R397). -/
  idents : KMap (Option Ident) := []
  pkgs : KMap PkgState := []
  /-- Planes whose port at a package's own switch port is down, by package ID, until its route changes (R402, R412). -/
  peerDown : KMap Nat := []
  /-- Package IDs that no plane reached: unreachable until their routes change (R413). -/
  cut : List Nat := []
  /-- Entries of EPOCH_SETs that wait for their tick (R407). -/
  entries : List RouteEntry := []
  /-- On the manager: package IDs declared lost, for the next beacon (R414). -/
  lost : Nat := 0
  /-- Dies marked failed in other packages, by package ID (R613). -/
  failed : KMap Nat := []
  /-- A beacon has arrived in this tick, and this tick's beacon has been counted as missed (R411). -/
  seen : Bool := false
  missCounted : Bool := false
  /-- The beacon's phase against the predicted boundary, ns (R409). -/
  phase : Option Int := .none
  /-- The point for the tick after the next (R408). -/
  oppNext2 : Nat := 0
  /-- A change of plan is pending: the plan, and the tick in which it takes effect (R408, R415). -/
  change : Option (Nat × Nat) := .none
  /-- The tick in which dispatch halts for want of a plan (R414). -/
  haltAt : Option Nat := .none
  /-- The seal beacon has been sent or has arrived (R558), with the plan it names. -/
  sealPlan : Option Nat := .none
  /-- A JOIN has been sent and not been answered. -/
  joining : Bool := false
  /-- JOIN_WAIT_S has passed since READY (R558). -/
  waited : Bool := false
  deriving DecidableEq, Repr

end Sys2Proof.Machine
end

