-- ==== Sys2Proof/Machine/MemState.lean ====
section
/-! DEFINITION. The data types of the memory system: cache lines, write-combining entries, translations and requests held for budget
(06, 07, 09 of the spec). -/

namespace Sys2Proof.Machine

/-- One line of a cache: tag is pa / 128; dirty and poison have one bit per sector (R197, R204, R210); `flaw` has one for each sector whose bits hold an error that
no read has met, correctable ones in bits 3 to 0 and others in bits 7 to 4 (R222). The caches of the steward dies hold tags alone: their data stand in
`State`'s coherent copies. -/
structure CLine where
  valid : Bool := false
  tag : Nat := 0
  data : LineData := 0
  dirty : Nat := 0
  poison : Nat := 0
  part : Nat := 0
  flaw : Nat := 0
  deriving DecidableEq, Repr

/-- A set-associative cache of up to 16 ways: lines by set × 16 + way, pseudo-LRU trees by set (R221), corrected and uncorrectable counts by way (R222), and the
ways that have qualified to leave service and allocate no more (R222, R223). -/
structure Cache where
  lines : KMap CLine := []
  trees : KMap Nat := []
  corr : KMap Nat := []
  uncorr : KMap Nat := []
  off : Nat := 0
  /-- Ways of a steward die's system cache that have left service: no register shows them. -/
  gone : Nat := 0
  deriving DecidableEq, Repr

/-- A fill in flight to a chain cache (R220): line, partition, whether it goes to the side buffer, whether it may be installed, with the data fetched. -/
structure Fill where
  line : Nat := 0
  part : Nat := 0
  side : Bool := false
  install : Bool := true
  data : LineData := 0
  poison : Nat := 0
  deriving DecidableEq, Repr

/-- A chain cache with its side buffer (oldest first), its fills and the line of the previous miss of each DMA context (R214 to R220). -/
structure ChainCache where
  cache : Cache := {}
  side : List CLine := []
  fills : List Fill := []
  lastMiss : KMap Nat := []
  deriving DecidableEq, Repr

/-- An entry of a pseudo-channel's write-combining buffer (R205): a line and its 128-bit byte mask. -/
structure WcbEntry where
  die : Nat := 0
  channel : Nat := 0
  line : Nat := 0
  data : LineData := 0
  mask : Nat := 0
  poison : Nat := 0
  deriving DecidableEq, Repr

/-- The coherent copy of a line that a steward die holds in its caches (R212, R470), and the partition that brought or changed it last. -/
structure StewardLine where
  valid : Bool := false
  data : LineData := 0
  dirty : Bool := false
  poison : Nat := 0
  part : Nat := 16
  deriving DecidableEq, Repr

/-- A leaf held in a TLB: MMU, partition, first DVA, log2 of the size, first target address and the rights R, W, X, AT as bits 0 to 3, with U, A, D as
bits 4 to 6 for a steward core (R326, R334, R472). `recheck`: an invalidation has completed since its target was checked (R330). `way`: its place in its set. -/
structure TlbEntry where
  mmu : Nat := 0
  part : Nat := 0
  dva : Nat := 0
  size : Nat := 16
  target : Nat := 0
  rights : Nat := 0
  way : Nat := 0
  recheck : Bool := false
  part4k : Nat := 16
  deriving DecidableEq, Repr

/-- A pointer entry held in a walk cache: the table that serves the region of `size` bits from `dva` (R334). -/
structure WalkEntry where
  mmu : Nat := 0
  part : Nat := 0
  dva : Nat := 0
  size : Nat := 39
  table : Nat := 0
  way : Nat := 0
  deriving DecidableEq, Repr

/-- What a held request will do when it is admitted (R264). -/
inductive HeldOp where
  | write (data : List Byte) (poison : Bool)
  | read (len : Nat)
  | atomic (op : Nat) (width operand compare : Nat)
  deriving DecidableEq, Repr

/-- A request held at a home until the next tick boundary (R264), or until a core yields its line (R310). -/
structure Held where
  home : Nat
  die : Nat
  part : Nat
  pa : Nat
  unit : Nat
  req : Nat
  noAlloc : Bool
  exempt : Bool
  op : HeldOp
  deriving DecidableEq, Repr

/-- An invalidation or page-owner command in progress (R339, R262): operation, partition, count, first address or page, and the leaves that it dropped: first
DVA, bytes, target. -/
structure SlowCmd where
  op : Nat
  part : Nat
  count : Nat
  at_ : Nat
  leaves : List (Nat × Nat × Nat) := []
  deriving DecidableEq, Repr

/-- Who issued an access to another package. -/
inductive Agent where
  /-- A descriptor of a perch's context, by its ticket; context 8 stands for no context. -/
  | dma (perch ctx ticket : Nat)
  /-- A descriptor of a suspended continuation. -/
  | susp (cont perch ctx ticket : Nat)
  | hart (h : Nat)
  | mover (die entry : Nat)
  | hif (queue : Nat)
  /-- An engine for a member of an instance: part 0 its contribution, 1 its residue, 2 its result. COLL_ID 0 stands for no instance. -/
  | coll (die id k member part : Nat)
  deriving DecidableEq, Repr

/-- An access to another package that has not been answered (R308, R312): tag, agent, package, league address, length, for a read the
addresses that its bytes go to, the plane it left on, whether the set of planes toward the package has changed since (R403), and for an access
held until then its packet. -/
structure RemoteOp where
  tag : Nat
  agent : Agent
  pkg : Nat
  addr : Nat
  len : Nat
  isRead : Bool
  dest : List (Nat × Nat)
  plane : Nat := 0
  old : Bool := false
  held : Option Packet := .none
  /-- The byte of a DMA descriptor at which the data of a read begin. -/
  pos : Nat := 0
  deriving DecidableEq, Repr

/-- A move-list entry in this tick (R249 to R254): 0 not started, 1 in progress, 2 ended; its slot, bytes or pages done, bytes issued to an SSD, the
status of a failure, and whether every byte has been read and written. -/
structure MoveRun where
  state : Nat := 0
  slot : Nat := 0
  done : Nat := 0
  issued : Nat := 0
  fail : Nat := 0
  whole : Bool := false
  pos : Nat := 0
  held : Bool := false
  deriving DecidableEq, Repr

/-- An NVMe command that has not completed (R448, R449): identifier, the entry that it serves, direction, place on the SSD, target pieces, whether an
abort was sent and whether its entry has ended. -/
structure NvmeCmd where
  cid : Nat := 0
  die : Nat := 0
  entry : Nat := 0
  write : Bool := false
  lba : Nat := 0
  bytes : Nat := 0
  part : Nat := 0
  targets : List (Nat × Nat) := []
  /-- The leaves that translated it: first DVA and size. -/
  leaves : List (Nat × Nat) := []
  aborted : Bool := false
  orphan : Bool := false
  deriving DecidableEq, Repr

/-- An NVMe root port (R448): commands outstanding and the next command identifier. -/
structure NvmePort where
  cmds : List NvmeCmd := []
  nextCid : Nat := 0
  deriving DecidableEq, Repr

end Sys2Proof.Machine
end

