-- ==== Sys2Proof/Machine/Out.lean ====
section
/-! DEFINITION. What the block puts on its pins, wires and links: one constructor for each kind of output the spec gives it. -/

namespace Sys2Proof.Machine

/-- An output. `State.out` holds them in the order they were made. -/
inductive Out where
  /-- A posted PCIe write to a host IOVA (R289, R507). -/
  | pcieWrite (iova : Nat) (data : List Byte)
  /-- A completion entry written to a host ring: IOVA, bytes, relaxed-ordering attribute (R507). -/
  | completion (iova : Nat) (data : List Byte) (relaxed : Bool)
  /-- Data of a BAR read with the poison of its TLP (R495). -/
  | tlpData (data : List Byte) (poison : Bool)
  /-- An MSI-X message of a vector (R492). -/
  | msix (vector address data : Nat)
  /-- Data answered to a read of a BAR, the sideband or JTAG. -/
  | readData (data : List Byte)
  /-- Data that a home answers to a requester (R207, R210), with its poison mark. -/
  | homeData (data : List Byte) (poison : Bool)
  /-- A PCIe completion without data for a read that is refused (Unsupported Request or Completer Abort). -/
  | readError
  /-- An Ethernet frame on a port (R431). -/
  | ethFrame (port : Nat) (frame : List Byte)
  /-- A packet on a link port (R398). -/
  | packet (die port : Nat) (p : Packet)
  /-- An IDENT record sent on a link port (R391). -/
  | ident (die port : Nat) (rec : Ident)
  /-- A beacon sent on every plane (R408). -/
  | beacon (m : BeaconMsg)
  /-- The answer to a beacon, on the plane that delivered it (R410). -/
  | beaconAck (plane : Nat) (m : BeaconAckMsg)
  | mgmt (m : MgmtMsg)
  | join (m : JoinReq)
  | joinGrant (plane : Nat) (m : JoinGrantMsg)
  | epochSet (gen : Nat) (entries : List RouteEntry)
  /-- A TICK_OUT pulse of a width in µs (R45). -/
  | tickOut (widthUs : Nat)
  /-- An AVSBus command to a die's rail (R640). -/
  | avs (die code : Nat)
  /-- An NVMe command on a root port (R448): command identifier, NSID, write, LBA, bytes. -/
  | nvme (port cid nsid : Nat) (write : Bool) (lba bytes : Nat) (data : List Byte)
  /-- An NVMe abort or a controller reset (R449). -/
  | nvmeAbort (port cid : Nat)
  | nvmeReset (port : Nat)
  /-- What the TAP selects (R651): 0 BYPASS, 1 IDCODE, 2 boundary scan, with the word that it captures. -/
  | jtag (register data : Nat)
  /-- A sideband reply (R652). -/
  | sideband (data : List Byte)
  /-- The boundary of a tick sent to every die (R44). -/
  | boundary (count : Nat)
  deriving DecidableEq, Repr

end Sys2Proof.Machine
end

