-- ==== Sys2Proof/Machine/RegMap.lean ====
section
/-! DEFINITION. The register map of the control space, written from the register tables of the spec (R34 to R642): one `Fld` per named field,
with its offset in the die's control space (R28), bit place, access code (R8), stickiness (R12) and reset value; `Reg.table` lists the registers. -/

namespace Sys2Proof.Machine

/-- Access codes (R8). -/
inductive Acc where
  | ro | rw | wo | w1c | w1s | rs
  deriving DecidableEq, Repr

/-- One register field: offset of its register in the die's control space, lowest bit, width, access code, ST mark, reset value.
`fuse` marks a field whose reset value is a fuse (R34, R570, R593). -/
structure Fld where
  off : Nat
  lo : Nat
  width : Nat
  acc : Acc
  st : Bool
  reset : Nat
  deriving DecidableEq, Repr

/-- The same field of another register of the array, `d` bytes further. -/
def Fld.shift (f : Fld) (d : Nat) : Fld := { f with off := f.off + d }

/-- Which dies carry a register (R28 and the sentences of each block). -/
inductive DieSel where
  | all | s0 | steward | compute | coll | sio
  deriving DecidableEq, Repr

/-- One register or register array of the map: first offset, count, stride, fields, dies, and whether other dies mirror S0 (R68 to R72, R420, R588). -/
structure RegDesc where
  off : Nat
  count : Nat
  stride : Nat
  fields : List Fld
  dies : DieSel
  mirror : Bool
  deriving DecidableEq, Repr

def Reg.GLB_DIE_ID.SERIAL : Fld := ⟨0x0, 32, 32, .ro, false, 0⟩
def Reg.GLB_DIE_ID.REV_MAJOR : Fld := ⟨0x0, 28, 4, .ro, false, 0⟩
def Reg.GLB_DIE_ID.REV_MINOR : Fld := ⟨0x0, 24, 4, .ro, false, 0⟩
def Reg.GLB_DIE_ID.KIND : Fld := ⟨0x0, 16, 4, .ro, false, 0⟩
def Reg.GLB_DIE_ID.DIE_NUM : Fld := ⟨0x0, 8, 8, .ro, false, 255⟩
def Reg.GLB_DIE_ID.ROW : Fld := ⟨0x0, 4, 2, .ro, false, 0⟩
def Reg.GLB_DIE_ID.COL : Fld := ⟨0x0, 2, 2, .ro, false, 0⟩
def Reg.GLB_DIE_ID.PLACED : Fld := ⟨0x0, 1, 1, .ro, false, 0⟩
def Reg.GLB_DIE_ID.PART : Fld := ⟨0x0, 0, 1, .ro, false, 0⟩
def Reg.GLB_EDGE_STATUS.STATE3 : Fld := ⟨0x8, 60, 4, .ro, false, 0⟩
def Reg.GLB_EDGE_STATUS.PEER3 : Fld := ⟨0x8, 56, 4, .ro, false, 15⟩
def Reg.GLB_EDGE_STATUS.RETRAIN3 : Fld := ⟨0x8, 48, 8, .ro, true, 0⟩
def Reg.GLB_EDGE_STATUS.STATE2 : Fld := ⟨0x8, 44, 4, .ro, false, 0⟩
def Reg.GLB_EDGE_STATUS.PEER2 : Fld := ⟨0x8, 40, 4, .ro, false, 15⟩
def Reg.GLB_EDGE_STATUS.RETRAIN2 : Fld := ⟨0x8, 32, 8, .ro, true, 0⟩
def Reg.GLB_EDGE_STATUS.STATE1 : Fld := ⟨0x8, 28, 4, .ro, false, 0⟩
def Reg.GLB_EDGE_STATUS.PEER1 : Fld := ⟨0x8, 24, 4, .ro, false, 15⟩
def Reg.GLB_EDGE_STATUS.RETRAIN1 : Fld := ⟨0x8, 16, 8, .ro, true, 0⟩
def Reg.GLB_EDGE_STATUS.STATE0 : Fld := ⟨0x8, 12, 4, .ro, false, 0⟩
def Reg.GLB_EDGE_STATUS.PEER0 : Fld := ⟨0x8, 8, 4, .ro, false, 15⟩
def Reg.GLB_EDGE_STATUS.RETRAIN0 : Fld := ⟨0x8, 0, 8, .ro, true, 0⟩
def Reg.GLB_SEAL_STATUS.DEV_RESETS : Fld := ⟨0x10, 48, 16, .ro, true, 0⟩
def Reg.GLB_SEAL_STATUS.REJ_COUNT : Fld := ⟨0x10, 32, 16, .ro, true, 0⟩
def Reg.GLB_SEAL_STATUS.WRITE_REJ : Fld := ⟨0x10, 1, 1, .w1c, true, 0⟩
def Reg.GLB_SEAL_STATUS.SEALED : Fld := ⟨0x10, 0, 1, .ro, false, 0⟩
def Reg.GLB_CHARTER_DIGEST.DIGEST : Fld := ⟨0x18, 0, 64, .ro, true, 0⟩
def Reg.TICK_PERIOD.PERIOD : Fld := ⟨0x10000, 0, 16, .rs, false, 0⟩
def Reg.TICK_CTRL.CNT_CLR : Fld := ⟨0x10008, 32, 1, .w1s, false, 0⟩
def Reg.TICK_CTRL.PTP_DOMAIN : Fld := ⟨0x10008, 24, 8, .rs, false, 0⟩
def Reg.TICK_CTRL.TICK_OUT_WIDTH : Fld := ⟨0x10008, 16, 8, .rs, false, 0⟩
def Reg.TICK_CTRL.REQ_LOCK : Fld := ⟨0x10008, 13, 1, .rs, false, 0⟩
def Reg.TICK_CTRL.TICK_IN_EDGE : Fld := ⟨0x10008, 12, 1, .rs, false, 0⟩
def Reg.TICK_CTRL.SRC_ALT : Fld := ⟨0x10008, 4, 4, .rs, false, 0⟩
def Reg.TICK_CTRL.SRC_PRI : Fld := ⟨0x10008, 0, 4, .rs, false, 0⟩
def Reg.TICK_STATUS.ACTIVE_SRC : Fld := ⟨0x10010, 12, 4, .ro, false, 0⟩
def Reg.TICK_STATUS.STATE : Fld := ⟨0x10010, 8, 3, .ro, false, 0⟩
def Reg.TICK_STATUS.NO_REF : Fld := ⟨0x10010, 4, 1, .ro, false, 0⟩
def Reg.TICK_STATUS.SRC_LOST : Fld := ⟨0x10010, 3, 1, .w1c, true, 0⟩
def Reg.TICK_STATUS.ALT_ACTIVE : Fld := ⟨0x10010, 2, 1, .ro, false, 0⟩
def Reg.TICK_STATUS.GAP : Fld := ⟨0x10010, 1, 1, .w1c, true, 0⟩
def Reg.TICK_STATUS.DISPATCHING : Fld := ⟨0x10010, 0, 1, .ro, false, 0⟩
def Reg.TICK_COUNT.COUNT : Fld := ⟨0x10018, 0, 64, .ro, true, 0⟩
def Reg.TICK_TIME.PHASE_ERR : Fld := ⟨0x10020, 32, 32, .ro, false, 0⟩
def Reg.TICK_TIME.ELAPSED_NS : Fld := ⟨0x10020, 0, 32, .ro, false, 0⟩
def Reg.TICK_SCHED.PATTERN_CUR : Fld := ⟨0x10028, 44, 8, .ro, false, 0⟩
def Reg.TICK_SCHED.PATTERN_COUNT : Fld := ⟨0x10028, 35, 9, .rs, false, 0⟩
def Reg.TICK_SCHED.FLOOR_OPP : Fld := ⟨0x10028, 32, 3, .rs, false, 0⟩
def Reg.TICK_SCHED.SPAN_COUNT : Fld := ⟨0x10028, 0, 16, .rs, false, 0⟩
def Reg.TICK_SCHED_BASE.BASE : Fld := ⟨0x10030, 0, 48, .rs, false, 0⟩
def Reg.TICK_SHED_CNT.SUSPENDS : Fld := ⟨0x10038, 32, 32, .ro, false, 0⟩
def Reg.TICK_SHED_CNT.SHEDS : Fld := ⟨0x10038, 0, 32, .ro, false, 0⟩
def Reg.TICK_OVERRUN_CNT.LATE : Fld := ⟨0x10040, 48, 16, .ro, false, 0⟩
def Reg.TICK_OVERRUN_CNT.DISPLACED : Fld := ⟨0x10040, 32, 16, .ro, false, 0⟩
def Reg.TICK_OVERRUN_CNT.SRC_MISS : Fld := ⟨0x10040, 16, 16, .ro, false, 0⟩
def Reg.TICK_OVERRUN_CNT.STATUS_LOST : Fld := ⟨0x10040, 0, 16, .ro, false, 0⟩
def Reg.TICK_IRQ.SRC_EN : Fld := ⟨0x10048, 3, 1, .rw, false, 0⟩
def Reg.TICK_IRQ.DISPLACED_EN : Fld := ⟨0x10048, 2, 1, .rw, false, 0⟩
def Reg.TICK_IRQ.LATE_EN : Fld := ⟨0x10048, 1, 1, .rw, false, 0⟩
def Reg.TICK_IRQ.SHED_EN : Fld := ⟨0x10048, 0, 1, .rw, false, 0⟩
def Reg.TICK_LAST_SHED.SPAN_ID : Fld := ⟨0x10050, 48, 16, .ro, false, 0⟩
def Reg.TICK_LAST_SHED.OUTCOME : Fld := ⟨0x10050, 40, 8, .ro, false, 0⟩
def Reg.TICK_LAST_SHED.PERCH : Fld := ⟨0x10050, 16, 16, .ro, false, 0⟩
def Reg.TICK_LAST_SHED.TICK_LO : Fld := ⟨0x10050, 0, 16, .ro, false, 0⟩
def Reg.PWR_CTRL.GATE_US : Fld := ⟨0x20000, 48, 16, .rs, false, 0⟩
def Reg.PWR_CTRL.CAP_W : Fld := ⟨0x20000, 32, 16, .rs, false, 0⟩
def Reg.PWR_CTRL.STEWARD_MHZ : Fld := ⟨0x20000, 20, 12, .rs, false, 0⟩
def Reg.PWR_CTRL.KEEPER_Q : Fld := ⟨0x20000, 15, 5, .rs, false, 0⟩
def Reg.PWR_CTRL.POLICY : Fld := ⟨0x20000, 13, 2, .rs, false, 0⟩
def Reg.PWR_CTRL.OPP_MAX : Fld := ⟨0x20000, 8, 3, .rs, false, 0⟩
def Reg.PWR_CTRL.OPP_MIN : Fld := ⟨0x20000, 4, 3, .rs, false, 0⟩
def Reg.PWR_STATUS.POWER_W : Fld := ⟨0x20008, 48, 16, .ro, false, 0⟩
def Reg.PWR_STATUS.LIMITER : Fld := ⟨0x20008, 36, 4, .ro, false, 0⟩
def Reg.PWR_STATUS.CAP_UNMET : Fld := ⟨0x20008, 32, 1, .ro, false, 0⟩
def Reg.PWR_STATUS.CEIL_THERM : Fld := ⟨0x20008, 12, 3, .ro, false, 0⟩
def Reg.PWR_STATUS.CAP_CHOICE : Fld := ⟨0x20008, 8, 3, .ro, false, 0⟩
def Reg.PWR_STATUS.OPP_NEXT : Fld := ⟨0x20008, 4, 3, .ro, false, 0⟩
def Reg.PWR_STATUS.OPP_CUR : Fld := ⟨0x20008, 0, 3, .ro, false, 0⟩
def Reg.PWR_TEMP.DIE_MAX : Fld := ⟨0x20010, 32, 8, .ro, false, 0⟩
def Reg.PWR_TEMP.EFF3 : Fld := ⟨0x20010, 24, 8, .ro, false, 0⟩
def Reg.PWR_TEMP.EFF2 : Fld := ⟨0x20010, 16, 8, .ro, false, 0⟩
def Reg.PWR_TEMP.EFF1 : Fld := ⟨0x20010, 8, 8, .ro, false, 0⟩
def Reg.PWR_TEMP.EFF0 : Fld := ⟨0x20010, 0, 8, .ro, false, 0⟩
def Reg.PWR_THERM.CAPPED_TICKS : Fld := ⟨0x20018, 32, 32, .ro, true, 0⟩
def Reg.PWR_THERM.TRIP_CAUSE : Fld := ⟨0x20018, 28, 4, .ro, false, 0⟩
def Reg.PWR_THERM.CEIL : Fld := ⟨0x20018, 8, 3, .ro, false, 7⟩
def Reg.PWR_THERM.STEWARD_HALF : Fld := ⟨0x20018, 4, 1, .ro, false, 0⟩
def Reg.PWR_THERM.STACK_HOT : Fld := ⟨0x20018, 0, 4, .ro, false, 0⟩
def Reg.PWR_VTABLE.VCODE : Fld := ⟨0x20020, 0, 64, .ro, false, 0⟩
def Reg.PWR_IDLE.IDLE_W : Fld := ⟨0x20028, 0, 64, .ro, false, 0⟩
def Reg.PWR_ENERGY_PKG.UJ : Fld := ⟨0x20030, 0, 64, .ro, true, 0⟩
def Reg.PWR_ENERGY_UNATTR.UJ : Fld := ⟨0x20038, 0, 64, .ro, true, 0⟩
def Reg.PWR_RAIL.RAIL_W : Fld := ⟨0x20040, 0, 16, .ro, false, 0⟩
def Reg.PWR_AVS.LATE : Fld := ⟨0x20048, 48, 16, .ro, true, 0⟩
def Reg.PWR_AVS.FAULTS : Fld := ⟨0x20048, 32, 16, .ro, true, 0⟩
def Reg.PWR_AVS.SETTLED : Fld := ⟨0x20048, 16, 1, .ro, false, 0⟩
def Reg.PWR_AVS.VCODE : Fld := ⟨0x20048, 0, 8, .ro, false, 0⟩
def Reg.PWR_PART_ENERGY.UJ : Fld := ⟨0x20100, 0, 64, .ro, true, 0⟩
def Reg.PWR_Q_ENERGY.UJ : Fld := ⟨0x21000, 0, 64, .ro, true, 0⟩
def Reg.RAS_ERR.CLASS : Fld := ⟨0x30000, 0, 18, .w1c, true, 0⟩
def Reg.RAS_ACC_INFO.VALID : Fld := ⟨0x30008, 63, 1, .w1c, true, 0⟩
def Reg.RAS_ACC_INFO.KIND : Fld := ⟨0x30008, 60, 3, .ro, true, 0⟩
def Reg.RAS_ACC_INFO.PART : Fld := ⟨0x30008, 56, 4, .ro, true, 0⟩
def Reg.RAS_ACC_INFO.UNIT : Fld := ⟨0x30008, 48, 8, .ro, true, 0⟩
def Reg.RAS_ACC_INFO.REQ : Fld := ⟨0x30008, 32, 16, .ro, true, 0⟩
def Reg.RAS_ACC_INFO.TICK_LO : Fld := ⟨0x30008, 0, 16, .ro, true, 0⟩
def Reg.RAS_ACC_ADDR.ADDR : Fld := ⟨0x30010, 0, 54, .ro, true, 0⟩
def Reg.RAS_LOST_ADDR.VALID : Fld := ⟨0x30018, 63, 1, .w1c, true, 0⟩
def Reg.RAS_LOST_ADDR.HART : Fld := ⟨0x30018, 54, 6, .ro, true, 0⟩
def Reg.RAS_LOST_ADDR.ADDR : Fld := ⟨0x30018, 0, 54, .ro, true, 0⟩
def Reg.RAS_SCRUB.PASSES : Fld := ⟨0x30020, 48, 16, .ro, true, 0⟩
def Reg.RAS_SCRUB.RETIRE_PEND : Fld := ⟨0x30020, 32, 16, .ro, true, 0⟩
def Reg.RAS_SCRUB.PROGRESS : Fld := ⟨0x30020, 0, 32, .ro, false, 0⟩
def Reg.RAS_FATHOM_ECC.CORR : Fld := ⟨0x30028, 32, 32, .ro, true, 0⟩
def Reg.RAS_FATHOM_ECC.UNCORR : Fld := ⟨0x30028, 16, 16, .ro, true, 0⟩
def Reg.RAS_FATHOM_ECC.RETIRED : Fld := ⟨0x30028, 0, 16, .ro, true, 0⟩
def Reg.RAS_PKG.DIE_FAILED : Fld := ⟨0x30108, 56, 8, .ro, true, 0⟩
def Reg.RAS_PKG.PLAN : Fld := ⟨0x30108, 48, 8, .ro, false, 0⟩
def Reg.RAS_PKG.HALTED : Fld := ⟨0x30108, 47, 1, .ro, false, 0⟩
def Reg.RAS_PKG.HALT_CAUSE : Fld := ⟨0x30108, 44, 3, .ro, false, 0⟩
def Reg.RAS_PKG.FAIL_TICK_LO : Fld := ⟨0x30108, 0, 16, .ro, true, 0⟩
def Reg.RAS_RESET.CAUSE : Fld := ⟨0x30110, 60, 4, .ro, true, 0⟩
def Reg.RAS_RESET.LAST_MS : Fld := ⟨0x30110, 32, 28, .ro, true, 0⟩
def Reg.RAS_RESET.START_TICK : Fld := ⟨0x30110, 0, 32, .ro, true, 0⟩
def Reg.RAS_LOG_BASE.BASE : Fld := ⟨0x30118, 0, 48, .rs, false, 0⟩
def Reg.RAS_LOG_PTR.DROPPED : Fld := ⟨0x30120, 48, 16, .ro, true, 0⟩
def Reg.RAS_LOG_PTR.PROD : Fld := ⟨0x30120, 32, 13, .ro, true, 0⟩
def Reg.RAS_LOG_PTR.CONS : Fld := ⟨0x30120, 0, 13, .rw, true, 0⟩
def Reg.RAS_DUMP_BASE.BASE : Fld := ⟨0x30128, 0, 48, .rs, false, 0⟩
def Reg.RAS_DUMP_STATUS.VALID : Fld := ⟨0x30130, 63, 1, .ro, true, 0⟩
def Reg.RAS_DUMP_STATUS.BUSY : Fld := ⟨0x30130, 62, 1, .ro, false, 0⟩
def Reg.RAS_DUMP_STATUS.TRIGGER : Fld := ⟨0x30130, 60, 2, .ro, true, 0⟩
def Reg.RAS_DUMP_STATUS.NO_RESPONSE : Fld := ⟨0x30130, 48, 12, .ro, true, 0⟩
def Reg.RAS_DUMP_STATUS.ELAPSED_US : Fld := ⟨0x30130, 24, 24, .ro, true, 0⟩
def Reg.RAS_DUMP_STATUS.TAKE : Fld := ⟨0x30130, 0, 1, .w1s, false, 0⟩
def Reg.RAS_DUMP_READ.READY : Fld := ⟨0x30138, 63, 1, .w1c, false, 0⟩
def Reg.RAS_DUMP_READ.CHUNKS : Fld := ⟨0x30138, 32, 16, .ro, false, 0⟩
def Reg.RAS_DUMP_READ.CHUNK : Fld := ⟨0x30138, 0, 16, .ro, false, 0⟩
def Reg.CHAIN_CTRL.PF_EN : Fld := ⟨0x100000, 1, 1, .rs, false, 0⟩
def Reg.CHAIN_CTRL.EN : Fld := ⟨0x100000, 0, 1, .rs, false, 0⟩
def Reg.CHAIN_WAYS.COUNT : Fld := ⟨0x100008, 16, 4, .ro, true, 0⟩
def Reg.CHAIN_WAYS.DISABLED : Fld := ⟨0x100008, 0, 16, .ro, true, 0⟩
def Reg.CHAIN_HITS.MISSES : Fld := ⟨0x100010, 32, 32, .ro, false, 0⟩
def Reg.CHAIN_HITS.HITS : Fld := ⟨0x100010, 0, 32, .ro, false, 0⟩
def Reg.CHAIN_PF.ISSUED : Fld := ⟨0x100018, 32, 32, .ro, false, 0⟩
def Reg.CHAIN_PF.USED : Fld := ⟨0x100018, 0, 32, .ro, false, 0⟩
def Reg.CHAIN_ECC.CORR : Fld := ⟨0x100020, 32, 32, .ro, true, 0⟩
def Reg.CHAIN_ECC.UNCORR : Fld := ⟨0x100020, 16, 16, .ro, true, 0⟩
def Reg.CHAIN_ECC.WAY : Fld := ⟨0x100020, 12, 4, .ro, true, 0⟩
def Reg.CHAIN_ECC.SET : Fld := ⟨0x100020, 0, 12, .ro, true, 0⟩
def Reg.CHAIN_WAYMASK.MASK : Fld := ⟨0x100100, 0, 16, .rs, false, 0⟩
def Reg.MEMC_BAND_MODE.MODE : Fld := ⟨0x2000000, 0, 64, .rs, false, 0⟩
def Reg.MEMC_STATUS.SELF_REFRESH : Fld := ⟨0x2000008, 36, 1, .ro, false, 0⟩
def Reg.MEMC_STATUS.REFRESH_2X : Fld := ⟨0x2000008, 32, 4, .ro, false, 0⟩
def Reg.MEMC_STATUS.TEMP3 : Fld := ⟨0x2000008, 24, 8, .ro, false, 0⟩
def Reg.MEMC_STATUS.TEMP2 : Fld := ⟨0x2000008, 16, 8, .ro, false, 0⟩
def Reg.MEMC_STATUS.TEMP1 : Fld := ⟨0x2000008, 8, 8, .ro, false, 0⟩
def Reg.MEMC_STATUS.TEMP0 : Fld := ⟨0x2000008, 0, 8, .ro, false, 0⟩
def Reg.MEMC_ECC.CORR : Fld := ⟨0x2000010, 32, 32, .ro, true, 0⟩
def Reg.MEMC_ECC.UNCORR : Fld := ⟨0x2000010, 16, 16, .ro, true, 0⟩
def Reg.MEMC_ECC.SPARED : Fld := ⟨0x2000010, 0, 16, .ro, true, 0⟩
def Reg.MEMC_ERR_ADDR.VALID : Fld := ⟨0x2000018, 63, 1, .w1c, true, 0⟩
def Reg.MEMC_ERR_ADDR.CHANNEL : Fld := ⟨0x2000018, 56, 7, .ro, true, 0⟩
def Reg.MEMC_ERR_ADDR.BANK : Fld := ⟨0x2000018, 48, 5, .ro, true, 0⟩
def Reg.MEMC_ERR_ADDR.ADDR : Fld := ⟨0x2000018, 0, 48, .ro, true, 0⟩
def Reg.MEMC_WCB.OCC_MAX : Fld := ⟨0x2000020, 56, 8, .ro, true, 0⟩
def Reg.MEMC_WCB.FULL_WAITS : Fld := ⟨0x2000020, 32, 24, .ro, false, 0⟩
def Reg.MEMC_WCB.RMW_SECTORS : Fld := ⟨0x2000020, 0, 32, .ro, false, 0⟩
def Reg.MEMC_SC_WAYS.COUNT : Fld := ⟨0x2000028, 16, 4, .ro, true, 0⟩
def Reg.MEMC_SC_WAYS.DISABLED : Fld := ⟨0x2000028, 0, 16, .ro, true, 0⟩
def Reg.MEMC_RD_BYTES.BYTES : Fld := ⟨0x2000030, 0, 64, .ro, true, 0⟩
def Reg.MEMC_WR_BYTES.BYTES : Fld := ⟨0x2000038, 0, 64, .ro, true, 0⟩
def Reg.MEMC_SC_WAYMASK.MASK : Fld := ⟨0x2000100, 0, 16, .rs, false, 0⟩
def Reg.MEMC_BW_BUDGET.USED : Fld := ⟨0x2000200, 36, 28, .ro, false, 0⟩
def Reg.MEMC_BW_BUDGET.HIT_LAST : Fld := ⟨0x2000200, 35, 1, .ro, false, 0⟩
def Reg.MEMC_BW_BUDGET.BUDGET : Fld := ⟨0x2000200, 0, 32, .rs, false, 0⟩
def Reg.MMU_ROOT.VALID : Fld := ⟨0x2100000, 63, 1, .rs, false, 0⟩
def Reg.MMU_ROOT.ROOT : Fld := ⟨0x2100000, 12, 36, .rs, false, 0⟩
def Reg.MMU_INV_ADDR.ADDR : Fld := ⟨0x2100100, 16, 31, .rw, false, 0⟩
def Reg.MMU_INV_CMD.OP : Fld := ⟨0x2100108, 62, 2, .wo, false, 0⟩
def Reg.MMU_INV_CMD.PART : Fld := ⟨0x2100108, 56, 4, .wo, false, 0⟩
def Reg.MMU_INV_CMD.COUNT : Fld := ⟨0x2100108, 0, 32, .wo, false, 0⟩
def Reg.MMU_INV_STATUS.BUSY : Fld := ⟨0x2100110, 63, 1, .ro, false, 0⟩
def Reg.MMU_INV_STATUS.RESULT : Fld := ⟨0x2100110, 60, 3, .ro, false, 0⟩
def Reg.MMU_FAULT_INFO.VALID : Fld := ⟨0x2100200, 63, 1, .w1c, true, 0⟩
def Reg.MMU_FAULT_INFO.TYPE : Fld := ⟨0x2100200, 59, 4, .ro, true, 0⟩
def Reg.MMU_FAULT_INFO.ACCESS : Fld := ⟨0x2100200, 57, 2, .ro, true, 0⟩
def Reg.MMU_FAULT_INFO.PART : Fld := ⟨0x2100200, 53, 4, .ro, true, 0⟩
def Reg.MMU_FAULT_INFO.UNIT : Fld := ⟨0x2100200, 47, 6, .ro, true, 0⟩
def Reg.MMU_FAULT_INFO.REQ : Fld := ⟨0x2100200, 31, 16, .ro, true, 0⟩
def Reg.MMU_FAULT_DVA.TICK_LO : Fld := ⟨0x2100208, 48, 16, .ro, true, 0⟩
def Reg.MMU_FAULT_DVA.DVA : Fld := ⟨0x2100208, 0, 47, .ro, true, 0⟩
def Reg.MMU_WALK_STATS.WALKS : Fld := ⟨0x2100210, 32, 32, .ro, false, 0⟩
def Reg.MMU_WALK_STATS.PEAK : Fld := ⟨0x2100210, 0, 8, .ro, true, 0⟩
def Reg.MMU_FAULT_CNT.REMOTE : Fld := ⟨0x2100280, 32, 32, .ro, true, 0⟩
def Reg.MMU_FAULT_CNT.LOCAL : Fld := ⟨0x2100280, 0, 32, .ro, true, 0⟩
def Reg.COLL_TABLE_BASE.BASE : Fld := ⟨0x2200000, 0, 48, .rs, false, 0⟩
def Reg.COLL_TABLE_SIZE.MEMBERS : Fld := ⟨0x2200008, 24, 20, .rs, false, 0⟩
def Reg.COLL_TABLE_SIZE.DEFS : Fld := ⟨0x2200008, 0, 10, .rs, false, 0⟩
def Reg.COLL_STATUS.PEAK : Fld := ⟨0x2200010, 16, 9, .ro, true, 0⟩
def Reg.COLL_STATUS.ACTIVE : Fld := ⟨0x2200010, 0, 9, .ro, false, 0⟩
def Reg.COLL_CNT.DONE : Fld := ⟨0x2200018, 32, 32, .ro, false, 0⟩
def Reg.COLL_CNT.FAILED : Fld := ⟨0x2200018, 16, 16, .ro, false, 0⟩
def Reg.COLL_CNT.NONFINITE : Fld := ⟨0x2200018, 0, 16, .ro, false, 0⟩
def Reg.COLL_LAST_ERR.VALID : Fld := ⟨0x2200020, 63, 1, .w1c, true, 0⟩
def Reg.COLL_LAST_ERR.STATUS : Fld := ⟨0x2200020, 59, 4, .ro, true, 0⟩
def Reg.COLL_LAST_ERR.COLL_ID : Fld := ⟨0x2200020, 49, 10, .ro, true, 0⟩
def Reg.COLL_LAST_ERR.MEMBER : Fld := ⟨0x2200020, 35, 14, .ro, true, 0⟩
def Reg.COLL_LAST_ERR.TICK_LO : Fld := ⟨0x2200020, 0, 16, .ro, true, 0⟩
def Reg.COLL_BYTES.BYTES : Fld := ⟨0x2200028, 0, 64, .ro, true, 0⟩
def Reg.LINK_CFG.FW_STRICT : Fld := ⟨0x2300000, 32, 1, .rs, false, 0⟩
def Reg.LINK_CFG.ROLE : Fld := ⟨0x2300000, 30, 2, .ro, true, 0⟩
def Reg.LINK_CFG.SLOT : Fld := ⟨0x2300000, 24, 6, .rs, false, 0⟩
def Reg.LINK_CFG.PKG_ID : Fld := ⟨0x2300000, 16, 6, .ro, true, 0⟩
def Reg.LINK_CFG.SLICE : Fld := ⟨0x2300000, 0, 6, .rs, false, 0⟩
def Reg.LINK_EPOCH.NEXT : Fld := ⟨0x2300008, 48, 16, .ro, true, 0⟩
def Reg.LINK_EPOCH.GEN : Fld := ⟨0x2300008, 32, 16, .ro, false, 0⟩
def Reg.LINK_EPOCH.OWN : Fld := ⟨0x2300008, 0, 16, .ro, true, 0⟩
def Reg.LINK_STATE.LEAGUE : Fld := ⟨0x2300010, 60, 4, .ro, false, 0⟩
def Reg.LINK_STATE.EXHAUSTED : Fld := ⟨0x2300010, 59, 1, .ro, true, 0⟩
def Reg.LINK_STATE.PLAN : Fld := ⟨0x2300010, 48, 8, .ro, false, 0⟩
def Reg.LINK_STATE.PLAN_NEXT : Fld := ⟨0x2300010, 40, 8, .ro, false, 0⟩
def Reg.LINK_STATE.MISSED : Fld := ⟨0x2300010, 32, 8, .ro, false, 0⟩
def Reg.LINK_STATE.BEACON_TICK_LO : Fld := ⟨0x2300010, 0, 16, .ro, false, 0⟩
def Reg.LINK_LOST.LOST : Fld := ⟨0x2300018, 0, 64, .ro, true, 0⟩
def Reg.LINK_DROP.STALE_EPOCH : Fld := ⟨0x2300020, 48, 16, .ro, false, 0⟩
def Reg.LINK_DROP.SLICE : Fld := ⟨0x2300020, 32, 16, .ro, false, 0⟩
def Reg.LINK_DROP.SOURCE : Fld := ⟨0x2300020, 16, 16, .ro, false, 0⟩
def Reg.LINK_DROP.FENCED : Fld := ⟨0x2300020, 0, 16, .ro, false, 0⟩
def Reg.LINK_LOSS.LOST_WR : Fld := ⟨0x2300028, 32, 32, .ro, false, 0⟩
def Reg.LINK_LOSS.POISON_RD : Fld := ⟨0x2300028, 0, 32, .ro, false, 0⟩
def Reg.LINK_PORT_STATUS.STATE : Fld := ⟨0x2300100, 60, 4, .ro, false, 0⟩
def Reg.LINK_PORT_STATUS.QCAUSE : Fld := ⟨0x2300100, 56, 4, .ro, true, 0⟩
def Reg.LINK_PORT_STATUS.WIDTH : Fld := ⟨0x2300100, 54, 2, .ro, false, 0⟩
def Reg.LINK_PORT_STATUS.PEER_PLANE : Fld := ⟨0x2300100, 51, 3, .ro, false, 0⟩
def Reg.LINK_PORT_STATUS.PEER_PORT : Fld := ⟨0x2300100, 45, 6, .ro, false, 0⟩
def Reg.LINK_PORT_STATUS.PEER_MAJOR : Fld := ⟨0x2300100, 37, 8, .ro, false, 0⟩
def Reg.LINK_PORT_STATUS.MINOR_RUN : Fld := ⟨0x2300100, 29, 8, .ro, false, 0⟩
def Reg.LINK_PORT_STATUS.RTT_NS : Fld := ⟨0x2300100, 16, 13, .ro, true, 0⟩
def Reg.LINK_PORT_STATUS.RETRAINS : Fld := ⟨0x2300100, 8, 8, .ro, true, 0⟩
def Reg.LINK_PORT_PEER.SERIAL : Fld := ⟨0x2300108, 0, 64, .ro, true, 0⟩
def Reg.LINK_PORT_ERR.FEC_CORR : Fld := ⟨0x2300110, 32, 32, .ro, false, 0⟩
def Reg.LINK_PORT_ERR.REPLAYS : Fld := ⟨0x2300110, 0, 32, .ro, false, 0⟩
def Reg.LINK_ROUTE.VALID : Fld := ⟨0x2300400, 63, 1, .ro, false, 0⟩
def Reg.LINK_ROUTE.SLICE : Fld := ⟨0x2300400, 40, 6, .ro, false, 0⟩
def Reg.LINK_ROUTE.SLOT : Fld := ⟨0x2300400, 32, 6, .ro, false, 0⟩
def Reg.LINK_ROUTE.PLANES : Fld := ⟨0x2300400, 24, 8, .ro, false, 0⟩
def Reg.LINK_ROUTE.EPOCH : Fld := ⟨0x2300400, 0, 16, .ro, false, 0⟩
def Reg.SIO_CTRL.EXC_UNMATCHED : Fld := ⟨0x2400000, 17, 1, .rs, false, 0⟩
def Reg.SIO_CTRL.FLOW_COUNT : Fld := ⟨0x2400000, 0, 17, .rs, false, 0⟩
def Reg.SIO_FLOW_BASE.BASE : Fld := ⟨0x2400008, 0, 48, .rs, false, 0⟩
def Reg.SIO_STATS_BASE.BASE : Fld := ⟨0x2400010, 0, 48, .rs, false, 0⟩
def Reg.SIO_FLOW_CMD.OP : Fld := ⟨0x2400018, 61, 3, .wo, false, 0⟩
def Reg.SIO_FLOW_CMD.KEY : Fld := ⟨0x2400018, 32, 16, .wo, false, 0⟩
def Reg.SIO_FLOW_CMD.FLOW : Fld := ⟨0x2400018, 0, 16, .wo, false, 0⟩
def Reg.SIO_FLOW_STATUS.BUSY : Fld := ⟨0x2400020, 63, 1, .ro, false, 0⟩
def Reg.SIO_FLOW_STATUS.RESULT : Fld := ⟨0x2400020, 60, 3, .ro, false, 0⟩
def Reg.SIO_KEY_CMD.LOAD : Fld := ⟨0x2400028, 63, 1, .wo, false, 0⟩
def Reg.SIO_KEY_CMD.LEN : Fld := ⟨0x2400028, 32, 1, .wo, false, 0⟩
def Reg.SIO_KEY_CMD.KEY : Fld := ⟨0x2400028, 0, 16, .wo, false, 0⟩
def Reg.SIO_KEY_DATA.DATA : Fld := ⟨0x2400040, 0, 64, .wo, false, 0⟩
def Reg.SIO_DROP.FAULT : Fld := ⟨0x2400080, 56, 8, .ro, false, 0⟩
def Reg.SIO_DROP.EXC : Fld := ⟨0x2400080, 48, 8, .ro, false, 0⟩
def Reg.SIO_DROP.UNMATCHED : Fld := ⟨0x2400080, 32, 16, .ro, false, 0⟩
def Reg.SIO_DROP.IP : Fld := ⟨0x2400080, 16, 16, .ro, false, 0⟩
def Reg.SIO_DROP.MAC : Fld := ⟨0x2400080, 0, 16, .ro, false, 0⟩
def Reg.SIO_DROP2.FORMAT : Fld := ⟨0x2400088, 32, 32, .ro, false, 0⟩
def Reg.SIO_DROP2.LAST_FLOW : Fld := ⟨0x2400088, 0, 16, .ro, false, 0⟩
def Reg.SIO_PORT_STATUS.LINK : Fld := ⟨0x2400100, 63, 1, .ro, false, 0⟩
def Reg.SIO_PORT_STATUS.FEC_CORR : Fld := ⟨0x2400100, 0, 32, .ro, false, 0⟩
def Reg.SIO_PTP_STATUS.VALID : Fld := ⟨0x2400110, 63, 1, .ro, false, 0⟩
def Reg.SIO_PTP_STATUS.PORT : Fld := ⟨0x2400110, 62, 1, .ro, false, 0⟩
def Reg.SIO_PTP_STATUS.GM_LO : Fld := ⟨0x2400110, 32, 16, .ro, false, 0⟩
def Reg.SIO_PTP_STATUS.OFFSET_NS : Fld := ⟨0x2400110, 0, 32, .ro, false, 0⟩
def Reg.SIO_NVME_STATUS.STATE : Fld := ⟨0x2400200, 62, 2, .ro, false, 0⟩
def Reg.SIO_NVME_STATUS.ORPHANS : Fld := ⟨0x2400200, 32, 16, .ro, false, 0⟩
def Reg.SIO_NVME_STATUS.ABORTS : Fld := ⟨0x2400200, 16, 16, .ro, false, 0⟩
def Reg.SIO_NVME_STATUS.ERRORS : Fld := ⟨0x2400200, 0, 16, .ro, false, 0⟩
def Reg.HIF_STATUS.RATE : Fld := ⟨0x2500000, 12, 4, .ro, false, 0⟩
def Reg.HIF_STATUS.WIDTH : Fld := ⟨0x2500000, 7, 5, .ro, false, 0⟩
def Reg.HIF_STATUS.SEALED : Fld := ⟨0x2500000, 1, 1, .ro, false, 0⟩
def Reg.HIF_STATUS.IN_RESET : Fld := ⟨0x2500000, 0, 1, .ro, false, 0⟩
def Reg.HIF_HEARTBEAT.COUNT : Fld := ⟨0x2500008, 0, 64, .ro, true, 0⟩
def Reg.HIF_EVENT.RAISED : Fld := ⟨0x2500010, 0, 8, .w1c, false, 0⟩
def Reg.HIF_ATTACH.GEN : Fld := ⟨0x2500018, 48, 16, .ro, true, 0⟩
def Reg.HIF_ATTACH.STATE : Fld := ⟨0x2500018, 1, 2, .ro, false, 0⟩
def Reg.HIF_ATTACH.REQ : Fld := ⟨0x2500018, 0, 1, .w1s, false, 0⟩
def Reg.HIF_DEV_RESET.CMD : Fld := ⟨0x2500020, 0, 8, .wo, false, 0⟩
def Reg.HIF_ERR.BAR4_FAULT : Fld := ⟨0x2500028, 32, 32, .ro, false, 0⟩
def Reg.HIF_ERR.BAR0_WREJ : Fld := ⟨0x2500028, 0, 32, .ro, false, 0⟩
def Reg.HIF_RELAY_CMD.GO_BUSY : Fld := ⟨0x2500040, 63, 1, .w1s, false, 0⟩
def Reg.HIF_RELAY_CMD.RESULT : Fld := ⟨0x2500040, 60, 3, .ro, false, 0⟩
def Reg.HIF_RELAY_CMD.PKG : Fld := ⟨0x2500040, 48, 6, .rw, false, 0⟩
def Reg.HIF_RELAY_CMD.DIE : Fld := ⟨0x2500040, 32, 3, .rw, false, 0⟩
def Reg.HIF_RELAY_CMD.OFFSET : Fld := ⟨0x2500040, 0, 32, .rw, false, 0⟩
def Reg.HIF_RELAY_DATA.VALUE : Fld := ⟨0x2500048, 0, 64, .ro, false, 0⟩
def Reg.HIF_BAR4_WIN.BASE : Fld := ⟨0x2500100, 32, 15, .rw, false, 0⟩
def Reg.HIF_BAR4_WIN.EN : Fld := ⟨0x2500100, 0, 1, .rw, false, 0⟩
def Reg.HIF_Q_BIND.VALID : Fld := ⟨0x2501000, 63, 1, .rs, false, 0⟩
def Reg.HIF_Q_BIND.PART : Fld := ⟨0x2501000, 48, 4, .rs, false, 0⟩
def Reg.HIF_Q_BIND.GROUP : Fld := ⟨0x2501000, 32, 12, .rs, false, 0⟩
def Reg.HIF_Q_BIND.MAX_DEPTH : Fld := ⟨0x2501000, 0, 13, .rs, false, 0⟩
def Reg.BMC_STATUS.CAP_GIB : Fld := ⟨0x2600000, 16, 8, .ro, false, 0⟩
def Reg.BMC_STATUS.TRAINED : Fld := ⟨0x2600000, 8, 8, .ro, false, 0⟩
def Reg.BMC_STATUS.PRESENT : Fld := ⟨0x2600000, 0, 8, .ro, false, 0⟩
def Reg.BMC_MOVE_BASE.BASE : Fld := ⟨0x2600008, 0, 48, .rs, false, 0⟩
def Reg.BMC_MOVE_CNT.DONE : Fld := ⟨0x2600010, 32, 32, .ro, false, 0⟩
def Reg.BMC_MOVE_CNT.LATE : Fld := ⟨0x2600010, 16, 16, .ro, false, 0⟩
def Reg.BMC_MOVE_CNT.ABORTED : Fld := ⟨0x2600010, 8, 8, .ro, false, 0⟩
def Reg.BMC_MOVE_CNT.FAILED : Fld := ⟨0x2600010, 0, 8, .ro, false, 0⟩
def Reg.BMC_OWN_BASE.BASE : Fld := ⟨0x2600018, 0, 48, .rs, false, 0⟩
def Reg.BMC_OWN_CMD.OP : Fld := ⟨0x2600020, 62, 2, .wo, false, 0⟩
def Reg.BMC_OWN_CMD.PART : Fld := ⟨0x2600020, 56, 4, .wo, false, 0⟩
def Reg.BMC_OWN_CMD.COUNT : Fld := ⟨0x2600020, 32, 16, .wo, false, 0⟩
def Reg.BMC_OWN_CMD.PAGE : Fld := ⟨0x2600020, 0, 26, .wo, false, 0⟩
def Reg.BMC_OWN_STATUS.BUSY : Fld := ⟨0x2600028, 63, 1, .ro, false, 0⟩
def Reg.BMC_OWN_STATUS.RESULT : Fld := ⟨0x2600028, 60, 3, .ro, false, 0⟩
def Reg.BMC_OWN_STATUS.PAGE : Fld := ⟨0x2600028, 0, 26, .ro, false, 0⟩
def Reg.BMC_BW_BUDGET.USED : Fld := ⟨0x2600100, 36, 28, .ro, false, 0⟩
def Reg.BMC_BW_BUDGET.HIT_LAST : Fld := ⟨0x2600100, 35, 1, .ro, false, 0⟩
def Reg.BMC_BW_BUDGET.BUDGET : Fld := ⟨0x2600100, 0, 32, .rs, false, 0⟩
def Reg.BMC_SC_WAYMASK.MASK : Fld := ⟨0x2600180, 0, 16, .rs, false, 0⟩
def Reg.BMC_PAGES_STACKED.USED : Fld := ⟨0x2600200, 32, 32, .ro, true, 0⟩
def Reg.BMC_PAGES_STACKED.QUOTA : Fld := ⟨0x2600200, 0, 32, .rs, false, 0⟩
def Reg.BMC_PAGES_FATHOM.USED : Fld := ⟨0x2600208, 32, 32, .ro, true, 0⟩
def Reg.BMC_PAGES_FATHOM.QUOTA : Fld := ⟨0x2600208, 0, 32, .rs, false, 0⟩
def Reg.BOOT_STATE.STAGE : Fld := ⟨0x2700000, 56, 8, .ro, false, 0⟩
def Reg.BOOT_STATE.HALT : Fld := ⟨0x2700000, 48, 8, .ro, false, 0⟩
def Reg.BOOT_STATE.DETAIL : Fld := ⟨0x2700000, 32, 16, .ro, false, 0⟩
def Reg.BOOT_STATE.COPY : Fld := ⟨0x2700000, 30, 2, .ro, false, 0⟩
def Reg.BOOT_STATE.FW_COPY : Fld := ⟨0x2700000, 28, 2, .ro, false, 0⟩
def Reg.BOOT_STATE.ELAPSED_MS : Fld := ⟨0x2700000, 0, 28, .ro, false, 0⟩
def Reg.BOOT_PROGRESS.LOADED_MIB : Fld := ⟨0x2700008, 32, 32, .ro, false, 0⟩
def Reg.BOOT_PROGRESS.TOTAL_MIB : Fld := ⟨0x2700008, 0, 32, .ro, false, 0⟩
def Reg.BOOT_CHARTER.SEQ : Fld := ⟨0x2700010, 32, 32, .ro, true, 0⟩
def Reg.BOOT_CHARTER.FW_VERSION : Fld := ⟨0x2700010, 0, 32, .ro, true, 0⟩
def Reg.BOOT_OTP.FLOOR : Fld := ⟨0x2700018, 32, 32, .ro, false, 0⟩
def Reg.BOOT_OTP.FLOOR_LEFT : Fld := ⟨0x2700018, 1, 7, .ro, false, 0⟩
def Reg.BOOT_OTP.KEY_VALID : Fld := ⟨0x2700018, 0, 1, .ro, false, 0⟩
def Reg.BOOT_JOURNAL.RECORDS : Fld := ⟨0x2700020, 40, 24, .ro, false, 0⟩
def Reg.BOOT_JOURNAL.ERASED : Fld := ⟨0x2700020, 32, 8, .ro, false, 0⟩
def Reg.BOOT_JOURNAL.BAD : Fld := ⟨0x2700020, 16, 16, .ro, false, 0⟩
def Reg.BOOT_JOURNAL.RETIRED : Fld := ⟨0x2700020, 0, 16, .ro, false, 0⟩
def Reg.BOOT_FLASH_ADDR.OFFSET : Fld := ⟨0x2700028, 0, 27, .rw, false, 0⟩
def Reg.BOOT_FLASH_CMD.OP : Fld := ⟨0x2700030, 62, 2, .w1s, false, 0⟩
def Reg.BOOT_FLASH_CMD.BUSY : Fld := ⟨0x2700030, 61, 1, .ro, false, 0⟩
def Reg.BOOT_FLASH_CMD.RESULT : Fld := ⟨0x2700030, 58, 3, .ro, false, 0⟩
def Reg.BOOT_FLASH_DATA.DATA : Fld := ⟨0x2700100, 0, 64, .wo, false, 0⟩

/-- The registers of the GLB block. -/
def Reg.tableGLB : List RegDesc := [
  ⟨0x0, 1, 0x8, [Reg.GLB_DIE_ID.SERIAL, Reg.GLB_DIE_ID.REV_MAJOR, Reg.GLB_DIE_ID.REV_MINOR, Reg.GLB_DIE_ID.KIND, Reg.GLB_DIE_ID.DIE_NUM, Reg.GLB_DIE_ID.ROW, Reg.GLB_DIE_ID.COL, Reg.GLB_DIE_ID.PLACED, Reg.GLB_DIE_ID.PART], .all, false⟩,
  ⟨0x8, 1, 0x8, [Reg.GLB_EDGE_STATUS.STATE3, Reg.GLB_EDGE_STATUS.PEER3, Reg.GLB_EDGE_STATUS.RETRAIN3, Reg.GLB_EDGE_STATUS.STATE2, Reg.GLB_EDGE_STATUS.PEER2, Reg.GLB_EDGE_STATUS.RETRAIN2, Reg.GLB_EDGE_STATUS.STATE1, Reg.GLB_EDGE_STATUS.PEER1, Reg.GLB_EDGE_STATUS.RETRAIN1, Reg.GLB_EDGE_STATUS.STATE0, Reg.GLB_EDGE_STATUS.PEER0, Reg.GLB_EDGE_STATUS.RETRAIN0], .all, false⟩,
  ⟨0x10, 1, 0x8, [Reg.GLB_SEAL_STATUS.DEV_RESETS, Reg.GLB_SEAL_STATUS.REJ_COUNT, Reg.GLB_SEAL_STATUS.WRITE_REJ, Reg.GLB_SEAL_STATUS.SEALED], .all, false⟩,
  ⟨0x18, 6, 0x8, [Reg.GLB_CHARTER_DIGEST.DIGEST], .all, false⟩]

/-- The registers of the TICK block. -/
def Reg.tableTICK : List RegDesc := [
  ⟨0x10000, 1, 0x8, [Reg.TICK_PERIOD.PERIOD], .all, true⟩,
  ⟨0x10008, 1, 0x8, [Reg.TICK_CTRL.CNT_CLR, Reg.TICK_CTRL.PTP_DOMAIN, Reg.TICK_CTRL.TICK_OUT_WIDTH, Reg.TICK_CTRL.REQ_LOCK, Reg.TICK_CTRL.TICK_IN_EDGE, Reg.TICK_CTRL.SRC_ALT, Reg.TICK_CTRL.SRC_PRI], .all, true⟩,
  ⟨0x10010, 1, 0x8, [Reg.TICK_STATUS.ACTIVE_SRC, Reg.TICK_STATUS.STATE, Reg.TICK_STATUS.NO_REF, Reg.TICK_STATUS.SRC_LOST, Reg.TICK_STATUS.ALT_ACTIVE, Reg.TICK_STATUS.GAP, Reg.TICK_STATUS.DISPATCHING], .all, true⟩,
  ⟨0x10018, 1, 0x8, [Reg.TICK_COUNT.COUNT], .all, true⟩,
  ⟨0x10020, 1, 0x8, [Reg.TICK_TIME.PHASE_ERR, Reg.TICK_TIME.ELAPSED_NS], .all, false⟩,
  ⟨0x10028, 1, 0x8, [Reg.TICK_SCHED.PATTERN_CUR, Reg.TICK_SCHED.PATTERN_COUNT, Reg.TICK_SCHED.FLOOR_OPP, Reg.TICK_SCHED.SPAN_COUNT], .all, false⟩,
  ⟨0x10030, 1, 0x8, [Reg.TICK_SCHED_BASE.BASE], .all, false⟩,
  ⟨0x10038, 1, 0x8, [Reg.TICK_SHED_CNT.SUSPENDS, Reg.TICK_SHED_CNT.SHEDS], .all, false⟩,
  ⟨0x10040, 1, 0x8, [Reg.TICK_OVERRUN_CNT.LATE, Reg.TICK_OVERRUN_CNT.DISPLACED, Reg.TICK_OVERRUN_CNT.SRC_MISS, Reg.TICK_OVERRUN_CNT.STATUS_LOST], .all, false⟩,
  ⟨0x10048, 1, 0x8, [Reg.TICK_IRQ.SRC_EN, Reg.TICK_IRQ.DISPLACED_EN, Reg.TICK_IRQ.LATE_EN, Reg.TICK_IRQ.SHED_EN], .all, false⟩,
  ⟨0x10050, 1, 0x8, [Reg.TICK_LAST_SHED.SPAN_ID, Reg.TICK_LAST_SHED.OUTCOME, Reg.TICK_LAST_SHED.PERCH, Reg.TICK_LAST_SHED.TICK_LO], .all, false⟩]

/-- The registers of the PWR block. -/
def Reg.tablePWR : List RegDesc := [
  ⟨0x20000, 1, 0x8, [Reg.PWR_CTRL.GATE_US, Reg.PWR_CTRL.CAP_W, Reg.PWR_CTRL.STEWARD_MHZ, Reg.PWR_CTRL.KEEPER_Q, Reg.PWR_CTRL.POLICY, Reg.PWR_CTRL.OPP_MAX, Reg.PWR_CTRL.OPP_MIN], .all, true⟩,
  ⟨0x20008, 1, 0x8, [Reg.PWR_STATUS.POWER_W, Reg.PWR_STATUS.LIMITER, Reg.PWR_STATUS.CAP_UNMET, Reg.PWR_STATUS.CEIL_THERM, Reg.PWR_STATUS.CAP_CHOICE, Reg.PWR_STATUS.OPP_NEXT, Reg.PWR_STATUS.OPP_CUR], .s0, false⟩,
  ⟨0x20010, 1, 0x8, [Reg.PWR_TEMP.DIE_MAX, Reg.PWR_TEMP.EFF3, Reg.PWR_TEMP.EFF2, Reg.PWR_TEMP.EFF1, Reg.PWR_TEMP.EFF0], .all, false⟩,
  ⟨0x20018, 1, 0x8, [Reg.PWR_THERM.CAPPED_TICKS, Reg.PWR_THERM.TRIP_CAUSE, Reg.PWR_THERM.CEIL, Reg.PWR_THERM.STEWARD_HALF, Reg.PWR_THERM.STACK_HOT], .all, false⟩,
  ⟨0x20020, 1, 0x8, [Reg.PWR_VTABLE.VCODE], .all, false⟩,
  ⟨0x20028, 1, 0x8, [Reg.PWR_IDLE.IDLE_W], .all, false⟩,
  ⟨0x20030, 1, 0x8, [Reg.PWR_ENERGY_PKG.UJ], .s0, false⟩,
  ⟨0x20038, 1, 0x8, [Reg.PWR_ENERGY_UNATTR.UJ], .s0, false⟩,
  ⟨0x20040, 1, 0x8, [Reg.PWR_RAIL.RAIL_W], .all, false⟩,
  ⟨0x20048, 1, 0x8, [Reg.PWR_AVS.LATE, Reg.PWR_AVS.FAULTS, Reg.PWR_AVS.SETTLED, Reg.PWR_AVS.VCODE], .all, false⟩,
  ⟨0x20100, 16, 0x8, [Reg.PWR_PART_ENERGY.UJ], .s0, false⟩,
  ⟨0x21000, 2040, 0x8, [Reg.PWR_Q_ENERGY.UJ], .s0, false⟩]

/-- The registers of the RAS block. -/
def Reg.tableRAS : List RegDesc := [
  ⟨0x30000, 1, 0x8, [Reg.RAS_ERR.CLASS], .all, false⟩,
  ⟨0x30008, 1, 0x8, [Reg.RAS_ACC_INFO.VALID, Reg.RAS_ACC_INFO.KIND, Reg.RAS_ACC_INFO.PART, Reg.RAS_ACC_INFO.UNIT, Reg.RAS_ACC_INFO.REQ, Reg.RAS_ACC_INFO.TICK_LO], .all, false⟩,
  ⟨0x30010, 1, 0x8, [Reg.RAS_ACC_ADDR.ADDR], .all, false⟩,
  ⟨0x30018, 1, 0x8, [Reg.RAS_LOST_ADDR.VALID, Reg.RAS_LOST_ADDR.HART, Reg.RAS_LOST_ADDR.ADDR], .steward, false⟩,
  ⟨0x30020, 1, 0x8, [Reg.RAS_SCRUB.PASSES, Reg.RAS_SCRUB.RETIRE_PEND, Reg.RAS_SCRUB.PROGRESS], .all, false⟩,
  ⟨0x30028, 1, 0x8, [Reg.RAS_FATHOM_ECC.CORR, Reg.RAS_FATHOM_ECC.UNCORR, Reg.RAS_FATHOM_ECC.RETIRED], .steward, false⟩,
  ⟨0x30108, 1, 0x8, [Reg.RAS_PKG.DIE_FAILED, Reg.RAS_PKG.PLAN, Reg.RAS_PKG.HALTED, Reg.RAS_PKG.HALT_CAUSE, Reg.RAS_PKG.FAIL_TICK_LO], .s0, false⟩,
  ⟨0x30110, 1, 0x8, [Reg.RAS_RESET.CAUSE, Reg.RAS_RESET.LAST_MS, Reg.RAS_RESET.START_TICK], .s0, false⟩,
  ⟨0x30118, 1, 0x8, [Reg.RAS_LOG_BASE.BASE], .s0, false⟩,
  ⟨0x30120, 1, 0x8, [Reg.RAS_LOG_PTR.DROPPED, Reg.RAS_LOG_PTR.PROD, Reg.RAS_LOG_PTR.CONS], .s0, false⟩,
  ⟨0x30128, 1, 0x8, [Reg.RAS_DUMP_BASE.BASE], .s0, false⟩,
  ⟨0x30130, 1, 0x8, [Reg.RAS_DUMP_STATUS.VALID, Reg.RAS_DUMP_STATUS.BUSY, Reg.RAS_DUMP_STATUS.TRIGGER, Reg.RAS_DUMP_STATUS.NO_RESPONSE, Reg.RAS_DUMP_STATUS.ELAPSED_US, Reg.RAS_DUMP_STATUS.TAKE], .s0, false⟩,
  ⟨0x30138, 1, 0x8, [Reg.RAS_DUMP_READ.READY, Reg.RAS_DUMP_READ.CHUNKS, Reg.RAS_DUMP_READ.CHUNK], .s0, false⟩]

/-- The registers of the CHAIN block. -/
def Reg.tableCHAIN : List RegDesc := [
  ⟨0x100000, 1, 0x8, [Reg.CHAIN_CTRL.PF_EN, Reg.CHAIN_CTRL.EN], .compute, false⟩,
  ⟨0x100008, 1, 0x8, [Reg.CHAIN_WAYS.COUNT, Reg.CHAIN_WAYS.DISABLED], .compute, false⟩,
  ⟨0x100010, 1, 0x8, [Reg.CHAIN_HITS.MISSES, Reg.CHAIN_HITS.HITS], .compute, false⟩,
  ⟨0x100018, 1, 0x8, [Reg.CHAIN_PF.ISSUED, Reg.CHAIN_PF.USED], .compute, false⟩,
  ⟨0x100020, 1, 0x8, [Reg.CHAIN_ECC.CORR, Reg.CHAIN_ECC.UNCORR, Reg.CHAIN_ECC.WAY, Reg.CHAIN_ECC.SET], .compute, false⟩,
  ⟨0x100100, 16, 0x8, [Reg.CHAIN_WAYMASK.MASK], .compute, false⟩]

/-- The registers of the MEMC block. -/
def Reg.tableMEMC : List RegDesc := [
  ⟨0x2000000, 1, 0x8, [Reg.MEMC_BAND_MODE.MODE], .compute, false⟩,
  ⟨0x2000008, 1, 0x8, [Reg.MEMC_STATUS.SELF_REFRESH, Reg.MEMC_STATUS.REFRESH_2X, Reg.MEMC_STATUS.TEMP3, Reg.MEMC_STATUS.TEMP2, Reg.MEMC_STATUS.TEMP1, Reg.MEMC_STATUS.TEMP0], .compute, false⟩,
  ⟨0x2000010, 1, 0x8, [Reg.MEMC_ECC.CORR, Reg.MEMC_ECC.UNCORR, Reg.MEMC_ECC.SPARED], .compute, false⟩,
  ⟨0x2000018, 1, 0x8, [Reg.MEMC_ERR_ADDR.VALID, Reg.MEMC_ERR_ADDR.CHANNEL, Reg.MEMC_ERR_ADDR.BANK, Reg.MEMC_ERR_ADDR.ADDR], .compute, false⟩,
  ⟨0x2000020, 1, 0x8, [Reg.MEMC_WCB.OCC_MAX, Reg.MEMC_WCB.FULL_WAITS, Reg.MEMC_WCB.RMW_SECTORS], .compute, false⟩,
  ⟨0x2000028, 1, 0x8, [Reg.MEMC_SC_WAYS.COUNT, Reg.MEMC_SC_WAYS.DISABLED], .compute, false⟩,
  ⟨0x2000030, 1, 0x8, [Reg.MEMC_RD_BYTES.BYTES], .compute, false⟩,
  ⟨0x2000038, 1, 0x8, [Reg.MEMC_WR_BYTES.BYTES], .compute, false⟩,
  ⟨0x2000100, 16, 0x8, [Reg.MEMC_SC_WAYMASK.MASK], .compute, false⟩,
  ⟨0x2000200, 16, 0x8, [Reg.MEMC_BW_BUDGET.USED, Reg.MEMC_BW_BUDGET.HIT_LAST, Reg.MEMC_BW_BUDGET.BUDGET], .compute, false⟩]

/-- The registers of the MMU block. -/
def Reg.tableMMU : List RegDesc := [
  ⟨0x2100000, 16, 0x8, [Reg.MMU_ROOT.VALID, Reg.MMU_ROOT.ROOT], .all, false⟩,
  ⟨0x2100100, 1, 0x8, [Reg.MMU_INV_ADDR.ADDR], .s0, false⟩,
  ⟨0x2100108, 1, 0x8, [Reg.MMU_INV_CMD.OP, Reg.MMU_INV_CMD.PART, Reg.MMU_INV_CMD.COUNT], .s0, false⟩,
  ⟨0x2100110, 1, 0x8, [Reg.MMU_INV_STATUS.BUSY, Reg.MMU_INV_STATUS.RESULT], .s0, false⟩,
  ⟨0x2100200, 1, 0x8, [Reg.MMU_FAULT_INFO.VALID, Reg.MMU_FAULT_INFO.TYPE, Reg.MMU_FAULT_INFO.ACCESS, Reg.MMU_FAULT_INFO.PART, Reg.MMU_FAULT_INFO.UNIT, Reg.MMU_FAULT_INFO.REQ], .all, false⟩,
  ⟨0x2100208, 1, 0x8, [Reg.MMU_FAULT_DVA.TICK_LO, Reg.MMU_FAULT_DVA.DVA], .all, false⟩,
  ⟨0x2100210, 1, 0x8, [Reg.MMU_WALK_STATS.WALKS, Reg.MMU_WALK_STATS.PEAK], .all, false⟩,
  ⟨0x2100280, 16, 0x8, [Reg.MMU_FAULT_CNT.REMOTE, Reg.MMU_FAULT_CNT.LOCAL], .all, false⟩]

/-- The registers of the COLL block. -/
def Reg.tableCOLL : List RegDesc := [
  ⟨0x2200000, 1, 0x8, [Reg.COLL_TABLE_BASE.BASE], .coll, false⟩,
  ⟨0x2200008, 1, 0x8, [Reg.COLL_TABLE_SIZE.MEMBERS, Reg.COLL_TABLE_SIZE.DEFS], .coll, false⟩,
  ⟨0x2200010, 1, 0x8, [Reg.COLL_STATUS.PEAK, Reg.COLL_STATUS.ACTIVE], .coll, false⟩,
  ⟨0x2200018, 1, 0x8, [Reg.COLL_CNT.DONE, Reg.COLL_CNT.FAILED, Reg.COLL_CNT.NONFINITE], .coll, false⟩,
  ⟨0x2200020, 1, 0x8, [Reg.COLL_LAST_ERR.VALID, Reg.COLL_LAST_ERR.STATUS, Reg.COLL_LAST_ERR.COLL_ID, Reg.COLL_LAST_ERR.MEMBER, Reg.COLL_LAST_ERR.TICK_LO], .coll, false⟩,
  ⟨0x2200028, 1, 0x8, [Reg.COLL_BYTES.BYTES], .coll, false⟩]

/-- The registers of the LINK block. -/
def Reg.tableLINK : List RegDesc := [
  ⟨0x2300000, 1, 0x8, [Reg.LINK_CFG.FW_STRICT, Reg.LINK_CFG.ROLE, Reg.LINK_CFG.SLOT, Reg.LINK_CFG.PKG_ID, Reg.LINK_CFG.SLICE], .steward, true⟩,
  ⟨0x2300008, 1, 0x8, [Reg.LINK_EPOCH.NEXT, Reg.LINK_EPOCH.GEN, Reg.LINK_EPOCH.OWN], .steward, true⟩,
  ⟨0x2300010, 1, 0x8, [Reg.LINK_STATE.LEAGUE, Reg.LINK_STATE.EXHAUSTED, Reg.LINK_STATE.PLAN, Reg.LINK_STATE.PLAN_NEXT, Reg.LINK_STATE.MISSED, Reg.LINK_STATE.BEACON_TICK_LO], .steward, true⟩,
  ⟨0x2300018, 1, 0x8, [Reg.LINK_LOST.LOST], .steward, true⟩,
  ⟨0x2300020, 1, 0x8, [Reg.LINK_DROP.STALE_EPOCH, Reg.LINK_DROP.SLICE, Reg.LINK_DROP.SOURCE, Reg.LINK_DROP.FENCED], .steward, false⟩,
  ⟨0x2300028, 1, 0x8, [Reg.LINK_LOSS.LOST_WR, Reg.LINK_LOSS.POISON_RD], .steward, false⟩,
  ⟨0x2300100, 4, 0x20, [Reg.LINK_PORT_STATUS.STATE, Reg.LINK_PORT_STATUS.QCAUSE, Reg.LINK_PORT_STATUS.WIDTH, Reg.LINK_PORT_STATUS.PEER_PLANE, Reg.LINK_PORT_STATUS.PEER_PORT, Reg.LINK_PORT_STATUS.PEER_MAJOR, Reg.LINK_PORT_STATUS.MINOR_RUN, Reg.LINK_PORT_STATUS.RTT_NS, Reg.LINK_PORT_STATUS.RETRAINS], .steward, false⟩,
  ⟨0x2300108, 4, 0x20, [Reg.LINK_PORT_PEER.SERIAL], .steward, false⟩,
  ⟨0x2300110, 4, 0x20, [Reg.LINK_PORT_ERR.FEC_CORR, Reg.LINK_PORT_ERR.REPLAYS], .steward, false⟩,
  ⟨0x2300400, 64, 0x8, [Reg.LINK_ROUTE.VALID, Reg.LINK_ROUTE.SLICE, Reg.LINK_ROUTE.SLOT, Reg.LINK_ROUTE.PLANES, Reg.LINK_ROUTE.EPOCH], .steward, true⟩]

/-- The registers of the SIO block. -/
def Reg.tableSIO : List RegDesc := [
  ⟨0x2400000, 1, 0x8, [Reg.SIO_CTRL.EXC_UNMATCHED, Reg.SIO_CTRL.FLOW_COUNT], .sio, false⟩,
  ⟨0x2400008, 1, 0x8, [Reg.SIO_FLOW_BASE.BASE], .sio, false⟩,
  ⟨0x2400010, 1, 0x8, [Reg.SIO_STATS_BASE.BASE], .sio, false⟩,
  ⟨0x2400018, 1, 0x8, [Reg.SIO_FLOW_CMD.OP, Reg.SIO_FLOW_CMD.KEY, Reg.SIO_FLOW_CMD.FLOW], .sio, false⟩,
  ⟨0x2400020, 1, 0x8, [Reg.SIO_FLOW_STATUS.BUSY, Reg.SIO_FLOW_STATUS.RESULT], .sio, false⟩,
  ⟨0x2400028, 1, 0x8, [Reg.SIO_KEY_CMD.LOAD, Reg.SIO_KEY_CMD.LEN, Reg.SIO_KEY_CMD.KEY], .sio, false⟩,
  ⟨0x2400040, 6, 0x8, [Reg.SIO_KEY_DATA.DATA], .sio, false⟩,
  ⟨0x2400080, 1, 0x8, [Reg.SIO_DROP.FAULT, Reg.SIO_DROP.EXC, Reg.SIO_DROP.UNMATCHED, Reg.SIO_DROP.IP, Reg.SIO_DROP.MAC], .sio, false⟩,
  ⟨0x2400088, 1, 0x8, [Reg.SIO_DROP2.FORMAT, Reg.SIO_DROP2.LAST_FLOW], .sio, false⟩,
  ⟨0x2400100, 2, 0x8, [Reg.SIO_PORT_STATUS.LINK, Reg.SIO_PORT_STATUS.FEC_CORR], .sio, false⟩,
  ⟨0x2400110, 1, 0x8, [Reg.SIO_PTP_STATUS.VALID, Reg.SIO_PTP_STATUS.PORT, Reg.SIO_PTP_STATUS.GM_LO, Reg.SIO_PTP_STATUS.OFFSET_NS], .sio, false⟩,
  ⟨0x2400200, 8, 0x8, [Reg.SIO_NVME_STATUS.STATE, Reg.SIO_NVME_STATUS.ORPHANS, Reg.SIO_NVME_STATUS.ABORTS, Reg.SIO_NVME_STATUS.ERRORS], .sio, false⟩]

/-- The registers of the HIF block. -/
def Reg.tableHIF : List RegDesc := [
  ⟨0x2500000, 1, 0x8, [Reg.HIF_STATUS.RATE, Reg.HIF_STATUS.WIDTH, Reg.HIF_STATUS.SEALED, Reg.HIF_STATUS.IN_RESET], .s0, false⟩,
  ⟨0x2500008, 1, 0x8, [Reg.HIF_HEARTBEAT.COUNT], .s0, false⟩,
  ⟨0x2500010, 1, 0x8, [Reg.HIF_EVENT.RAISED], .s0, false⟩,
  ⟨0x2500018, 1, 0x8, [Reg.HIF_ATTACH.GEN, Reg.HIF_ATTACH.STATE, Reg.HIF_ATTACH.REQ], .s0, false⟩,
  ⟨0x2500020, 1, 0x8, [Reg.HIF_DEV_RESET.CMD], .s0, false⟩,
  ⟨0x2500028, 1, 0x8, [Reg.HIF_ERR.BAR4_FAULT, Reg.HIF_ERR.BAR0_WREJ], .s0, false⟩,
  ⟨0x2500040, 1, 0x8, [Reg.HIF_RELAY_CMD.GO_BUSY, Reg.HIF_RELAY_CMD.RESULT, Reg.HIF_RELAY_CMD.PKG, Reg.HIF_RELAY_CMD.DIE, Reg.HIF_RELAY_CMD.OFFSET], .s0, false⟩,
  ⟨0x2500048, 1, 0x8, [Reg.HIF_RELAY_DATA.VALUE], .s0, false⟩,
  ⟨0x2500100, 16, 0x8, [Reg.HIF_BAR4_WIN.BASE, Reg.HIF_BAR4_WIN.EN], .s0, false⟩,
  ⟨0x2501000, 2040, 0x8, [Reg.HIF_Q_BIND.VALID, Reg.HIF_Q_BIND.PART, Reg.HIF_Q_BIND.GROUP, Reg.HIF_Q_BIND.MAX_DEPTH], .s0, false⟩]

/-- The registers of the BMC block. -/
def Reg.tableBMC : List RegDesc := [
  ⟨0x2600000, 1, 0x8, [Reg.BMC_STATUS.CAP_GIB, Reg.BMC_STATUS.TRAINED, Reg.BMC_STATUS.PRESENT], .steward, false⟩,
  ⟨0x2600008, 1, 0x8, [Reg.BMC_MOVE_BASE.BASE], .steward, false⟩,
  ⟨0x2600010, 1, 0x8, [Reg.BMC_MOVE_CNT.DONE, Reg.BMC_MOVE_CNT.LATE, Reg.BMC_MOVE_CNT.ABORTED, Reg.BMC_MOVE_CNT.FAILED], .steward, false⟩,
  ⟨0x2600018, 1, 0x8, [Reg.BMC_OWN_BASE.BASE], .s0, false⟩,
  ⟨0x2600020, 1, 0x8, [Reg.BMC_OWN_CMD.OP, Reg.BMC_OWN_CMD.PART, Reg.BMC_OWN_CMD.COUNT, Reg.BMC_OWN_CMD.PAGE], .s0, false⟩,
  ⟨0x2600028, 1, 0x8, [Reg.BMC_OWN_STATUS.BUSY, Reg.BMC_OWN_STATUS.RESULT, Reg.BMC_OWN_STATUS.PAGE], .s0, false⟩,
  ⟨0x2600100, 16, 0x8, [Reg.BMC_BW_BUDGET.USED, Reg.BMC_BW_BUDGET.HIT_LAST, Reg.BMC_BW_BUDGET.BUDGET], .steward, false⟩,
  ⟨0x2600180, 16, 0x8, [Reg.BMC_SC_WAYMASK.MASK], .steward, false⟩,
  ⟨0x2600200, 16, 0x10, [Reg.BMC_PAGES_STACKED.USED, Reg.BMC_PAGES_STACKED.QUOTA], .s0, false⟩,
  ⟨0x2600208, 16, 0x10, [Reg.BMC_PAGES_FATHOM.USED, Reg.BMC_PAGES_FATHOM.QUOTA], .s0, false⟩]

/-- The registers of the BOOT block. -/
def Reg.tableBOOT : List RegDesc := [
  ⟨0x2700000, 1, 0x8, [Reg.BOOT_STATE.STAGE, Reg.BOOT_STATE.HALT, Reg.BOOT_STATE.DETAIL, Reg.BOOT_STATE.COPY, Reg.BOOT_STATE.FW_COPY, Reg.BOOT_STATE.ELAPSED_MS], .s0, false⟩,
  ⟨0x2700008, 1, 0x8, [Reg.BOOT_PROGRESS.LOADED_MIB, Reg.BOOT_PROGRESS.TOTAL_MIB], .s0, false⟩,
  ⟨0x2700010, 1, 0x8, [Reg.BOOT_CHARTER.SEQ, Reg.BOOT_CHARTER.FW_VERSION], .s0, false⟩,
  ⟨0x2700018, 1, 0x8, [Reg.BOOT_OTP.FLOOR, Reg.BOOT_OTP.FLOOR_LEFT, Reg.BOOT_OTP.KEY_VALID], .s0, false⟩,
  ⟨0x2700020, 1, 0x8, [Reg.BOOT_JOURNAL.RECORDS, Reg.BOOT_JOURNAL.ERASED, Reg.BOOT_JOURNAL.BAD, Reg.BOOT_JOURNAL.RETIRED], .s0, false⟩,
  ⟨0x2700028, 1, 0x8, [Reg.BOOT_FLASH_ADDR.OFFSET], .s0, false⟩,
  ⟨0x2700030, 1, 0x8, [Reg.BOOT_FLASH_CMD.OP, Reg.BOOT_FLASH_CMD.BUSY, Reg.BOOT_FLASH_CMD.RESULT], .s0, false⟩,
  ⟨0x2700100, 32, 0x8, [Reg.BOOT_FLASH_DATA.DATA], .s0, false⟩]

/-- Every register of the map but the PERCH blocks, which show the perch itself, and RAS_PKG_ERR, which is computed. -/
def Reg.table : List RegDesc :=
  Reg.tableGLB ++ Reg.tableTICK ++ Reg.tablePWR ++ Reg.tableRAS ++ Reg.tableCHAIN ++ Reg.tableMEMC ++ Reg.tableMMU ++ Reg.tableCOLL ++ Reg.tableLINK ++ Reg.tableSIO ++ Reg.tableHIF ++ Reg.tableBMC ++ Reg.tableBOOT

end Sys2Proof.Machine
end

