-- ==== Sys2Proof/Machine/SioState.lean ====
section
/-! DEFINITION. The state of the stream I/O engine (12 of the spec): flows, open slots, egress slots under way, keys, the exception ring, PTP. -/

namespace Sys2Proof.Machine

/-- A slot of an RTP_IN flow by its media tick: cells placed and placed late (R438, R441). -/
structure SioSlot where
  tick : Nat := 0
  present : Nat := 0
  late : Nat := 0
  /-- EXPECTED, fixed at the closing boundary (R441). -/
  expected : Nat := 0
  deriving DecidableEq, Repr

/-- A text block sent, with its RTP timestamp and the tick it was sent in (R445). -/
structure TextBlock where
  ts : Nat := 0
  tick : Nat := 0
  text : List Byte := []
  deriving DecidableEq, Repr

/-- An egress slot under way in a tick (R444): cells not yet sent with their release times, and cells sent. `none` for a cell is the packet with an empty
primary of R445. -/
structure EgressJob where
  tick : Nat := 0
  cells : List (Option Nat × Nat) := []
  sent : Nat := 0
  deriving DecidableEq, Repr

/-- A flow (R433 to R446). -/
structure Flow where
  /-- It matches or sends; the tick at whose boundary it began, and the one at whose boundary it ended. -/
  on : Bool := false
  since : Nat := 0
  until_ : Option Nat := .none
  /-- The session fields in force, with the structural fields. -/
  entry : FlowEntry := {}
  /-- An ENABLE, DISABLE or REANCHOR waits for the next boundary; the entry it will run with. -/
  turnOn : Option FlowEntry := .none
  turnOff : Bool := false
  reanchor : Bool := false
  /-- It counts as enabled for the key check (R435). -/
  counted : Bool := false
  /-- ANCHOR_TICK and ANCHOR_TS (R437). -/
  anchor : Option (Nat × Nat) := .none
  key : Nat := 0
  pendingKey : Option Nat := .none
  /-- Rollover counter, highest sequence number, and the replay window below the highest index (R431, R446). -/
  roc : Nat := 0
  top : Option Nat := .none
  window : Nat := 0
  slots : List SioSlot := []
  /-- Media ticks whose slots have reached their closing boundary and wait for their header. -/
  closing : List SioSlot := []
  /-- Events not yet added to the statistics record (R442). -/
  stats : KMap Nat := []
  /-- Egress: next sequence number, the slot under way, blocks kept for redundancy. -/
  seq : Nat := 0
  job : Option EgressJob := .none
  texts : List TextBlock := []
  deriving DecidableEq, Repr

/-- A key-table entry (R446); a cleared one holds a 16-byte key of zeros (assumption 60). -/
structure SrtpKey where
  key : List Byte := List.replicate 16 0
  salt : List Byte := List.replicate 12 0
  deriving DecidableEq, Repr

/-- The data set of an Announce message (R447): the values that the best-master comparison uses, in its order. -/
structure PtpMaster where
  rank : Nat := 0
  identity : Nat := 0
  port : Nat := 0
  deriving DecidableEq, Repr

/-- The engine. -/
structure Sio where
  flows : KMap Flow := []
  keys : KMap SrtpKey := []
  /-- The exception ring: frames with their ports (R432), and frames accepted in this tick. -/
  ring : List (Nat × List Byte) := []
  accepted : Nat := 0
  /-- The grandmaster announced on each port, the one chosen, and whether it changed in this tick (R447). -/
  masters : KMap (Option PtpMaster) := []
  chosen : Option PtpMaster := .none
  changed : Bool := false
  deriving DecidableEq, Repr

end Sys2Proof.Machine
end

