-- ==== Sys2Proof/Machine/State.lean ====
section
/-! DEFINITION. The state of the block as plain data, its faults and refusals, and the state after reset. -/

namespace Sys2Proof.Machine

/-- Everything that keeps its value without power: fuses, one-time-programmable words and the boot flash. -/
structure NonVol where
  /-- The boot flash: an erased byte reads 0xFF; its size (R537). -/
  flash : KMap Byte := []
  flashSize : Nat := 2 ^ 27
  /-- SHA-384 of the charter key; none where no key hash is programmed (R543, R570). -/
  keyHash : Option (List Byte) := .none
  /-- Rollback words written, oldest first (R543). -/
  rollback : List Nat := []
  /-- Package serial in S0's OTP (R546), and the part fuse: 0 EU-SH8-384, 1 EU-SH4-192 (R34). -/
  serial : Nat := 0
  part : Nat := 0
  /-- Per die: the fuses of GLB_DIE_ID[63:24], which are SERIAL, REV_MAJOR and REV_MINOR (R34). -/
  dieFuse : KMap Nat := []
  /-- Per die: PWR_VTABLE and PWR_IDLE (R593, R594). -/
  vtable : KMap Nat := []
  idleW : KMap Nat := []
  /-- Cold starts so far (R540). -/
  coldCount : Nat := 0
  deriving DecidableEq, Repr

/-- Everything of the block but the queue of waiting commands. -/
structure Dev where
  nv : NonVol := {}
  /-- Power is good and the clocks run (R536, R582, R644). -/
  on : Bool := false
  /-- Counts the free values taken so far (assumption 2). -/
  seed : Nat := 0
  /-- Outputs made, oldest first (assumption 4). -/
  out : List Out := []
  /-- Register fields by die, offset and bit: cleared by device reset, and kept over it (R12). Values are held exclusive-or reset value. -/
  regs : KMap Nat := []
  regsSt : KMap Nat := []
  charter : Charter := {}
  mem : KMap Byte := []
  poison : KMap Nat := []
  spadPoison : KMap Nat := []
  owner : KMap Byte := []
  /-- Errors that stand in DRAM and that no read has met: 1 one that the ECC corrects, 2 another, by sector (in the fathom tier by the first sector of the 64 B
  transfer) (R204, R598). -/
  flaws : KMap Nat := []
  /-- Detections in DRAM whose counts are due: address, and whether the error is uncorrectable (R204, R606). -/
  findings : List (Nat × Bool) := []
  /-- The system caches of the dies (R209, R212); those of the steward dies hold tags alone. -/
  sysCache : KMap Cache := []
  /-- The tags of the cores' caches, by hart × 4: L1 instruction, L1 data, L2 (R470). -/
  coreCache : KMap Cache := []
  chains : KMap ChainCache := []
  wcb : List WcbEntry := []
  stew : KMap StewardLine := []
  charge : KMap Nat := []
  held : List Held := []
  /-- Requests of other packages that a home holds (R264, R310): die and plane that they came by. -/
  peerHeld : List (Nat × Nat × Packet) := []
  tlb : List TlbEntry := []
  walks : List WalkEntry := []
  /-- The pseudo-LRU trees of the TLBs and of the walk caches, by MMU and set (R334). -/
  tlbTree : KMap Nat := []
  walkTree : KMap Nat := []
  perches : KMap Perch := []
  spadErr : KMap SpadErr := []
  spans : KMap SpanInfo := []
  conts : KMap Cont := []
  /-- ns since the boundary (R72); the dies mark it together (R44). -/
  elapsed : Nat := 0
  /-- ns from cold start to that boundary: with `elapsed` it gives the time CSR (R463). -/
  timeNs : Nat := 0
  /-- Local physical address of each kernel's image (R332, R551). -/
  kernelPa : KMap Nat := []
  /-- Run groups by CONT_ID (R493, R503). -/
  runs : KMap RunGroup := []
  /-- The tick + 1 in which a perch last started a span, by perch × 65536 + span. -/
  spanStarts : KMap Nat := []
  /-- Lateness already counted: perch with the tick + 1 of its last late start (R57). -/
  lateIn : KMap Nat := []
  /-- Conditions of this tick for the tick-overrun event (R67). -/
  overrunDue : Bool := false
  /-- Error classes that became set in this tick, by die (R610), and whether the health event is due (R611). -/
  errNew : KMap Nat := []
  healthDue : Bool := false
  /-- Rows with corrected errors by die × 128 + channel, latest last: row key and distinct sectors (R603). -/
  rowTrack : KMap (List (Nat × List Nat)) := []
  /-- Remaps made of a row, and spares used in a bank (R604, R607). -/
  rowMaps : KMap Nat := []
  bankSpares : KMap Nat := []
  /-- Pages owned by a partition that retire when they are released (R605). -/
  pagePend : List Nat := []
  /-- Pages that retire at the next cold start: device pages, and owned ones that found the pending list full (R605). -/
  pageLate : List Nat := []
  /-- Corrected 64 B transfers by fathom page (R606). -/
  fathomCorr : KMap (List Nat) := []
  /-- Sectors scrubbed in the present pass, by die (R601). -/
  scrub : KMap Nat := []
  harts : KMap Hart := []
  invCmd : Option SlowCmd := .none
  ownCmd : Option SlowCmd := .none
  /-- Move-list entries of this tick by die × 65536 + position (R251). -/
  moves : KMap MoveRun := []
  nvme : KMap NvmePort := []
  /-- Packages toward which no plane was left at some time of this tick (R376). -/
  noPlane : List Nat := []
  /-- Definitions of collectives by COLL_ID (R359). -/
  colls : KMap CollDefState := []
  hif : Hif := {}
  league : League := {}
  sio : Sio := {}
  gen : TickGen := {}
  power : Power := {}
  boot : Boot := {}
  /-- Event vectors raised and not acknowledged on the sideband (R652). -/
  alerts : Nat := 0
  /-- Accesses to other packages not yet answered, and the next tag (R398). -/
  remote : List RemoteOp := []
  nextTag : Nat := 0
  deriving DecidableEq, Repr

/-- The block. -/
structure State where
  pending : List Instr := []
  dev : Dev := {}
  deriving DecidableEq, Repr

/-- The block stops on no command: every command the spec gives has an effect in every state (assumption 1). -/
inductive Fault where
  /-- Raised by no meaning; kept so that the outcome type is inhabited. Safe. -/
  | none
  deriving DecidableEq, Repr

/-- Refusals. -/
inductive Refusal where
  /-- Answered by an arm of exec whose command has no meaning yet. Safe. -/
  | notModelled (mnemonic : String)
  deriving DecidableEq, Repr

/-- The block before power: PWR_GOOD low, every field at its reset value (R12, R535). -/
def State.reset : State := {}

end Sys2Proof.Machine
end

