-- ==== Sys2Proof/Machine/Ops.lean ====
section
/-! DEFINITION. The named operations over the registers of the control space, the free values, the outputs and the error flags. -/

namespace Sys2Proof.Machine

/-- Continues with a changed device; without power or clocks nothing acts (R582, R644). -/
def State.onDev (s : State) (f : Dev → Dev) : Host.Outcome State Fault Refusal := .next { s with dev := if s.dev.on then f s.dev else s.dev }

/-- Continues with a changed device, whether the clocks run or not. -/
def State.onPower (s : State) (f : Dev → Dev) : Host.Outcome State Fault Refusal := .next { s with dev := f s.dev }

/-- Adds an output. -/
def Dev.emit (d : Dev) (o : Out) : Dev := { d with out := d.out ++ [o] }

/-- The key of a register field: die, offset and lowest bit. -/
def regKey (die : Nat) (f : Fld) : Nat := die * 2 ^ 40 + f.off * 64 + f.lo

/-- Reads a register field of a die. -/
def Dev.rd (d : Dev) (die : Nat) (f : Fld) : Nat :=
  (KMap.get 0 (if f.st then d.regsSt else d.regs) (regKey die f) ^^^ f.reset) % 2 ^ f.width

/-- Writes a register field of a die: the value's low bits are kept. -/
def Dev.wr (d : Dev) (die : Nat) (f : Fld) (v : Nat) : Dev :=
  let x := (v % 2 ^ f.width) ^^^ (f.reset % 2 ^ f.width)
  if f.st then { d with regsSt := KMap.set 0 d.regsSt (regKey die f) x }
  else { d with regs := KMap.set 0 d.regs (regKey die f) x }

/-- Adds to a saturating counter field. -/
def Dev.inc (d : Dev) (die : Nat) (f : Fld) (n : Nat) : Dev := d.wr die f (satAdd f.width (d.rd die f) n)

/-- Adds to a counter field that runs modulo its width. -/
def Dev.incMod (d : Dev) (die : Nat) (f : Fld) (n : Nat) : Dev := d.wr die f (d.rd die f + n)

/-- Raises a high-water mark. -/
def Dev.raiseMax (d : Dev) (die : Nat) (f : Fld) (n : Nat) : Dev := d.wr die f (max (d.rd die f) (min n (2 ^ f.width - 1)))

/-- A field of element `i` of a register array with a stride. -/
def Fld.at (f : Fld) (stride i : Nat) : Fld := f.shift (stride * i)

/-- Takes one free value (assumption 2): the word and the device with the count advanced. -/
def Dev.free (d : Dev) : Nat × Dev := (Config.freeWord d.seed, { d with seed := d.seed + 1 })

/-- Takes `n` free bytes. -/
def Dev.freeBytes (d : Dev) (n : Nat) : List Byte × Dev :=
  ((List.range n).map (fun i => Config.freeByte d.seed i), { d with seed := d.seed + 1 })

/-- EU-SH4-192 (R34: GLB_DIE_ID.PART of S0). -/
def Dev.sh4 (d : Dev) : Bool := d.rd 0 Reg.GLB_DIE_ID.PART = 1

/-- Number of compute dies (R1). -/
def Dev.nd (d : Dev) : Nat := if d.sh4 then 3 else 6

/-- Number of perches (R1). -/
def Dev.perchCount (d : Dev) : Nat := 352 * d.nd

/-- The die numbers of the part (R16). -/
def Dev.dies (d : Dev) : List Nat := if d.sh4 then [0, 2, 3, 4] else [0, 1, 2, 3, 4, 5, 6, 7]

/-- The compute dies of the part. -/
def Dev.computeDies (d : Dev) : List Nat := if d.sh4 then [2, 3, 4] else [2, 3, 4, 5, 6, 7]

/-- The steward dies of the part. -/
def Dev.stewardDies (d : Dev) : List Nat := if d.sh4 then [0] else [0, 1]

/-- The die with the stream I/O engine (R15). -/
def Dev.sioDie (d : Dev) : Nat := if d.sh4 then 0 else 1

/-- Dies that are marked failed, or that discovery has not placed, as bits (R32, R613). -/
def Dev.lostDies (d : Dev) : Nat := d.boot.absent.foldl (fun n i => n ||| 2 ^ i) (d.rd 0 Reg.RAS_PKG.DIE_FAILED)

/-- The die is lost (R26, R32, R613), or has stopped with its edges isolated (R36, R612). -/
def Dev.dieFailed (d : Dev) (die : Nat) : Bool := bit d.lostDies die || d.boot.stopped.contains die

/-- The die of a package perch number (R17). -/
def perchDie (p : Nat) : Nat := p / 352 + 2

/-- Its chain within the die (R17). -/
def perchChain (p : Nat) : Nat := p % 352 / 16

/-- Its position within the chain (R17). -/
def perchPos (p : Nat) : Nat := p % 16

/-- The device is sealed (R559). -/
def Dev.sealed (d : Dev) : Bool := d.rd 0 Reg.GLB_SEAL_STATUS.SEALED = 1

/-- TICK_COUNT (R71). -/
def Dev.tick (d : Dev) : Nat := d.rd 0 Reg.TICK_COUNT.COUNT

/-- The operating point in force (R65). -/
def Dev.opp (d : Dev) : Nat := d.rd 0 Reg.PWR_STATUS.OPP_CUR

/-- A perch. -/
def Dev.perch (d : Dev) (p : Nat) : Perch := KMap.get {} d.perches p

/-- Replaces a perch. -/
def Dev.setPerch (d : Dev) (p : Nat) (v : Perch) : Dev := { d with perches := KMap.set {} d.perches p v }

/-- Changes a perch. -/
def Dev.updPerch (d : Dev) (p : Nat) (f : Perch → Perch) : Dev := d.setPerch p (f (d.perch p))

/-- A steward core. -/
def Dev.hart (d : Dev) (h : Nat) : Hart := KMap.get {} d.harts h

/-- Changes a steward core. -/
def Dev.updHart (d : Dev) (h : Nat) (f : Hart → Hart) : Dev := { d with harts := KMap.upd {} d.harts h f }

/-- Sets the sticky bit of an error class on a die (R609, R625); a class that was clear became set in this tick (R610). -/
def Dev.raiseErr (d : Dev) (die cls : Nat) : Dev :=
  if bit (d.rd die Reg.RAS_ERR.CLASS) cls then d
  else
    { d.wr die Reg.RAS_ERR.CLASS (d.rd die Reg.RAS_ERR.CLASS ||| 2 ^ cls) with
      errNew := KMap.upd 0 d.errNew die (fun m => m ||| 2 ^ cls) }

/-- The requester of an access: partition, unit and request codes of R626, its die, NO_ALLOC, whether R658 exempts it from holding, and whether it is a
sequencer's fetch or kernel-image load, which is no DMA read (R83, R218, R236). -/
structure Rq where
  part : Nat := 0
  unit : Nat := 0
  req : Nat := 0
  die : Nat := 0
  noAlloc : Bool := false
  exempt : Bool := false
  image : Bool := false
  deriving DecidableEq, Repr

/-- Records an access error or a consumed poison in RAS_ACC_INFO and RAS_ACC_ADDR of a die, unless one is held (R26, R626, R627): `addr` is a local physical address of this package. -/
def Dev.accErr (d : Dev) (die kind : Nat) (q : Rq) (addr : Nat) : Dev :=
  let d := d.raiseErr die (if kind = 5 then 6 else 7)
  if d.rd die Reg.RAS_ACC_INFO.VALID = 1 then d
  else
    ((((((d.wr die Reg.RAS_ACC_INFO.VALID 1).wr die Reg.RAS_ACC_INFO.KIND kind).wr die Reg.RAS_ACC_INFO.PART q.part).wr die
      Reg.RAS_ACC_INFO.UNIT q.unit).wr die Reg.RAS_ACC_INFO.REQ q.req).wr die Reg.RAS_ACC_INFO.TICK_LO d.tick).wr die
      Reg.RAS_ACC_ADDR.ADDR (d.rd 0 Reg.LINK_CFG.PKG_ID * 2 ^ 48 + addr)

end Sys2Proof.Machine
end

