-- ==== Sys2Proof/Machine/AddrMap.lean ====
section
/-! DEFINITION. The local physical address map (R22 to R29) and the places of stacked and fathom lines (R196 to R201, R240). -/

namespace Sys2Proof.Machine

/-- Where a local physical address leads (R22). -/
inductive Region where
  | stacked
  | fathom
  | scratch (perch off : Nat)
  | control (die off : Nat)
  | host (iova : Nat)
  | boot (off : Nat)
  | unmapped
  deriving DecidableEq, Repr

/-- Bytes of stacked DRAM: 64 GiB on each of the three or six compute dies (R196). -/
def Dev.stackedSize (d : Dev) : Nat := if d.sh4 then 3 * 64 * 2 ^ 30 else 6 * 64 * 2 ^ 30

/-- Channels of the fathom tier (R240). -/
def Dev.fathomChannels (d : Dev) : Nat := if d.sh4 then 8 else 16

/-- Start of the fathom tier (R23). -/
def fathomBase : Nat := 0x100000000000

/-- Populated bytes of the fathom tier (R242). -/
def Dev.fathomSize (d : Dev) : Nat := 2 ^ 30 * (d.fathomChannels * d.rd 0 Reg.BMC_STATUS.CAP_GIB)

/-- Start of the scratchpad windows (R24). -/
def scratchBase : Nat := 0x200000000000

/-- Start of perch `p`'s scratchpad window (R24). -/
def spadBase (p : Nat) : Nat := scratchBase + 0x200000 * p

/-- Bytes of scratchpad (R96). -/
def spadSize : Nat := 0x180000

/-- Start of the control space (R28). -/
def controlBase : Nat := 0x300000000000

/-- Start of the host window (R25). -/
def hostBase : Nat := 0x400000000000

/-- Start of the boot ROM and flash window (R22). -/
def bootBase : Nat := 0x700000000000

/-- Region of a local physical address; unbacked parts are unmapped (R22 to R26). -/
def Dev.region (d : Dev) (pa : Nat) : Region :=
  if pa < d.stackedSize then .stacked
  else if fathomBase ≤ pa ∧ pa < fathomBase + d.fathomSize then .fathom
  else if scratchBase ≤ pa ∧ pa < spadBase d.perchCount then
    (let o := pa % 0x200000
     if o < spadSize then .scratch ((pa - scratchBase) / 0x200000) o else .unmapped)
  else if controlBase ≤ pa ∧ pa < controlBase + 8 * 2 ^ 32 then
    (let die := (pa - controlBase) / 2 ^ 32
     if d.dies.contains die then .control die ((pa - controlBase) % 2 ^ 32) else .unmapped)
  else if bootBase ≤ pa ∧ pa < bootBase + 2 ^ 32 then .boot (pa - bootBase)
  else if hostBase ≤ pa ∧ pa < 0x800000000000 then .host (pa - hostBase)
  else .unmapped

/-- Parity of the low `w` bits. -/
def parity (n w : Nat) : Nat := popcount n w % 2

/-- Compute-die index and die address of a stacked address (R199). -/
def Dev.stackedPlace (d : Dev) (pa : Nat) : Nat × Nat :=
  let nd := d.nd
  let b := pa / (2 ^ 30 * nd)
  let o := pa % (2 ^ 30 * nd)
  if bit (d.rd 2 Reg.MEMC_BAND_MODE.MODE) b then
    let g := o / 256
    let q := g / nd
    let r := g % nd
    ((r + nd / 2 * parity q 22) % nd, 2 ^ 30 * b + q * 256 + o % 256)
  else (o / 2 ^ 30, 2 ^ 30 * b + o % 2 ^ 30)

/-- MASK_i of the channel hash (R200). -/
def channelMask (i : Nat) : Nat := 2 ^ (8 + i) + 2 ^ (15 + i) + 2 ^ (22 + i) + 2 ^ (29 + i)

/-- Pseudo-channel of a die address (R200). -/
def channelOf (da : Nat) : Nat := (List.range 7).foldl (fun c i => c + parity (da &&& channelMask i) 36 * 2 ^ i) 0

/-- Granule index (R201). -/
def granuleOf (da : Nat) : Nat := bits da 15 21

/-- Bank of a die address (R201). -/
def bankOf (da : Nat) : Nat := bits (granuleOf da) 2 5 ^^^ bits (granuleOf da) 7 5

/-- Row of a die address (R201). -/
def rowOf (da : Nat) : Nat := bits (granuleOf da) 7 14

/-- Set of the system cache, over all slices of the die (R209). -/
def sysSet (da : Nat) : Nat := channelOf da * 256 + bits (granuleOf da) 0 7 * 2 + bits da 7 1

/-- Set of a chain cache (R214). -/
def chainSet (pa : Nat) : Nat := bits pa 7 12 ^^^ bits pa 19 12

/-- Channel of a fathom address and the address within it (R240). -/
def Dev.fathomPlace (d : Dev) (pa : Nat) : Nat × Nat :=
  let f := pa - fathomBase
  if d.sh4 then (bits f 8 3 ^^^ bits f 11 3 ^^^ bits f 14 3 ^^^ bits f 17 3, bits f 11 29 * 256 + f % 256)
  else (bits f 8 4 ^^^ bits f 12 4 ^^^ bits f 16 4 ^^^ bits f 20 4, bits f 12 29 * 256 + f % 256)

/-- The die that is the home of an address (R286): its stack, its fathom channel or its perch. -/
def Dev.homeDie (d : Dev) (pa : Nat) : Nat :=
  match d.region pa with
  | .stacked => (d.stackedPlace pa).1 + 2
  | .fathom => (d.fathomPlace pa).1 / 8
  | .scratch p _ => perchDie p
  | .control die _ => die
  | _ => 0

/-- SP of the page-owner table: 64 KiB pages of stacked DRAM (R261). -/
def Dev.stackedPages (d : Dev) : Nat := d.stackedSize / 65536

/-- Pages of the populated fathom tier. -/
def Dev.fathomPages (d : Dev) : Nat := d.fathomSize / 65536

/-- Page index of an address of stacked DRAM or the fathom tier (R261). -/
def Dev.pageIndex (d : Dev) (pa : Nat) : Nat :=
  if pa < d.stackedSize then pa / 65536 else d.stackedPages + (pa - fathomBase) / 65536

/-- Start of a page by its index (R261). -/
def Dev.pageBase (d : Dev) (i : Nat) : Nat :=
  if i < d.stackedPages then i * 65536 else fathomBase + (i - d.stackedPages) * 65536

/-- Owner byte of a page (R261): 0x00 to 0x0F a partition, 0xFD retired, 0xFE the device, 0xFF free. -/
def Dev.ownerOf (d : Dev) (i : Nat) : Nat := (KMap.get 0xFF#8 d.owner i).toNat

/-- Sets the owner byte of a page. -/
def Dev.setOwner (d : Dev) (i v : Nat) : Dev := { d with owner := KMap.set 0xFF#8 d.owner i (BitVec.ofNat 8 v) }

/-- Whether the page-owner table stands at an address, and its entry (R261, R279). -/
def Dev.ownerCell (d : Dev) (a : Nat) : Option Nat :=
  let base := d.rd 0 Reg.BMC_OWN_BASE.BASE
  if base ≠ 0 ∧ base ≤ a ∧ a < base + d.stackedPages + d.fathomPages then some (a - base) else none

end Sys2Proof.Machine
end

