-- ==== Sys2Proof/Machine/CacheOps.lean ====
section
/-! DEFINITION. Set-associative caches with the tree pseudo-LRU of R221, and lines as bytes (R197). -/

namespace Sys2Proof.Machine

/-- Bytes of a line. -/
def lineBytes (l : LineData) : List Byte := (List.range 128).map (fun i => BitVec.ofNat 8 (l.toNat / 2 ^ (8 * i)))

/-- A line from its bytes. -/
def lineOf (l : List Byte) : LineData := BitVec.ofNat 1024 (leNat l)

/-- Bytes of a line with poison marks by sector. -/
def lineView (l : LineData) (poison : Nat) : List PByte := (lineBytes l).zipIdx.map (fun p => (p.1, bit poison (p.2 / 32)))

/-- Poison bits of a line's sectors from its bytes. -/
def viewPoison (v : List PByte) : Nat :=
  (List.range 4).foldl (fun n s => if ((v.drop (32 * s)).take 32).any (·.2) then n + 2 ^ s else n) 0

/-- Lays new bytes over a line, sector by sector: a whole sector takes the new poison, a part of one keeps the old (R204). -/
def overlayLine (old : List PByte) (new : List (Option PByte)) : List PByte :=
  (List.range 4).flatMap (fun s =>
    let o := (old.drop (32 * s)).take 32
    let n := (new.drop (32 * s)).take 32
    let whole := n.all Option.isSome
    let bad := n.any (fun b => match b with
      | some (_, p) => p
      | none => false) || (!whole && o.any (·.2))
    (o.zip n).map (fun p => ((match p.2 with
      | some (b, _) => b
      | none => p.1.1), bad)))

/-- Sectors that new bytes touch, as a mask. -/
def touchedSectors (new : List (Option PByte)) : Nat :=
  (List.range 4).foldl (fun n s => if ((new.drop (32 * s)).take 32).any Option.isSome then n + 2 ^ s else n) 0

/-- `v` placed at byte `off` of an otherwise untouched line. -/
def linePatch (off : Nat) (v : List PByte) : List (Option PByte) :=
  List.replicate off none ++ v.map some ++ List.replicate (128 - off - v.length) none

/-- Pieces (line, offset, length) of `n` bytes from `pa`; `fuel` bounds the lines. -/
def lineSegsAux : Nat → Nat → Nat → List (Nat × Nat × Nat)
  | 0, _, _ => []
  | f + 1, pa, n =>
    if n = 0 then []
    else
      let off := pa % 128
      let k := min n (128 - off)
      (pa / 128, off, k) :: lineSegsAux f (pa + k) (n - k)

/-- Pieces of a range by lines. -/
def lineSegs (pa n : Nat) : List (Nat × Nat × Nat) := lineSegsAux (n / 128 + 2) pa n

/-- The line in a set and way. -/
def Cache.line (c : Cache) (set way : Nat) : CLine := KMap.get {} c.lines (set * 16 + way)

/-- The way of a set that holds a tag. -/
def Cache.find (c : Cache) (set tag : Nat) : Option Nat :=
  (List.range 16).find? (fun w => (c.line set w).valid && (c.line set w).tag = tag)

/-- Replaces a line. -/
def Cache.setLine (c : Cache) (set way : Nat) (l : CLine) : Cache := { c with lines := KMap.set {} c.lines (set * 16 + way) l }

/-- Points every node on the path to `way` at its other half: levels left, node, first way and width of the half. -/
def plruTouch (way : Nat) : Nat → Nat → Nat → Nat → Nat
  | 0, _, _, tree => tree
  | k + 1, node, lo, tree =>
    let half := 2 ^ k
    let right := lo + half ≤ way
    let tree := if bit tree node = right then (if right then tree - 2 ^ node else tree + 2 ^ node) else tree
    plruTouch way k (2 * node + (if right then 2 else 1)) (if right then lo + half else lo) tree

/-- Follows the tree from the root to an eligible way (R221). A node's bit names the half to go to: 0 lower, 1 upper. -/
def plruPick (tree elig : Nat) : Nat → Nat → Nat → Nat
  | 0, _, lo => lo
  | k + 1, node, lo =>
    let half := 2 ^ k
    let want := bit tree node
    let has := fun (r : Bool) => bits elig (if r then lo + half else lo) half ≠ 0
    let right := if has want then want else !want
    plruPick tree elig k (2 * node + (if right then 2 else 1)) (if right then lo + half else lo)

/-- Updates the tree of a set for an access to `way`. -/
def Cache.touch (c : Cache) (set way : Nat) : Cache := { c with trees := KMap.upd 0 c.trees set (plruTouch way 4 0 0) }

/-- The way that a fill takes among the eligible ones (R221); none where no way is eligible. -/
def Cache.victim (c : Cache) (set elig : Nat) : Option Nat :=
  if elig % 2 ^ 16 = 0 then none
  else match (List.range 16).find? (fun w => bit elig w && !(c.line set w).valid) with
    | some w => some w
    | none => some (plruPick (KMap.get 0 c.trees set) elig 4 0 0)

/-- Places a line in a set: the line that left (if valid) and the cache. -/
def Cache.fill (c : Cache) (set elig : Nat) (l : CLine) : Option (CLine × Cache) :=
  (c.victim set elig).map (fun w => (c.line set w, (c.setLine set w l).touch set w))

/-- A way whose counts have reached 2 uncorrectable or 64 corrected errors stops allocating, 4 ways of a cache at most (R222, R223). -/
def Cache.qualify (c : Cache) (way : Nat) : Cache :=
  if (2 ≤ KMap.get 0 c.uncorr way ∨ 64 ≤ KMap.get 0 c.corr way) ∧ !bit c.off way ∧ popcount c.off 16 < 4 then { c with off := c.off ||| 2 ^ way } else c

/-- Counts an ECC finding in a way; an uncorrectable one poisons its sector of the line (R222, R598). -/
def Cache.eccAt (c : Cache) (set way sector : Nat) (uncorr : Bool) : Cache :=
  (if uncorr then
    let l := c.line set way
    { (c.setLine set way { l with poison := l.poison ||| 2 ^ sector, flaw := clearBits l.flaw (2 ^ (4 + sector)) }) with uncorr := KMap.upd 0 c.uncorr way (· + 1) }
  else { c with corr := KMap.upd 0 c.corr way (· + 1) }).qualify way

/-- An error comes to stand in a sector of a line. -/
def Cache.flawAt (c : Cache) (set way sector : Nat) (uncorr : Bool) : Cache :=
  let l := c.line set way
  c.setLine set way { l with flaw := l.flaw ||| 2 ^ (if uncorr then 4 + sector else sector) }

/-- The errors that a read of the sectors from byte `off` of a line meets: sectors, each with whether its error is uncorrectable. -/
def CLine.flaws (l : CLine) (off k : Nat) : List (Nat × Bool) :=
  if l.flaw = 0 then []
  else (List.range 4).flatMap (fun s =>
    if off < 32 * (s + 1) && 32 * s < off + k then
      (if bit l.flaw (4 + s) then [(s, true)] else if bit l.flaw s then [(s, false)] else [])
    else [])

/-- What a line gives as it is written back: a sector with an uncorrectable error is poisoned (R223). -/
def CLine.view (l : CLine) : List PByte := lineView l.data (l.poison ||| l.flaw / 16)

/-- The dirty sectors of a line. -/
def CLine.dirtyPatch (l : CLine) : List (Option PByte) := l.view.zipIdx.map (fun p => if bit l.dirty (p.2 / 32) then some p.1 else none)

/-- Lays written bytes over a line of a cache: a sector written whole holds no error any more. -/
def CLine.overlay (l : CLine) (p : List (Option PByte)) : CLine :=
  let v := overlayLine (lineView l.data l.poison) p
  let kept := (List.range 4).foldl (fun n s => if ((p.drop (32 * s)).take 32).all Option.isSome then clearBits n (2 ^ s + 2 ^ (4 + s)) else n) l.flaw
  { l with data := lineOf (v.map (·.1)), poison := viewPoison v, flaw := if l.flaw = 0 then 0 else kept }

/-- Drops every line that satisfies `p`. -/
def Cache.dropLines (c : Cache) (p : CLine → Bool) : Cache := { c with lines := c.lines.filter (fun e => !p e.2) }

end Sys2Proof.Machine
end

