-- ==== Sys2Proof/Machine/Route.lean ====
section
/-! DEFINITION. The edges of the package and the ways that packets take over them (R18 to R21, R35, R36). -/

namespace Sys2Proof.Machine

/-- The edges of the part by edge number: die, port, die, port (R18, R21). -/
def Dev.edgeEnds (d : Dev) : List (Nat × Nat × Nat × Nat) :=
  if d.sh4 then [(2, 1, 3, 0), (3, 1, 4, 0), (0, 0, 2, 0), (0, 1, 4, 1)]
  else [(2, 1, 3, 0), (3, 1, 4, 0), (5, 1, 6, 0), (6, 1, 7, 0), (2, 3, 5, 2), (3, 3, 6, 2), (4, 3, 7, 2), (0, 0, 2, 0), (0, 1, 5, 0), (1, 0, 4, 1), (1, 1, 7, 1)]

/-- The edge states of R35. -/
def esAbsent : Nat := 0
def esTraining : Nat := 1
def esUp : Nat := 2
def esIsolated : Nat := 3
def esMismatch : Nat := 4

/-- The STATE field of a port. -/
def edgeState (port : Nat) : Fld :=
  match port with
  | 0 => Reg.GLB_EDGE_STATUS.STATE0 | 1 => Reg.GLB_EDGE_STATUS.STATE1 | 2 => Reg.GLB_EDGE_STATUS.STATE2 | _ => Reg.GLB_EDGE_STATUS.STATE3

/-- The edges along a row between two columns (R21). -/
def rowEdges (row a b : Nat) : List Nat := (List.range (max a b - min a b)).map (fun i => 2 * row + min a b + i)

/-- The way between two compute dies by their indices: along the row, then along the column (R19). -/
def meshRoute (a b : Nat) : List Nat := rowEdges (a / 3) (a % 3) (b % 3) ++ (if a / 3 = b / 3 then [] else [4 + b % 3])

/-- The steward edge of a row (R19, R21). -/
def stewardEdge (steward row : Nat) : Nat := 7 + 2 * steward + row

/-- The edges that a packet crosses from one die to another, by edge number (R19): between compute dies along the row, then along the column; between a steward
die and a compute die over the steward edge of the compute die's row; S0 of an EU-SH4-192 by edge 2 to C0 and C1, by edge 3 to C2; S0 and S1 over row 0. -/
def edgeWay (sh4 : Bool) (a b : Nat) : List Nat :=
  if a = b then []
  else if sh4 then
    (if a = 0 then (if b = 4 then [3] else 2 :: rowEdges 0 0 (b - 2))
     else if b = 0 then (if a = 4 then [3] else rowEdges 0 (a - 2) 0 ++ [2])
     else meshRoute (a - 2) (b - 2))
  else if a < 2 ∧ b < 2 then (if a = 0 then [7, 0, 1, 9] else [9, 1, 0, 7])
  else if a < 2 then stewardEdge a ((b - 2) / 3) :: rowEdges ((b - 2) / 3) (2 * a) ((b - 2) % 3)
  else if b < 2 then rowEdges ((a - 2) / 3) ((a - 2) % 3) (2 * b) ++ [stewardEdge b ((a - 2) / 3)]
  else meshRoute (a - 2) (b - 2)

/-- The way between two dies of this part. -/
def Dev.route (d : Dev) (a b : Nat) : List Nat := edgeWay d.sh4 a b

/-- An edge carries nothing: it is ISOLATED or MISMATCH (R36). -/
def Dev.edgeCut (d : Dev) (n : Nat) : Bool :=
  match d.edgeEnds[n]? with
  | none => true
  | some e => d.rd e.1 (edgeState e.2.1) = esIsolated || d.rd e.1 (edgeState e.2.1) = esMismatch

/-- A die cannot be reached from another: it has failed, or an edge of the request's way or of the response's carries nothing (R26, R36). -/
def Dev.unreached (d : Dev) (a b : Nat) : Bool := d.dieFailed b || (d.route a b ++ d.route b a).any d.edgeCut

/-- The requester's own die (R26): where its UNIT (R626) stands for one die, that die; a chain, a collective engine or a mover says its own. -/
def Dev.unitDie (d : Dev) (unit own : Nat) : Nat :=
  if 192 ≤ unit then 1 else if 128 ≤ unit then 0 else if unit = 34 ∨ unit = 36 then d.sioDie else if 35 ≤ unit ∧ unit ≤ 40 then 0 else own

end Sys2Proof.Machine
end

