-- ==== Sys2Proof/Machine/Home.lean ====
section
/-! DEFINITION. The homes of memory (R204 to R213, R263, R286): DRAM and its errors, write-combining buffers, system caches, the copies of the steward dies,
budgets, scratchpads. -/

namespace Sys2Proof.Machine

/-- A byte of DRAM or scratchpad as it is stored. -/
def Dev.rawByte (d : Dev) (a : Nat) : Byte :=
  match d.ownerCell a with
  | some i => KMap.get 0xFF#8 d.owner i
  | none => KMap.get 0#8 d.mem a

/-- Stores a byte of DRAM or scratchpad. -/
def Dev.setRaw (d : Dev) (a : Nat) (b : Byte) : Dev :=
  match d.ownerCell a with
  | some i => { d with owner := KMap.set 0xFF#8 d.owner i b }
  | none => { d with mem := KMap.set 0#8 d.mem a b }

/-- Stores bytes from an address up. -/
def Dev.setRawList (d : Dev) (a : Nat) : List Byte → Dev
  | [] => d
  | b :: t => (d.setRaw a b).setRawList (a + 1) t

/-- Marks or clears the poison of a DRAM sector (R204). -/
def Dev.setPoison (d : Dev) (sector : Nat) (b : Bool) : Dev := { d with poison := KMap.set 0 d.poison sector (b2n b) }

/-- A line as DRAM holds it. -/
def Dev.dramView (d : Dev) (line : Nat) : List PByte :=
  (List.range 128).map (fun i => (d.rawByte (line * 128 + i), KMap.get 0 d.poison (line * 4 + i / 32) = 1))

/-- The place of an address in the store of errors: its sector, or the first sector of its transfer in the fathom tier (R598). -/
def Dev.flawKey (d : Dev) (pa : Nat) : Nat :=
  match d.region pa with
  | .fathom => pa / 64 * 2
  | _ => pa / 32

/-- A read meets the error of a sector, if any (R204, R598): an uncorrectable one poisons it, and what it counts is due; a correctable one stands until a write. -/
def Dev.meetFlaw (d : Dev) (key : Nat) : Dev :=
  match KMap.get 0 d.flaws key with
  | 0 => d
  | 1 => { d with findings := d.findings ++ [(key * 32, false)] }
  | _ =>
    let d : Dev := { d with findings := d.findings ++ [(key * 32, true)], flaws := KMap.set 0 d.flaws key 0 }
    let d := d.setPoison key true
    if d.flawKey ((key + 1) * 32) = key then d.setPoison (key + 1) true else d

/-- The memory of a line is read in the sectors of a mask: MEMC_RD_BYTES counts them, and errors in them are met (R204, R232). -/
def Dev.dramRead (d : Dev) (line sectors : Nat) : Dev :=
  let d := match d.region (line * 128) with
    | .stacked => d.incMod ((d.stackedPlace (line * 128)).1 + 2) Reg.MEMC_RD_BYTES.BYTES (32 * popcount sectors 4)
    | _ => d
  if d.flaws.isEmpty then d
  else (((List.range 4).filter (bit sectors)).foldl (fun (l : List Nat) s =>
    let k := d.flawKey (line * 128 + 32 * s)
    if l.contains k then l else l ++ [k]) []).foldl (fun d k => d.meetFlaw k) d

/-- An error comes to stand in DRAM. -/
def Dev.setFlaw (d : Dev) (uncorr : Bool) (pa : Nat) : Dev :=
  { d with flaws := KMap.upd 0 d.flaws (d.flawKey pa) (fun n => if uncorr then 2 else max n 1) }

/-- Writes whole sectors of a line to DRAM; no error stands in them any more. -/
def Dev.dramWrite (d : Dev) (line sectors : Nat) (v : List PByte) : Dev :=
  (List.range 4).foldl (fun d s =>
    if bit sectors s then
      let sec := (v.drop (32 * s)).take 32
      let d := (d.setRawList (line * 128 + 32 * s) (sec.map (·.1))).setPoison (line * 4 + s) (sec.any (·.2))
      if d.flaws.isEmpty then d else { d with flaws := KMap.set 0 d.flaws (d.flawKey (line * 128 + 32 * s)) 0 }
    else d) d

/-- The bytes an entry of the write-combining buffer holds. -/
def WcbEntry.patch (e : WcbEntry) : List (Option PByte) :=
  (lineView e.data e.poison).zipIdx.map (fun p => if bit e.mask p.2 then some p.1 else none)

/-- The entry of a line in its pseudo-channel's buffer. -/
def Dev.wcbFind (d : Dev) (die channel line : Nat) : Option WcbEntry :=
  d.wcb.find? (fun e => e.die = die && e.channel = channel && e.line = line)

/-- A line behind the system cache: the buffer entry's bytes over DRAM (R207). -/
def Dev.behindView (d : Dev) (die channel line : Nat) : List PByte :=
  match d.wcbFind die channel line with
  | some e => overlayLine (d.dramView line) e.patch
  | none => d.dramView line

/-- The system cache of a die. -/
def Dev.sysc (d : Dev) (die : Nat) : Cache := KMap.get {} d.sysCache die

/-- Replaces the system cache of a die. -/
def Dev.setSysc (d : Dev) (die : Nat) (c : Cache) : Dev := { d with sysCache := KMap.set {} d.sysCache die c }

/-- A line at its home, without the copies of the steward dies. -/
def Dev.homeView (d : Dev) (line : Nat) : List PByte :=
  match d.region (line * 128) with
  | .stacked =>
    let (idx, da) := d.stackedPlace (line * 128)
    let c := d.sysc (idx + 2)
    match c.find (sysSet da) line with
    | some w => lineView (c.line (sysSet da) w).data (c.line (sysSet da) w).poison
    | none => d.behindView (idx + 2) (channelOf da) line
  | _ => d.dramView line

/-- The sectors that new bytes cover in part, as a mask. -/
def partSectors (p : List (Option PByte)) : Nat :=
  (List.range 4).foldl (fun n s => let l := (p.drop (32 * s)).take 32; if l.any Option.isSome && l.any Option.isNone then n + 2 ^ s else n) 0

/-- Issues an entry of the write-combining buffer (R208): the sectors with a set mask bit are written, and those that are covered in part are read before. -/
def Dev.wcbIssue (d : Dev) (e : WcbEntry) : Dev :=
  let p := e.patch
  let sectors := touchedSectors p
  let d := d.dramRead e.line (partSectors p)
  let d := d.dramWrite e.line sectors (overlayLine (d.dramView e.line) p)
  let d := { d with wcb := d.wcb.filter (fun x => !(x.die = e.die && x.channel = e.channel && x.line = e.line)) }
  let d := d.inc e.die Reg.MEMC_WCB.RMW_SECTORS (popcount (partSectors p) 4)
  d.incMod e.die Reg.MEMC_WR_BYTES.BYTES (32 * popcount sectors 4)

/-- Byte mask of written bytes. -/
def patchMask (p : List (Option PByte)) : Nat := p.zipIdx.foldl (fun n x => if x.1.isSome then n + 2 ^ x.2 else n) 0

/-- Merges written bytes into an entry. -/
def WcbEntry.merge (e : WcbEntry) (p : List (Option PByte)) : WcbEntry :=
  let v := overlayLine (lineView e.data e.poison) p
  { e with data := lineOf (v.map (·.1)), mask := e.mask ||| patchMask p, poison := viewPoison v }

/-- A write that leaves the system cache toward DRAM (R205, R206). -/
def Dev.wcbPut (d : Dev) (die channel line : Nat) (p : List (Option PByte)) : Dev :=
  if patchMask p = 0 then d
  else
    let others := d.wcb.filter (fun x => !(x.die = die && x.channel = channel && x.line = line))
    match d.wcbFind die channel line with
    | some e =>
      let e := e.merge p
      let d := { d with wcb := others ++ [e] }
      if e.mask = 2 ^ 128 - 1 then d.wcbIssue e else d
    | none =>
      let mine := d.wcb.filter (fun x => x.die = die && x.channel = channel)
      let d := match mine with
        | o :: _ => if 64 ≤ mine.length then (d.inc die Reg.MEMC_WCB.FULL_WAITS 1).wcbIssue o else d
        | [] => d
      let e := (WcbEntry.merge { die := die, channel := channel, line := line } p)
      let d := { d with wcb := d.wcb ++ [e] }
      let d := d.raiseMax die Reg.MEMC_WCB.OCC_MAX (min 64 (mine.length + 1))
      if e.mask = 2 ^ 128 - 1 then d.wcbIssue e else d

/-- The ways of a die's system cache in which a partition may allocate (R213, R222, R283). -/
def Dev.sysElig (d : Dev) (die part : Nat) : Nat :=
  let mask := if die < 2 then Reg.BMC_SC_WAYMASK.MASK else Reg.MEMC_SC_WAYMASK.MASK
  let gone := if die < 2 then 0 else d.rd die Reg.MEMC_SC_WAYS.DISABLED
  clearBits (if part < 16 then d.rd die (mask.at 8 part) else 0xFFFF) (gone ||| (d.sysc die).off)

/-- Places a line in the system cache; a dirty line that leaves goes to the buffer with its dirty sectors (R210). -/
def Dev.syscFill (d : Dev) (die set elig : Nat) (l : CLine) : Dev :=
  match (d.sysc die).fill set elig l with
  | none => d
  | some (old, c) =>
    let d := d.setSysc die c
    if old.valid && old.dirty ≠ 0 then
      let (_, da) := d.stackedPlace (old.tag * 128)
      d.wcbPut die (channelOf da) old.tag old.dirtyPatch
    else d

/-- Merges bytes at the home of a line: the system cache on a hit or for a whole line, else the buffer (R210); the BMC for a fathom line. -/
def Dev.homeMerge (d : Dev) (part : Nat) (noAlloc : Bool) (line : Nat) (p : List (Option PByte)) : Dev :=
  match d.region (line * 128) with
  | .stacked =>
    let (idx, da) := d.stackedPlace (line * 128)
    let die := idx + 2
    let set := sysSet da
    let c := d.sysc die
    (match c.find set line with
      | some w =>
        let l := (c.line set w).overlay p
        d.setSysc die ((c.setLine set w { l with dirty := l.dirty ||| touchedSectors p }).touch set w)
      | none =>
        let elig := d.sysElig die part
        if p.all Option.isSome ∧ !noAlloc ∧ elig ≠ 0 then
          let v := overlayLine (d.dramView line) p
          d.syscFill die set elig { valid := true, tag := line, data := lineOf (v.map (·.1)), dirty := 15, poison := viewPoison v, part := part }
        else d.wcbPut die (channelOf da) line p)
  | _ =>
    let d := d.dramRead line (partSectors p)
    d.dramWrite line (touchedSectors p) (overlayLine (d.dramView line) p)

/-- The key of a line in the caches of a steward die. -/
def stewKey (die line : Nat) : Nat := die * 2 ^ 48 + line

/-- A steward die's copy of a line (R211, R212). -/
def Dev.stewLine (d : Dev) (die line : Nat) : StewardLine := KMap.get {} d.stew (stewKey die line)

/-- The budget field of a partition at a home die (R274, R282). -/
def budgetFld (die : Nat) : Fld := if die < 2 then Reg.BMC_BW_BUDGET.BUDGET else Reg.MEMC_BW_BUDGET.BUDGET

/-- The USED field at a home die. -/
def usedFld (die : Nat) : Fld := if die < 2 then Reg.BMC_BW_BUDGET.USED else Reg.MEMC_BW_BUDGET.USED

/-- The HIT_LAST field at a home die. -/
def hitFld (die : Nat) : Fld := if die < 2 then Reg.BMC_BW_BUDGET.HIT_LAST else Reg.MEMC_BW_BUDGET.HIT_LAST

/-- Budget of a partition at a home, in 4 KiB units. -/
def Dev.budget (d : Dev) (die part : Nat) : Nat := d.rd die ((budgetFld die).at 8 part)

/-- Bytes charged to a partition at a home in this tick (R263). -/
def Dev.charged (d : Dev) (die part : Nat) : Nat := KMap.get 0 d.charge (die * 16 + part)

/-- Charges bytes (R263): nothing for a page of the device, nor for an access made in no partition's name (partition 16). -/
def Dev.chargeBytes (d : Dev) (die part n pa : Nat) : Dev :=
  if 16 ≤ part ∨ d.ownerOf (d.pageIndex pa) = 0xFE then d
  else
    let t := d.charged die part + n
    { d with charge := KMap.set 0 d.charge (die * 16 + part) t }.wr die ((usedFld die).at 8 part) (min (ceilDiv t 4096) (2 ^ 28 - 1))

/-- Writes a line of a steward die to its home (R306), charged to the partition that changed it (R263). -/
def Dev.stewBack (d : Dev) (line : Nat) (l : StewardLine) : Dev :=
  (d.chargeBytes (d.homeDie (line * 128)) l.part 128 (line * 128)).homeMerge l.part false line ((lineView l.data l.poison).map some)

/-- Writes a steward die's modified copy to its home and keeps it clean (R306). -/
def Dev.recallClean (d : Dev) (line : Nat) : Dev :=
  [0, 1].foldl (fun d s =>
    let l := d.stewLine s line
    if l.valid && l.dirty then
      let d := d.stewBack line l
      { d with stew := KMap.set {} d.stew (stewKey s line) { l with dirty := false } }
    else d) d

/-- Set of a line in a steward die's system cache (R212): 48 slices of 1,024 sets. -/
def stewSet (line : Nat) : Nat := line % 48 * 1024 + line / 48 % 1024

/-- Kinds of the caches of a core (R470) and the set of a line in each: 0 L1 instruction, 4-way; 1 L1 data and 2 L2, 8-way. -/
def coreSet (kind line : Nat) : Nat := if kind = 0 then line % 128 else if kind = 1 then line % 64 else line % 2048

/-- The ways of a cache of a core. -/
def coreWays (kind : Nat) : Nat := if kind = 0 then 0xF else 0xFF

/-- A cache of a core. -/
def Dev.core (d : Dev) (h kind : Nat) : Cache := KMap.get {} d.coreCache (h * 4 + kind)

/-- Replaces a cache of a core. -/
def Dev.setCore (d : Dev) (h kind : Nat) (c : Cache) : Dev := { d with coreCache := KMap.set {} d.coreCache (h * 4 + kind) c }

/-- A steward die holds a line in some cache (R212, R470): its system cache, or the L2 of a core. -/
def Dev.stewHas (d : Dev) (die line : Nat) : Bool :=
  ((d.sysc die).find (stewSet line) line).isSome
    || d.coreCache.any (fun e => e.1 / 256 = die && e.1 % 4 = 2 && (e.2.find (coreSet 2 line) line).isSome)

/-- Drops a line from the caches of the cores that a predicate names. -/
def Dev.coreDrop (d : Dev) (p : Nat → Bool) (line : Nat) : Dev :=
  if d.coreCache.isEmpty then d
  else { d with coreCache := KMap.mapV {} (fun k c => if p (k / 4) then c.dropLines (fun l => l.tag = line) else c) d.coreCache }

/-- Drops a line from every cache of a steward die. -/
def Dev.stewDrop (d : Dev) (die line : Nat) : Dev :=
  let d := d.coreDrop (fun h => h / 64 = die) line
  let d := d.setSysc die ((d.sysc die).dropLines (fun l => l.tag = line))
  { d with stew := KMap.set {} d.stew (stewKey die line) {} }

/-- Writes back and invalidates every steward copy of a line (R211, R241). -/
def Dev.recallDrop (d : Dev) (line : Nat) : Dev :=
  if (d.stewLine 0 line).valid || (d.stewLine 1 line).valid then ((d.recallClean line).stewDrop 0 line).stewDrop 1 line else d

/-- Clears every reservation on a line (R310). -/
def Dev.clearResv (d : Dev) (line : Nat) : Dev :=
  { d with harts := KMap.mapV {} (fun _ t => if t.resv = some line then { t with resv := none, deferring := false } else t) d.harts }

/-- The value of a line at its point of coherence (R286): a steward die's modified copy, or the home. -/
def Dev.cohLine (d : Dev) (line : Nat) : List PByte :=
  match [0, 1].find? (fun s => (d.stewLine s line).valid && (d.stewLine s line).dirty) with
  | some s => lineView (d.stewLine s line).data (d.stewLine s line).poison
  | none => d.homeView line

/-- The value of a byte at its point of coherence. -/
def Dev.cohByte (d : Dev) (pa : Nat) : Byte := ((d.cohLine (pa / 128)).getD (pa % 128) (0, false)).1

/-- Clean bytes. -/
def clean (l : List Byte) : List PByte := l.map (fun b => (b, false))

/-- Bytes that are all poisoned or all clean. -/
def marked (p : Bool) (l : List Byte) : List PByte := l.map (fun b => (b, p))

/-- Bytes without their marks. -/
def plain (l : List PByte) : List Byte := l.map (·.1)

/-- Some byte is poisoned. -/
def anyPoison (l : List PByte) : Bool := l.any (·.2)

/-- A byte of a scratchpad with its poison. -/
def Dev.spadByte (d : Dev) (p off : Nat) : PByte :=
  (KMap.get 0#8 d.mem (spadBase p + off), KMap.get 0 d.spadPoison ((spadBase p + off) / 8) = 1)

/-- Bytes of a scratchpad. -/
def Dev.spadRead (d : Dev) (p off n : Nat) : List PByte := (List.range n).map (fun i => d.spadByte p (off + i))

/-- Writes bytes of a scratchpad: a word takes the poison of the bytes written; a clean write of a whole word clears it (R99). -/
def Dev.spadWrite (d : Dev) (p off : Nat) (v : List PByte) : Dev :=
  let a := spadBase p + off
  let mem := KMap.setList 0#8 d.mem a (v.map (·.1))
  let words := (List.range ((a + v.length + 7) / 8 - a / 8)).map (fun i => a / 8 + i)
  let sp := if v.isEmpty then d.spadPoison else words.foldl (fun m w =>
    let lo := max (w * 8) a
    let hi := min (w * 8 + 8) (a + v.length)
    let bad := ((v.drop (lo - a)).take (hi - lo)).any (·.2)
    KMap.set 0 m w (b2n (bad || (hi - lo < 8 && KMap.get 0 m w = 1)))) d.spadPoison
  { d with mem := mem, spadPoison := sp }

end Sys2Proof.Machine
end

