-- ==== Sys2Proof/Machine/Repair.lean ====
section
/-! DEFINITION. Repair (R603 to R608): the repair log, page retirement, row remaps, and what an ECC finding in DRAM does (R204, R606). -/

namespace Sys2Proof.Machine

/-- Writes bytes to device pages at their homes, by the device itself (R263: charged to no partition). -/
def Dev.devWrite (d : Dev) (pa : Nat) (b : List Byte) : Dev :=
  (lineSegs pa b.length).foldl (fun d s =>
    let d := (d.recallDrop s.1).clearResv s.1
    match d.region (s.1 * 128) with
    | .stacked | .fathom => if d.dieFailed (d.homeDie (s.1 * 128)) then d
      else d.homeMerge 16 false s.1 (linePatch s.2.1 (clean ((b.drop (s.1 * 128 + s.2.1 - pa)).take s.2.2)))
    | _ => d) d

/-- A record of the repair log and the journal (R540). -/
def Dev.repairRecord (d : Dev) (type die channel bank row spare addr : Nat) : List Byte :=
  let b := leBytes 1 type ++ leBytes 1 die ++ leBytes 1 channel ++ leBytes 1 bank ++ leBytes 2 row ++ leBytes 1 spare ++ leBytes 1 0 ++ leBytes 8 addr
    ++ leBytes 8 d.tick ++ leBytes 4 d.nv.coldCount
  b ++ leBytes 4 (crc32 b)

/-- Appends a record to the repair log, or counts it as dropped where the ring is full (R608, R611). -/
def Dev.logRecord (d : Dev) (b : List Byte) : Dev :=
  let prod := d.rd 0 Reg.RAS_LOG_PTR.PROD
  let cons := d.rd 0 Reg.RAS_LOG_PTR.CONS
  if (prod + 8192 - cons) % 8192 = 4096 then d.inc 0 Reg.RAS_LOG_PTR.DROPPED 1
  else
    let d := d.devWrite (d.rd 0 Reg.RAS_LOG_BASE.BASE + 32 * (prod % 4096)) b
    { d.wr 0 Reg.RAS_LOG_PTR.PROD (prod + 1) with healthDue := true }

/-- A page has qualified for retirement already (R605). -/
def Dev.qualified (d : Dev) (page : Nat) : Bool := d.ownerOf page = 0xFD || d.pagePend.contains page || d.pageLate.contains page

/-- A page qualifies for retirement (R605): once. -/
def Dev.retirePage (d : Dev) (die page : Nat) : Dev :=
  let o := d.ownerOf page
  if d.qualified page then d
  else
    let d := if o = 0xFF then d.setOwner page 0xFD
      else if o < 16 ∧ d.pagePend.length < 4096 then
        let d := { d with pagePend := d.pagePend ++ [page] }
        d.wr 0 Reg.RAS_SCRUB.RETIRE_PEND d.pagePend.length
      else { d with pageLate := d.pageLate ++ [page] }
    (d.raiseErr die 5).logRecord (d.repairRecord 2 die 0 0 0 0 (d.pageBase page))

/-- Key of a row: die, channel, bank, row. -/
def rowKey (die channel bank row : Nat) : Nat := ((die * 128 + channel) * 32 + bank) * 16384 + row

/-- Local physical address of an address within a compute die (R199). -/
def Dev.stackedPa (d : Dev) (idx da : Nat) : Nat :=
  let nd := d.nd
  let b := da / 2 ^ 30
  let r := da % 2 ^ 30
  if bit (d.rd 2 Reg.MEMC_BAND_MODE.MODE) b then
    let q := r / 256
    b * nd * 2 ^ 30 + (q * nd + (idx + nd - nd / 2 * parity q 22 % nd) % nd) * 256 + r % 256
  else b * nd * 2 ^ 30 + idx * 2 ^ 30 + r

/-- The pages that hold a granule of a row (R201, R604): four columns. -/
def Dev.rowPages (d : Dev) (die channel bank row : Nat) : List Nat :=
  let bankField := bank ^^^ row % 32
  (List.range 4).map (fun col =>
    let high := (row * 128 + bankField * 4 + col) * 2 ^ 15
    d.pageIndex (d.stackedPa (die - 2) (high + (channel ^^^ channelOf high) * 256)))

/-- A row fails (R604): it is remapped to a free spare, or its pages retire. -/
def Dev.rowFail (d : Dev) (die channel bank row : Nat) : Dev :=
  let key := rowKey die channel bank row
  let bk := (die * 128 + channel) * 32 + bank
  let used := KMap.get 0 d.bankSpares bk
  let d := { d with rowTrack := KMap.upd [] d.rowTrack (die * 128 + channel) (fun l => l.filter (fun e => e.1 ≠ key)) }
  if KMap.get 0 d.rowMaps key < 2 ∧ used < 8 then
    let d := { d with rowMaps := KMap.upd 0 d.rowMaps key (· + 1), bankSpares := KMap.set 0 d.bankSpares bk (used + 1) }
    let d := (d.inc die Reg.MEMC_ECC.SPARED 1).raiseErr die 4
    let d := if used = 7 then d.raiseErr die 15 else d
    d.logRecord (d.repairRecord 1 die channel bank row used 0)
  else (d.rowPages die channel bank row).foldl (fun d p => d.retirePage die p) d

/-- A sector read with a corrected error (R204, R603, R606). -/
def Dev.eccCorrected (d : Dev) (pa : Nat) : Dev :=
  match d.region pa with
  | .stacked =>
    let (idx, da) := d.stackedPlace pa
    let die := idx + 2
    let ch := channelOf da
    let key := rowKey die ch (bankOf da) (rowOf da)
    let d := d.inc die Reg.MEMC_ECC.CORR 1
    let l := KMap.get [] d.rowTrack (die * 128 + ch)
    let old := ((l.find? (fun e => e.1 = key)).map (·.2)).getD []
    let secs := if old.contains (pa / 32) then old else old ++ [pa / 32]
    let l := l.filter (fun e => e.1 ≠ key) ++ [(key, secs)]
    let d := { d with rowTrack := KMap.set [] d.rowTrack (die * 128 + ch) (if 256 < l.length then l.drop 1 else l) }
    if 4 ≤ secs.length then d.rowFail die ch (bankOf da) (rowOf da) else d
  | .fathom =>
    let die := d.homeDie pa
    let page := d.pageIndex pa
    let d := d.inc die Reg.RAS_FATHOM_ECC.CORR 1
    let old := KMap.get [] d.fathomCorr page
    let locs := if old.contains (pa / 64) then old else old ++ [pa / 64]
    let d := { d with fathomCorr := KMap.set [] d.fathomCorr page locs }
    if locs.length = 16 ∧ old.length = 15 ∧ !d.qualified page then (d.inc die Reg.RAS_FATHOM_ECC.RETIRED 1).retirePage die page else d
  | _ => d

/-- A sector read with an uncorrectable error (R204, R229, R603, R606). -/
def Dev.eccUncorrectable (d : Dev) (pa : Nat) : Dev :=
  match d.region pa with
  | .stacked =>
    let (idx, da) := d.stackedPlace pa
    let die := idx + 2
    let d := ((d.setPoison (pa / 32) true).inc die Reg.MEMC_ECC.UNCORR 1).raiseErr die 0
    let d := if d.rd die Reg.MEMC_ERR_ADDR.VALID = 1 then d
      else (((d.wr die Reg.MEMC_ERR_ADDR.VALID 1).wr die Reg.MEMC_ERR_ADDR.CHANNEL (channelOf da)).wr die Reg.MEMC_ERR_ADDR.BANK (bankOf da)).wr die
        Reg.MEMC_ERR_ADDR.ADDR (pa / 32 * 32)
    d.rowFail die (channelOf da) (bankOf da) (rowOf da)
  | .fathom =>
    let die := d.homeDie pa
    let page := d.pageIndex pa
    let s := pa / 64 * 2
    let d := (((d.setPoison s true).setPoison (s + 1) true).inc die Reg.RAS_FATHOM_ECC.UNCORR 1).raiseErr die 0
    if d.qualified page then d else (d.inc die Reg.RAS_FATHOM_ECC.RETIRED 1).retirePage die page
  | _ => d

/-- Counts the detections that are due (R204, R606); writing the repair log may meet others. `fuel` bounds them. -/
def Dev.settleUpTo : Nat → Dev → Dev
  | 0, d => d
  | n + 1, d =>
    match d.findings with
    | [] => d
    | f :: t => Dev.settleUpTo n (let d : Dev := { d with findings := t }; if f.2 then d.eccUncorrectable f.1 else d.eccCorrected f.1)

/-- Counts the detections that are due. -/
def Dev.settle (d : Dev) : Dev := if d.findings.isEmpty then d else Dev.settleUpTo (8 * d.findings.length + 64) d

end Sys2Proof.Machine
end

