-- ==== Sys2Proof/Machine/HomeAcc.lean ====
section
/-! DEFINITION. Reads and writes of local physical addresses at their homes (R206, R207, R210, R263 to R266). -/

namespace Sys2Proof.Machine

/-- Bytes of the sectors that a piece of a line touches (R263). -/
def sectorBytes (off k : Nat) : Nat := alignUp (off + k) 32 - alignDown off 32

/-- A request is refused at a home where the partition's budget is zero, but for pages of the device (R266). -/
def Dev.refused (d : Dev) (q : Rq) (pa : Nat) : Bool :=
  q.part < 16 && d.budget (d.homeDie pa) q.part = 0 && d.ownerOf (d.pageIndex pa) ≠ 0xFE

/-- Serves a read of a piece of a line at its home (R207, R210), charged (R263). NO_ALLOC concerns chain caches and the mover's writes alone (R101, R248). -/
def Dev.homeReadSeg (d : Dev) (q : Rq) (line off k : Nat) : List PByte × Dev :=
  let pa := line * 128 + off
  let d := d.recallClean line
  let die := d.homeDie pa
  let d := d.chargeBytes die q.part (sectorBytes off k) pa
  let asked := (List.range 4).filter (fun s => off < 32 * (s + 1) && 32 * s < off + k)
  let out := fun (d : Dev) => ((d.homeView line).drop off).take k
  match d.region (line * 128) with
  | .stacked =>
    let (_, da) := d.stackedPlace (line * 128)
    let set := sysSet da
    let c := d.sysc die
    (match c.find set line with
      | some w =>
        let f := (c.line set w).flaws off k
        let d := d.setSysc die ((f.foldl (fun (c : Cache) e => c.eccAt set w e.1 e.2) c).touch set w)
        let d := if f.any (·.2) then d.raiseErr die 2 else d
        (out d, d)
      | none =>
        let elig := d.sysElig die q.part
        let covered := match d.wcbFind die (channelOf da) line with
          | some e => e.patch
          | none => List.replicate 128 none
        let need := (List.range 4).foldl (fun n s =>
          if (elig ≠ 0 || asked.contains s) && ((covered.drop (32 * s)).take 32).any Option.isNone then n + 2 ^ s else n) 0
        let d := (d.dramRead line need).settle
        let v := d.homeView line
        if elig = 0 then ((v.drop off).take k, d)
        else ((v.drop off).take k,
          (d.syscFill die set elig { valid := true, tag := line, data := lineOf (v.map (·.1)), dirty := 0, poison := viewPoison v, part := q.part }).settle))
  | _ =>
    let d := (d.dramRead line (asked.foldl (fun n s => n + 2 ^ s) 0)).settle
    (out d, d)

/-- Accepts a write of a piece of a line at its home (R206, R210, R211, R241), charged (R263). -/
def Dev.homeWriteSeg (d : Dev) (q : Rq) (line off : Nat) (v : List PByte) : Dev :=
  let pa := line * 128 + off
  let d := (d.recallDrop line).clearResv line
  let d := d.chargeBytes (d.homeDie pa) q.part (sectorBytes off v.length) pa
  (d.homeMerge q.part q.noAlloc line (linePatch off v)).settle

/-- Accepts a masked write of a line at its home, charged by the sectors it touches. -/
def Dev.homeWritePatch (d : Dev) (q : Rq) (line : Nat) (p : List (Option PByte)) : Dev :=
  let d := (d.recallDrop line).clearResv line
  let d := d.chargeBytes (d.homeDie (line * 128)) q.part (32 * popcount (touchedSectors p) 4) (line * 128)
  (d.homeMerge q.part q.noAlloc line p).settle

/-- Poisoned bytes of unknown value, as an access that fails returns (R26). -/
def Dev.poisonBytes (d : Dev) (n : Nat) : List PByte × Dev :=
  let (b, d) := d.freeBytes n
  (b.map (fun x => (x, true)), d)

/-- Kind of the access error that an address meets for an access inside the package, if any (R26, R36, R266, R626). -/
def Dev.accFault (d : Dev) (q : Rq) (pa : Nat) : Option Nat :=
  match d.region pa with
  | .stacked | .fathom => if d.unreached q.die (d.homeDie pa) then some 4 else if d.refused q pa then some 3 else none
  | .scratch p _ => if d.unreached q.die (perchDie p) then some 4 else none
  | _ => some 3

/-- Reads one piece within a line. An access that fails answers poisoned bytes, records the error and tells so (R26). -/
def Dev.readSeg (d : Dev) (q : Rq) (line off k : Nat) : List PByte × Bool × Dev :=
  let pa := line * 128 + off
  match d.accFault q pa with
  | some kind =>
    let (b, d) := (d.accErr q.die kind q pa).poisonBytes k
    (b, true, d)
  | none =>
    match d.region pa with
    | .scratch p o => (d.spadRead p o k, false, d)
    | _ => let (b, d) := d.homeReadSeg q line off k; (b, false, d)

/-- Writes one piece within a line; a failing write is dropped (R26). -/
def Dev.writeSeg (d : Dev) (q : Rq) (line off : Nat) (v : List PByte) : Bool × Dev :=
  let pa := line * 128 + off
  match d.accFault q pa with
  | some kind => (true, d.accErr q.die kind q pa)
  | none =>
    match d.region pa with
    | .scratch p o => (false, d.spadWrite p o v)
    | _ => (false, d.homeWriteSeg q line off v)

/-- Reads `n` bytes from a local physical address: bytes, whether an access error was met, and the device. -/
def Dev.readPa (d : Dev) (q : Rq) (pa n : Nat) : List PByte × Bool × Dev :=
  (lineSegs pa n).foldl (fun r s =>
    let (b, e, d) := r.2.2.readSeg q s.1 s.2.1 s.2.2
    (r.1 ++ b, r.2.1 || e, d)) ([], false, d)

/-- Writes bytes from a local physical address up: whether an access error was met, and the device. -/
def Dev.writePa (d : Dev) (q : Rq) (pa : Nat) (v : List PByte) : Bool × Dev :=
  (lineSegs pa v.length).foldl (fun r s =>
    let (e, d) := r.2.writeSeg q s.1 s.2.1 ((v.drop (s.1 * 128 + s.2.1 - pa)).take s.2.2)
    (r.1 || e, d)) (false, d)

/-- Bytes at their point of coherence, read by the device itself (walks, boot): no charge, no allocation. -/
def Dev.peek (d : Dev) (pa n : Nat) : List PByte :=
  (lineSegs pa n).flatMap (fun s => ((d.cohLine s.1).drop s.2.1).take s.2.2)

end Sys2Proof.Machine
end

