-- ==== Sys2Proof/Machine/Mmu.lean ====
section
/-! DEFINITION. Address translation and protection (R323 to R342): walks of the Sv48 tables, the checks of leaves, TLBs and walk caches, fault records. -/

namespace Sys2Proof.Machine

/-- MMU numbers: a chain MMU is die × 32 + chain; the others stand above (R334). -/
def mmuChain (die chain : Nat) : Nat := die * 32 + chain
def mmuColl (die : Nat) : Nat := 0x1000 + die
def mmuMover (die : Nat) : Nat := 0x1100 + die
def mmuSio : Nat := 0x1200
def mmuHif : Nat := 0x1300
def mmuHart (h : Nat) : Nat := 0x2000 + h

/-- TLB entries of an MMU (R334). The spec gives no size for a core's TLB: as many as the host interface's (assumption 13). -/
def tlbSize (m : Nat) : Nat :=
  if m = mmuSio then 4096 else if 0x1000 ≤ m ∧ m < 0x1200 then 1024 else 2048

/-- Walk-cache entries of an MMU (R334). -/
def walkSize (m : Nat) : Nat := if 0x1000 ≤ m ∧ m < 0x1200 then 128 else 256

/-- Fault types (R348). -/
def ftNotValid : Nat := 1
def ftBadPte : Nat := 2
def ftWalk : Nat := 3
def ftRights : Nat := 4
def ftOwner : Nat := 5
def ftHostWin : Nat := 6
def ftTarget : Nat := 7
def ftNonCanon : Nat := 8
def ftFootprint : Nat := 9

/-- Access codes (R348). -/
def axRead : Nat := 0
def axWrite : Nat := 1
def axAtomic : Nat := 2
def axFetch : Nat := 3

/-- Who translates: MMU, partition, the unit and request codes of R348, the die that records a fault. -/
structure Xq where
  mmu : Nat := 0
  part : Nat := 0
  unit : Nat := 0
  req : Nat := 0
  die : Nat := 0
  deriving DecidableEq, Repr

/-- The access request of the same requester. -/
def Xq.rq (x : Xq) (noAlloc exempt : Bool) : Rq := { part := x.part, unit := x.unit, req := x.req, die := x.die, noAlloc := noAlloc, exempt := exempt }

/-- The package ID of this package (R421). -/
def Dev.pkgId (d : Dev) : Nat := d.rd 0 Reg.LINK_CFG.PKG_ID

/-- A package ID of the charter's topology (R13, R546) that leaves may name: the own ID of a standing spare is none of them (R388; DESIGN CHOICE, assumption 89). -/
def Dev.inTopology (d : Dev) (id : Nat) : Bool := d.charter.topo.slots.any (fun s => s.id = id && s.role ≠ 3)

/-- The scratchpad bitmap of a partition (R258). -/
def Dev.scratchMap (d : Dev) (part : Nat) : Nat := (d.charter.quots.getD part {}).scratch

/-- Records a fault of a die's MMUs (R338, R348 to R351). -/
def Dev.mmuFault (d : Dev) (x : Xq) (type access dva : Nat) : Dev :=
  let d := (d.raiseErr x.die 8).inc x.die (Reg.MMU_FAULT_CNT.LOCAL.at 8 x.part) 1
  if d.rd x.die Reg.MMU_FAULT_INFO.VALID = 1 then d
  else
    (((((((d.wr x.die Reg.MMU_FAULT_INFO.VALID 1).wr x.die Reg.MMU_FAULT_INFO.TYPE type).wr x.die Reg.MMU_FAULT_INFO.ACCESS access).wr x.die
      Reg.MMU_FAULT_INFO.PART x.part).wr x.die Reg.MMU_FAULT_INFO.UNIT x.unit).wr x.die Reg.MMU_FAULT_INFO.REQ x.req).wr x.die
      Reg.MMU_FAULT_DVA.TICK_LO d.tick).wr x.die Reg.MMU_FAULT_DVA.DVA dva

/-- Whether a local page may belong to a partition's leaf, and the fault if not (R324, R330, R341): address and size of the leaf. -/
def Dev.leafFault (d : Dev) (part dva pa size : Nat) : Option Nat :=
  match d.region pa with
  | .stacked | .fathom =>
    if (List.range (2 ^ size / 65536)).all (fun i =>
        (match d.region (pa + i * 65536) with
          | .stacked | .fathom => d.ownerOf (d.pageIndex (pa + i * 65536)) = part
          | _ => false)) then none
    else if (match d.region (pa + 2 ^ size - 1) with
        | .stacked | .fathom => true
        | _ => false) then some ftOwner else some ftTarget
  | .scratch p o => if bit (d.scratchMap part) p ∧ size = 16 ∧ o + 65536 ≤ spadSize then none else some ftOwner
  | .host _ => if pa = dva ∧ !(bootBase ≤ dva ∧ dva < bootBase + 2 ^ 32) then none else some ftHostWin
  | .boot _ => if bootBase ≤ dva ∧ dva < bootBase + 2 ^ 32 then some ftHostWin else some ftTarget
  | _ => if scratchBase ≤ pa ∧ pa < spadBase d.perchCount then some ftOwner else some ftTarget

/-- The checks on a leaf's 54-bit target (R13, R27, R330). -/
def Dev.targetFault (d : Dev) (part dva target size : Nat) : Option Nat :=
  let pkg := target / 2 ^ 48
  if hostBase ≤ dva ∧ (pkg ≠ d.pkgId ∨ target % 2 ^ 48 ≠ dva) then some ftHostWin
  else if pkg = d.pkgId then d.leafFault part dva (target % 2 ^ 48) size
  else if d.inTopology pkg then none
  else some ftTarget

/-- What a table entry is (R326, R327). -/
inductive Pte where
  | fault (type : Nat)
  | table (pa : Nat)
  | leaf (target size rights : Nat)
  deriving DecidableEq, Repr

/-- Reads a table entry at a level, 3 for the root (R326, R327). -/
def readPte (level e : Nat) : Pte :=
  let n := bit e 63
  let r := bit e 1
  let w := bit e 2
  let x := bit e 3
  let ppn := bits e 10 44
  let rights := b2n r + 2 * b2n w + 4 * b2n x + 8 * b2n (bit e 8) + 16 * b2n (bit e 4) + 32 * b2n (bit e 6) + 64 * b2n (bit e 7)
  if !bit e 0 then .fault ftNotValid
  else if (w ∧ !r) ∨ bits e 61 2 ≠ 0 ∨ bits e 54 7 ≠ 0 ∨ bits ppn 42 2 ≠ 0 then .fault ftBadPte
  else if !r ∧ !w ∧ !x then (if n ∨ level = 0 then .fault ftBadPte else .table (ppn * 4096))
  else if level = 3 then .fault ftBadPte
  else if level = 0 then (if n ∧ bits ppn 0 4 = 8 then .leaf (ppn / 16 * 65536) 16 rights else .fault ftBadPte)
  else if n ∨ bits ppn 0 (9 * level) ≠ 0 then .fault ftBadPte
  else .leaf (ppn * 4096) (12 + 9 * level) rights

/-- A table may be read at an address: local stacked or fathom memory owned by the partition (R327, R329). -/
def Dev.tableOk (d : Dev) (part pa : Nat) : Bool :=
  match d.region pa with
  | .stacked | .fathom => d.ownerOf (d.pageIndex pa) = part
  | _ => false

/-- The part of a 64 KiB page that the entry of a DVA serves (R328): all of it where the line of its 16 entries holds 16 like ones, else its 4 KiB. -/
def Dev.leafPart (d : Dev) (entry dva : Nat) : Nat :=
  let l := d.cohLine (entry / 128)
  if (List.range 16).all (fun i => (l.drop (8 * i)).take 8 = l.take 8) then 16 else dva / 4096 % 16

/-- Walks from a table at `level` down, each entry read at its home (R329, R336): the leaf with its first DVA, or the fault type; the pointer entries passed are
listed. A pointer names a table by its league address, of the package `own` that the tables are for (R326). -/
def Dev.walkFrom (d : Dev) (x : Xq) (own dva : Nat) : Nat → Nat → List WalkEntry → Except Nat (TlbEntry × List WalkEntry) × Dev
  | level, table, acc =>
    if !d.tableOk x.part table then (.error ftWalk, d)
    else
      let a := table + bits dva (12 + 9 * level) 9 * 8
      let (b, bad, d) := d.readSeg (x.rq false true) (a / 128) (a % 128) 8
      if bad || anyPoison b then (.error ftWalk, d)
      else match readPte level (leNat (plain b)) with
        | .fault t => (.error t, d)
        | .leaf t size rights =>
          (.ok ({ mmu := x.mmu, part := x.part, dva := alignDown dva (2 ^ size), size := size, target := t, rights := rights,
                  part4k := if size = 16 then d.leafPart a dva else 16 }, acc), d)
        | .table t =>
          let e : WalkEntry := { mmu := x.mmu, part := x.part, dva := alignDown dva (2 ^ (12 + 9 * level)), size := 12 + 9 * level, table := t % 2 ^ 48 }
          match level with
          | 0 => (.error ftBadPte, d)
          | l + 1 => if t / 2 ^ 48 = own then d.walkFrom x own dva l (t % 2 ^ 48) (e :: acc) else (.error ftWalk, d)

/-- The deepest pointer entry that the walk cache holds for an address. -/
def Dev.walkHit (d : Dev) (x : Xq) (dva : Nat) : Option WalkEntry :=
  (sortBy (fun e => e.size) (d.walks.filter (fun e => e.mmu = x.mmu && e.part = x.part && e.dva = alignDown dva (2 ^ e.size)))).head?

/-- Where a walk starts below the root: the level of the table that the walk cache names, and the table. -/
def Dev.walkStart (d : Dev) (x : Xq) (dva : Nat) : Option (Nat × Nat) := (d.walkHit x dva).map (fun e => ((e.size - 12) / 9 - 1, e.table))

/-- Levels of a set's tree: 16 ways in the stream I/O MMU's TLB and in a walk cache, else 8 (R334; assumption 13). -/
def tlbLevels (m : Nat) : Nat := if m = mmuSio then 4 else 3

/-- The set of a leaf in the TLB of its MMU, with the MMU: the lowest bits of its page number (assumption 13). -/
def TlbEntry.index (e : TlbEntry) : Nat := e.mmu * 4096 + e.dva / 2 ^ e.size % (tlbSize e.mmu / 2 ^ tlbLevels e.mmu)

/-- The set of a pointer entry in the walk cache of its MMU, with the MMU (assumption 13). -/
def WalkEntry.index (e : WalkEntry) : Nat := e.mmu * 4096 + e.dva / 2 ^ e.size % (walkSize e.mmu / 16)

/-- The way that a fill takes (R221, R334): the lowest one that is free, or the one that the tree names. -/
def fillWay (levels tree : Nat) (used : List Nat) : Nat :=
  ((List.range (2 ^ levels)).find? (fun w => !used.contains w)).getD (plruPick tree (2 ^ (2 ^ levels) - 1) levels 0 0)

/-- A hit or a fill of a leaf updates its set's tree (R221, R334). -/
def Dev.tlbTouch (d : Dev) (e : TlbEntry) : Dev := { d with tlbTree := KMap.upd 0 d.tlbTree e.index (plruTouch e.way (tlbLevels e.mmu) 0 0) }

/-- Puts a leaf into the TLB of its MMU. -/
def Dev.tlbFill (d : Dev) (e : TlbEntry) : Dev :=
  let mine := d.tlb.filter (fun (y : TlbEntry) => y.index = e.index)
  let e : TlbEntry := { e with way := fillWay (tlbLevels e.mmu) (KMap.get 0 d.tlbTree e.index) (mine.map (·.way)) }
  { d with tlb := d.tlb.filter (fun (y : TlbEntry) => !(y.index = e.index && y.way = e.way)) ++ [e] }.tlbTouch e

/-- A hit or a fill of a pointer entry updates its set's tree (R221, R334). -/
def Dev.walkTouch (d : Dev) (e : WalkEntry) : Dev := { d with walkTree := KMap.upd 0 d.walkTree e.index (plruTouch e.way 4 0 0) }

/-- Puts a pointer entry into the walk cache of its MMU. -/
def Dev.walkFill (d : Dev) (e : WalkEntry) : Dev :=
  let mine := d.walks.filter (fun (y : WalkEntry) => y.index = e.index)
  let e : WalkEntry := { e with way := fillWay 4 (KMap.get 0 d.walkTree e.index) (mine.map (·.way)) }
  { d with walks := d.walks.filter (fun (y : WalkEntry) => !(y.index = e.index && y.way = e.way)) ++ [e] }.walkTouch e

/-- A leaf of a TLB serves an address of a requester (R328, R334). -/
def TlbEntry.serves (e : TlbEntry) (x : Xq) (dva : Nat) : Bool :=
  e.mmu = x.mmu && e.part = x.part && e.dva = alignDown dva (2 ^ e.size) && (e.part4k = 16 || e.part4k = dva / 4096 % 16)

/-- Uses a leaf of the TLB: its target is checked again where an invalidation has completed since the last check, and a leaf that fails leaves (R330, R335). -/
def Dev.useLeaf (d : Dev) (e : TlbEntry) : Except Nat TlbEntry × Dev :=
  if !e.recheck then (.ok e, d)
  else match d.targetFault e.part e.dva e.target e.size with
    | some t => (.error t, { d with tlb := d.tlb.filter (fun y => y ≠ e) })
    | none =>
      let e2 : TlbEntry := { e with recheck := false }
      (.ok e2, { d with tlb := d.tlb.map (fun y => if y = e then e2 else y) })

/-- The leaf of an address from the TLB or by a walk (R334 to R336); a fault leaves nothing cached. How many walkers of an MMU are busy at once is a matter of
time: PEAK takes a free value of 1 to 64 (assumption 13). -/
def Dev.lookup (d : Dev) (x : Xq) (root dva : Nat) : Except Nat TlbEntry × Dev :=
  match d.tlb.find? (fun e => e.serves x dva) with
  | some e => (d.tlbTouch e).useLeaf e
  | none =>
    let (w, d) := d.free
    let d := (d.incMod x.die Reg.MMU_WALK_STATS.WALKS 1).raiseMax x.die Reg.MMU_WALK_STATS.PEAK (w % 64 + 1)
    let start := (d.walkStart x dva).getD (3, root)
    let d := (d.walkHit x dva).elim d d.walkTouch
    match d.walkFrom x d.pkgId dva start.1 start.2 [] with
    | (.error t, d) => (.error t, d)
    | (.ok (e, ptrs), d) =>
      match d.targetFault x.part e.dva e.target e.size with
      | some t => (.error t, d)
      | none => (.ok e, (ptrs.reverse.foldl (fun d p => d.walkFill p) d).tlbFill e)

/-- The rights an access needs, as a mask of R 1, W 2, X 4, AT 8 (R331). -/
def needRights (access : Nat) : Nat := if access = axRead then 1 else if access = axWrite then 2 else if access = axAtomic then 11 else 4

/-- The leaf that serves an access of an engine, or the fault type with the fault recorded (R322 to R338). -/
def Dev.leafFor (d : Dev) (x : Xq) (dva access : Nat) : Except Nat TlbEntry × Dev :=
  let page := alignDown dva 65536
  let fail := fun (d : Dev) (t : Nat) => (Except.error t, d.mmuFault x t access (page % 2 ^ 47))
  if 2 ^ 47 ≤ dva then fail d ftNonCanon
  else if d.rd x.die (Reg.MMU_ROOT.VALID.at 8 x.part) = 0 then fail d ftNotValid
  else
    match d.lookup x (d.rd x.die (Reg.MMU_ROOT.ROOT.at 8 x.part) * 4096) dva with
    | (.error t, d) => fail d t
    | (.ok e, d) => if needRights access &&& e.rights ≠ needRights access then fail d ftRights else (.ok e, d)

/-- Translates one address for an engine: the 54-bit target, or the fault type with the fault recorded. -/
def Dev.translate (d : Dev) (x : Xq) (dva access : Nat) : Except Nat Nat × Dev :=
  match d.leafFor x dva access with
  | (.error t, d) => (.error t, d)
  | (.ok e, d) => (.ok (e.target + (dva - e.dva)), d)

/-- Pieces (DVA, length) of a range by 64 KiB pages; `fuel` bounds the pages. -/
def pageSegsAux : Nat → Nat → Nat → List (Nat × Nat)
  | 0, _, _ => []
  | f + 1, a, n =>
    if n = 0 then []
    else
      let k := min n (65536 - a % 65536)
      (a, k) :: pageSegsAux f (a + k) (n - k)

/-- Pieces of a range by 64 KiB pages. -/
def pageSegs (a n : Nat) : List (Nat × Nat) := pageSegsAux (n / 65536 + 2) a n

/-- Translates a piece of one 64 KiB page: its targets; where its 16 entries differ, each 4 KiB by its own (R328). -/
def Dev.translatePage (d : Dev) (x : Xq) (access dva n : Nat) : Except Nat (List (Nat × Nat)) × Dev :=
  match d.leafFor x dva access with
  | (.error t, d) => (.error t, d)
  | (.ok e, d) =>
    let first := if e.part4k = 16 then n else min n (4096 - dva % 4096)
    (List.range ((n - first + 4095) / 4096)).foldl (fun r i =>
      match r with
      | (.error t, d) => (.error t, d)
      | (.ok acc, d) =>
        let o := first + 4096 * i
        match d.translate x (dva + o) access with
        | (.error t, d) => (.error t, d)
        | (.ok t, d) => (.ok (acc ++ [(t, min 4096 (n - o))]), d)) (.ok [(e.target + (dva - e.dva), first)], d)

/-- Translates a whole range in ascending order (R337): pieces (target, length), or the first fault with the page it names. -/
def Dev.translateRange (d : Dev) (x : Xq) (dva n access : Nat) : Except (Nat × Nat) (List (Nat × Nat)) × Dev :=
  (pageSegs dva n).foldl (fun r s =>
    match r with
    | (.error e, d) => (.error e, d)
    | (.ok acc, d) =>
      match d.translatePage x access s.1 s.2 with
      | (.ok t, d) => (.ok (acc ++ t), d)
      | (.error t, d) => (.error (t, alignDown s.1 65536), d)) (.ok [], d)

/-- Target in this package: the local address of a league system address. -/
def Dev.localOf (d : Dev) (target : Nat) : Option Nat := if target / 2 ^ 48 = d.pkgId then some (target % 2 ^ 48) else none

/-- A home that a range touches holds the partition's requests until the next boundary (R264): its charge has reached a budget that is not zero. Requests that R658
exempts, and lines of device pages, are not held; `skip` names lines that a cache nearer to the requester serves. -/
def Dev.budgetFull (d : Dev) (q : Rq) (skip : Nat → Bool) (target n : Nat) : Bool :=
  match d.localOf target with
  | none => false
  | some pa => !q.exempt && decide (q.part < 16) && (lineSegs pa n).any (fun s =>
      let a := s.1 * 128 + s.2.1
      (match d.region a with
        | .stacked | .fathom =>
          let b := d.budget (d.homeDie a) q.part
          b ≠ 0 && decide (b * 4096 ≤ d.charged (d.homeDie a) q.part) && d.ownerOf (d.pageIndex a) ≠ 0xFE && !skip s.1
        | _ => false))

/-- A core defers recalls of a line that it has reserved (R310). -/
def Dev.recallDeferred (d : Dev) (line : Nat) : Bool := d.harts.any (fun e => e.2.resv = some line && e.2.deferring)

/-- A range touches a line whose recall a core defers (R310). -/
def Dev.deferredAt (d : Dev) (skip : Nat → Bool) (target n : Nat) : Bool :=
  match d.localOf target with
  | none => false
  | some pa => (lineSegs pa n).any (fun s => d.recallDeferred s.1 && !skip s.1)

/-- An access of an engine waits at a home that it touches: for budget (R264), or until a core yields a line (R310). `skip` names lines that it finds nearer. -/
def Dev.homeFull (d : Dev) (q : Rq) (skip : Nat → Bool) (target n : Nat) : Bool := d.budgetFull q skip target n || d.deferredAt skip target n

/-- Reads translated pieces inside the package. Bytes of other packages and of the host window come from `ext`, in order. -/
def Dev.readPieces (d : Dev) (q : Rq) (ext : Ext) : List (Nat × Nat) → List PByte × Bool × Dev
  | ps => (ps.foldl (fun (r : List PByte × Bool × Dev × Nat) p =>
      let (acc, err, d, used) := r
      let outside := fun (_ : Unit) => (acc ++ marked ext.poison (srcList (srcOf 0 ext.bytes) used p.2), err, d, used + p.2)
      match d.localOf p.1 with
      | none => outside ()
      | some pa =>
        match d.region pa with
        | .host _ => outside ()
        | _ =>
          let (b, e, d) := d.readPa q pa p.2
          (acc ++ b, err || e, d, used)) ([], false, d, 0)) |> (fun r => (r.1, r.2.1, r.2.2.1))

/-- Drops what an invalidation names from every MMU (R339): the leaves that satisfy `p`, and the partition's walk-cache entries. -/
def Dev.invalidate (d : Dev) (part : Nat) (p : TlbEntry → Bool) : Dev :=
  { d with tlb := d.tlb.filter (fun e => !(e.part = part && p e)), walks := d.walks.filter (fun e => e.part ≠ part) }

end Sys2Proof.Machine
end

