-- ==== Sys2Proof/Machine/ChainOps.lean ====
section
/-! DEFINITION. The chain caches (R214 to R224): reads through the cache and the side buffer, prefetch, write-through, fills and invalidation. -/

namespace Sys2Proof.Machine

/-- The chain cache of a chain. -/
def Dev.chain (d : Dev) (die chain : Nat) : ChainCache := KMap.get {} d.chains (mmuChain die chain)

/-- Replaces a chain cache. -/
def Dev.setChain (d : Dev) (die chain : Nat) (c : ChainCache) : Dev := { d with chains := KMap.set {} d.chains (mmuChain die chain) c }

/-- A request of a chain as it goes on to a home: NO_ALLOC concerns the chain cache alone (R101). -/
def Rq.atHome (q : Rq) : Rq := { q with noAlloc := false }

/-- A CHAIN register field of a chain (R28). -/
def chainFld (f : Fld) (chain : Nat) : Fld := f.shift (chain * 0x10000)

/-- The chain cache is enabled (R234). -/
def Dev.chainEn (d : Dev) (die chain : Nat) : Bool := d.rd die (chainFld Reg.CHAIN_CTRL.EN chain) = 1

/-- The ways of a chain cache in which a partition may allocate (R216, R222). -/
def Dev.chainElig (d : Dev) (die chain part : Nat) : Nat :=
  clearBits (d.rd die ((chainFld Reg.CHAIN_WAYMASK.MASK chain).at 8 part)) (d.rd die (chainFld Reg.CHAIN_WAYS.DISABLED chain) ||| (d.chain die chain).cache.off)

/-- A read meets the errors of a line that the chain cache holds (R222, R238, R598). -/
def Dev.chainFlaws (d : Dev) (die chain set way off k : Nat) : Dev :=
  ((d.chain die chain).cache.line set way |>.flaws off k).foldl (fun (d : Dev) e =>
    let c := d.chain die chain
    let d := d.setChain die chain { c with cache := c.cache.eccAt set way e.1 e.2 }
    if e.2 then
      (((d.inc die (chainFld Reg.CHAIN_ECC.UNCORR chain) 1).wr die (chainFld Reg.CHAIN_ECC.WAY chain) way).wr die (chainFld Reg.CHAIN_ECC.SET chain) set).raiseErr
        die 2
    else d.inc die (chainFld Reg.CHAIN_ECC.CORR chain) 1) d

/-- Puts a line into the side buffer; the oldest of 32 leaves (R218). -/
def sidePush (l : CLine) (side : List CLine) : List CLine :=
  let s := side ++ [l]
  if 32 < s.length then s.drop 1 else s

/-- Installs a line into a set of the chain cache (R216, R221). -/
def Dev.chainInstall (d : Dev) (die chain part : Nat) (l : CLine) : Dev :=
  let c := d.chain die chain
  match c.cache.fill (chainSet (l.tag * 128)) (d.chainElig die chain part) l with
  | none => d
  | some (_, k) => d.setChain die chain { c with cache := k }

/-- A line that the chain holds, in the cache or the side buffer. -/
def ChainCache.holds (c : ChainCache) (line : Nat) : Bool :=
  (c.cache.find (chainSet (line * 128)) line).isSome || c.side.any (fun l => l.tag = line)

/-- Starts a fill of a line (R218, R220): its data is fetched at the home now and installed later. -/
def Dev.startFill (d : Dev) (q : Rq) (die chain line : Nat) (side : Bool) : Dev :=
  let c := d.chain die chain
  if c.holds line ∨ c.fills.any (fun f => f.line = line) ∨ (d.accFault q (line * 128)).isSome then d
  else
    let (v, _, d) := d.readSeg q.atHome line 0 128
    let c := d.chain die chain
    let d := d.setChain die chain { c with fills := c.fills ++ [{ line := line, part := q.part, side := side, data := lineOf (plain v), poison := viewPoison v }] }
    if side then d.incMod die (chainFld Reg.CHAIN_PF.ISSUED chain) 1 else d

/-- Counts a DMA read in CHAIN_HITS; a sequencer's fetch or load is none (R236). -/
def Dev.countRead (d : Dev) (q : Rq) (die : Nat) (f : Fld) : Dev := if q.image then d else d.incMod die f 1

/-- A DMA read missed the chain cache. Where the previous such miss of the same context was on the line before, lines L + 1 and L + 2 are fetched while the
budget has room (R218). -/
def Dev.prefetch (d : Dev) (q : Rq) (die chain ctxKey line : Nat) : Dev :=
  if q.image then d else
  let c := d.chain die chain
  let seq := KMap.get 0 c.lastMiss ctxKey = line ∧ line ≠ 0
  let d := d.setChain die chain { c with lastMiss := KMap.set 0 c.lastMiss ctxKey (line + 1) }
  let room := fun (d : Dev) (l : Nat) => d.charged (d.homeDie (l * 128)) q.part < d.budget (d.homeDie (l * 128)) q.part * 4096
  if seq ∧ d.rd die (chainFld Reg.CHAIN_CTRL.PF_EN chain) = 1 then
    [line + 1, line + 2].foldl (fun d l =>
      match d.region (l * 128) with
      | .stacked | .fathom => if room d l then d.startFill q die chain l true else d
      | _ => d) d
  else d

/-- Reads a piece of a line through the chain cache (R214 to R218): a DMA read, or a fetch or kernel-image load of a sequencer. A miss that may allocate fetches the whole line, another the sectors it needs (R216). `ctxKey` names the context. -/
def Dev.chainReadSeg (d : Dev) (q : Rq) (die chain ctxKey line off k : Nat) : List PByte × Bool × Dev :=
  let c := d.chain die chain
  let set := chainSet (line * 128)
  let hits := chainFld Reg.CHAIN_HITS.HITS chain
  match d.region (line * 128) with
  | .stacked | .fathom =>
    if !d.chainEn die chain then d.readSeg q.atHome line off k
    else match c.cache.find set line with
      | some w =>
        let d := d.chainFlaws die chain set w off k
        let c := d.chain die chain
        let l := c.cache.line set w
        (((lineView l.data l.poison).drop off).take k, false,
          (d.setChain die chain { c with cache := c.cache.touch set w }).countRead q die hits)
      | none =>
        match c.side.find? (fun l => l.tag = line) with
        | some l =>
          let d := (d.countRead q die hits).incMod die (chainFld Reg.CHAIN_PF.USED chain) 1
          let d := d.prefetch q die chain ctxKey line
          let c := d.chain die chain
          let d := if !q.noAlloc ∧ d.chainElig die chain q.part ≠ 0 then
              (d.setChain die chain { c with side := c.side.filter (fun x => x.tag ≠ line) }).chainInstall die chain q.part l
            else d
          (((lineView l.data l.poison).drop off).take k, false, d)
        | none =>
          let d := d.countRead q die (chainFld Reg.CHAIN_HITS.MISSES chain)
          if q.noAlloc ∨ d.chainElig die chain q.part = 0 ∨ c.fills.any (fun f => f.line = line) then
            let (b, e, d) := d.readSeg q.atHome line off k
            (b, e, if e then d else d.prefetch q die chain ctxKey line)
          else
            let (v, e, d) := d.readSeg q.atHome line 0 128
            let b := (v.drop off).take k
            if e then (b, e, d)
            else
              let d := d.prefetch q die chain ctxKey line
              let c := d.chain die chain
              (b, e, d.setChain die chain
                { c with fills := c.fills ++ [{ line := line, part := q.part, data := lineOf (plain v), poison := viewPoison v }] })
  | _ => d.readSeg q.atHome line off k

/-- Reads a range through the chain cache. -/
def Dev.chainRead (d : Dev) (q : Rq) (die chain ctxKey pa n : Nat) : List PByte × Bool × Dev :=
  (lineSegs pa n).foldl (fun r s =>
    let (b, e, d) := r.2.2.chainReadSeg q die chain ctxKey s.1 s.2.1 s.2.2
    (r.1 ++ b, r.2.1 || e, d)) ([], false, d)

/-- Issues one line of DMA writes: the chain's copies are updated, then the home accepts it (R215, R218). -/
def Dev.chainWriteLine (d : Dev) (q : Rq) (die chain line : Nat) (p : List (Option PByte)) : Bool × Dev :=
  match d.accFault q (line * 128) with
  | some kind => (true, d.accErr q.die kind q (line * 128))
  | none =>
    let d := d.homeWritePatch q.atHome line p
    if !d.chainEn die chain then (false, d)
    else
      let c := d.chain die chain
      let set := chainSet (line * 128)
      let merge := fun (l : CLine) => l.overlay p
      let mergeFill := fun (f : Fill) =>
        let v := overlayLine (lineView f.data f.poison) p
        ({ f with data := lineOf (plain v), poison := viewPoison v } : Fill)
      let c : ChainCache := { c with
        side := c.side.map (fun (l : CLine) => if l.tag = line then merge l else l),
        fills := c.fills.map (fun (f : Fill) => if f.line = line then mergeFill f else f) }
      match c.cache.find set line with
      | some w => (false, d.setChain die chain { c with cache := (c.cache.setLine set w (merge (c.cache.line set w))).touch set w })
      | none =>
        let d := d.setChain die chain c
        if p.all Option.isSome ∧ !c.side.any (fun l => l.tag = line) then
          let v := overlayLine (d.dramView line) p
          (false, d.chainInstall die chain q.part { valid := true, tag := line, data := lineOf (plain v), poison := viewPoison v, part := q.part })
        else (false, d)

/-- Drops the copies that a predicate on line and partition names, and keeps the fills in flight that another names from being installed (R219, R220, R300). -/
def Dev.chainDrop (d : Dev) (die chain : Nat) (p : Nat → Nat → Bool) (visited : Fill → Bool) : Dev :=
  let c := d.chain die chain
  d.setChain die chain { c with
    cache := c.cache.dropLines (fun l => p l.tag l.part),
    side := c.side.filter (fun l => !p l.tag l.part),
    fills := c.fills.map (fun f => if visited f then { f with install := false } else f) }

/-- Every copy is dropped and no fill in flight will be installed, as at a change of CHAIN_CTRL.EN; the trees are clear (R221, R224). -/
def Dev.chainClear (d : Dev) (die chain : Nat) : Dev :=
  let c := d.chain die chain
  d.setChain die chain { cache := { c.cache with lines := [], trees := [] } }

/-- A fill arrives (R220, R221): it is installed in the cache or the side buffer unless an invalidation visited its set. -/
def Dev.chainFill (d : Dev) (die chain line : Nat) : Dev :=
  let c := d.chain die chain
  match c.fills.find? (fun f => f.line = line) with
  | none => d
  | some f =>
    let d := d.setChain die chain { c with fills := c.fills.filter (fun g => g.line ≠ line) }
    let l : CLine := { valid := true, tag := line, data := f.data, poison := f.poison, part := f.part }
    let c := d.chain die chain
    if !f.install ∨ c.holds line ∨ !d.chainEn die chain then d
    else if f.side then d.setChain die chain { c with side := sidePush l c.side }
    else d.chainInstall die chain f.part l

end Sys2Proof.Machine
end

