-- ==== Sys2Proof/Machine/Target.lean ====
section
/-! DEFINITION. Writes and reads of translated targets (R289): local memory and scratchpads, the host window, other packages (R308, R312, R398, R404). -/

namespace Sys2Proof.Machine

/-- The host is attached, so its window answers (R513, R514). -/
def Dev.hostOk (d : Dev) : Bool := d.rd 0 Reg.HIF_ATTACH.STATE = 1

/-- The set E of planes toward a package, as a bit set (R402, R430). -/
def Dev.planesTo (d : Dev) (pkg : Nat) : Nat := d.rd 0 (Reg.LINK_ROUTE.PLANES.at 8 pkg)

/-- Dispatch is halted (R614). -/
def Dev.halted (d : Dev) : Bool := d.rd 0 Reg.RAS_PKG.HALTED = 1

/-- A package that requests may be sent to (R404, R411, R413): this package is in service, the route is valid, of the own slice, and a plane carries it. -/
def Dev.remoteUp (d : Dev) (pkg : Nat) : Bool :=
  d.rd 0 Reg.LINK_STATE.LEAGUE = 2 && !d.halted && d.rd 0 (Reg.LINK_ROUTE.VALID.at 8 pkg) = 1
    && d.rd 0 (Reg.LINK_ROUTE.SLICE.at 8 pkg) = d.rd 0 Reg.LINK_CFG.SLICE && d.planesTo pkg ≠ 0

/-- The die of an agent. -/
def Agent.die : Agent → Nat
  | .dma p _ _ => perchDie p
  | .susp _ p _ _ => perchDie p
  | .hart h => h / 64
  | .mover die _ => die
  | .hif _ => 0
  | .coll die _ _ _ _ => die

/-- A write of a die toward a package that requests may not be sent to is dropped (R404); where the route is valid and of the own slice, the package is unreachable
and the write is declared lost (R312, R413, R609). -/
def Dev.dropWrite (d : Dev) (die pkg : Nat) : Dev :=
  let d := d.inc 0 Reg.LINK_DROP.FENCED 1
  if d.rd 0 (Reg.LINK_ROUTE.VALID.at 8 pkg) = 1 ∧ d.rd 0 (Reg.LINK_ROUTE.SLICE.at 8 pkg) = d.rd 0 Reg.LINK_CFG.SLICE then
    (d.inc 0 Reg.LINK_LOSS.LOST_WR 1).raiseErr die 10
  else d

/-- A request or response packet of this package (R398). -/
def Dev.packetTo (d : Dev) (type pkg part tag addr len : Nat) : Packet :=
  { type := type, poison := false, masked := false, srcPkg := d.pkgId, dstPkg := pkg, slice := d.rd 0 Reg.LINK_CFG.SLICE,
    epoch := d.rd 0 Reg.LINK_EPOCH.OWN, partition := part, tag := tag, addr := addr, len := len, status := 0, mask := 0, payload := [] }

/-- Pieces (address, length) of a range by 256 B granules (R399); `fuel` bounds the pieces. -/
def granuleSegsAux : Nat → Nat → Nat → List (Nat × Nat)
  | 0, _, _ => []
  | f + 1, a, n =>
    if n = 0 then []
    else
      let k := min n (256 - a % 256)
      (a, k) :: granuleSegsAux f (a + k) (n - k)

/-- Pieces of a range by granules. -/
def granuleSegs (a n : Nat) : List (Nat × Nat) := granuleSegsAux (n / 256 + 2) a n

/-- A read of a range of a package that cannot be reached: each of its packets counts, and poisoned data come (R404, R426). -/
def Dev.dropRead (d : Dev) (target n : Nat) : List PByte × Dev := (d.inc 0 Reg.LINK_LOSS.POISON_RD (granuleSegs target n).length).poisonBytes n

/-- Pairs the first `n` bytes of destination pieces with a source piece: its destination targets, and the pieces left. `fuel` bounds the pieces. -/
def splitDest : Nat → Nat → List (Nat × Nat) → List (Nat × Nat) × List (Nat × Nat)
  | 0, _, ds => ([], ds)
  | _, _, [] => ([], [])
  | f + 1, n, (t, k) :: ds =>
    if n = 0 then ([], (t, k) :: ds)
    else if k ≤ n then
      let r := splitDest f (n - k) ds
      ((t, k) :: r.1, r.2)
    else ([(t, n)], (t + n, k - n) :: ds)

/-- Takes the next request tag (R398: 16 bits). -/
def Dev.takeTag (d : Dev) : Nat × Dev := (d.nextTag, { d with nextTag := (d.nextTag + 1) % 65536 })

/-- The planes of a bit set, rising. -/
def planeList (e : Nat) : List Nat := numsBelow 8 (fun i => bit e i)

/-- Element `n` modulo the number of planes (R402). -/
def planePick (e n : Nat) : Nat := let l := planeList e; l.getD (n % l.length) 0

/-- The hash of an address (R402). -/
def planeHash (addr : Nat) : Nat := bits addr 7 7 ^^^ bits addr 14 7 ^^^ bits addr 21 7

/-- Sends a packet on a plane; a halted package sends nothing (R614). Plane 4 i + k is port k of steward die i (R385, R420). -/
def Dev.sendPlane (d : Dev) (plane : Nat) (p : Packet) : Dev := if d.halted then d else d.emit (.packet (plane / 4) (plane % 4) p)

/-- Issues a request: on its plane at once, or held while requests of an older set of planes toward the package are unanswered (R402, R403). -/
def Dev.issueRemote (d : Dev) (agent : Agent) (p : Packet) (len : Nat) (isRead : Bool) (dest : List (Nat × Nat)) : Dev :=
  let wait := d.remote.any (fun o => o.pkg = p.dstPkg && (o.old || o.held.isSome))
  let plane := planePick (d.planesTo p.dstPkg) (planeHash p.addr)
  let op : RemoteOp := { tag := p.tag, agent := agent, pkg := p.dstPkg, addr := p.addr, len := len, isRead := isRead, dest := dest, plane := plane,
                         held := if wait then some p else none }
  let d : Dev := { d with remote := d.remote ++ [op] }
  if wait then d else d.sendPlane plane p

/-- Sends the requests that were held toward a package once none of an older set of planes is left (R403). -/
def Dev.releaseHeld (d : Dev) (pkg : Nat) : Dev :=
  if d.remote.any (fun o => o.pkg = pkg && o.old) then d
  else (d.remote.filter (fun o => o.pkg = pkg && o.held.isSome)).foldl (fun (d : Dev) (o : RemoteOp) =>
    match o.held with
    | none => d
    | some p =>
      let plane := planePick (d.planesTo pkg) (planeHash p.addr)
      let d : Dev := { d with remote := d.remote.map (fun x => if x.tag = o.tag then { x with held := none, plane := plane } else x) }
      d.sendPlane plane p) d

/-- Sends one remote write and holds it until it is acknowledged or lost (R312). -/
def Dev.remoteWriteOne (d : Dev) (agent : Agent) (part target : Nat) (v : List PByte) : Dev :=
  let (tag, d) := d.takeTag
  let p := d.packetTo 2 (target / 2 ^ 48) part tag target v.length
  d.issueRemote agent { p with poison := anyPoison v, payload := plain v } v.length false []

/-- Sends a range of remote writes: the number of lines lost at once because the package cannot be reached (R404), and the device. -/
def Dev.remoteWrite (d : Dev) (agent : Agent) (part target : Nat) (v : List PByte) : Nat × Dev :=
  (granuleSegs target v.length).foldl (fun r s =>
    if r.2.remoteUp (target / 2 ^ 48) then
      (r.1, r.2.remoteWriteOne agent part s.1 ((v.drop (s.1 - target)).take s.2))
    else (r.1 + (lineSegs s.1 s.2).length, r.2.dropWrite agent.die (target / 2 ^ 48))) (0, d)

/-- Sends one remote read whose data go to `dest` (target, length) when they come (R308, R399). -/
def Dev.remoteReadOne (d : Dev) (agent : Agent) (part target len : Nat) (dest : List (Nat × Nat)) : Dev :=
  let (tag, d) := d.takeTag
  d.issueRemote agent (d.packetTo 1 (target / 2 ^ 48) part tag target len) len true dest

/-- Writes clean or poisoned bytes to a local address: through a chain cache where `chain` names one (die, chain), else at the home. -/
def Dev.writeLocal (d : Dev) (q : Rq) (chain : Option (Nat × Nat)) (pa : Nat) (v : List PByte) : Bool × Dev :=
  match d.region pa, chain with
  | .host iova, _ =>
    if d.hostOk then (false, d.emit (.pcieWrite iova (plain v))) else (true, d.accErr q.die 3 q pa)
  | .stacked, some (die, ch) | .fathom, some (die, ch) =>
    (lineSegs pa v.length).foldl (fun r s =>
      let (e, d) := r.2.chainWriteLine q die ch s.1 (linePatch s.2.1 ((v.drop (s.1 * 128 + s.2.1 - pa)).take s.2.2))
      (r.1 || e, d)) (false, d)
  | _, _ => d.writePa q pa v

/-- Writes to a 54-bit target: an access error was met, lines lost at once, and the device. -/
def Dev.writeTarget (d : Dev) (agent : Agent) (q : Rq) (chain : Option (Nat × Nat)) (target : Nat) (v : List PByte) : Bool × Nat × Dev :=
  match d.localOf target with
  | some pa => let (e, d) := d.writeLocal q chain pa v; (e, 0, d)
  | none => let (n, d) := d.remoteWrite agent q.part target v; (false, n, d)

/-- Reads a local address: through a chain cache where `chain` names one (die, chain, context). A host-window read is answered by `ext`. -/
def Dev.readLocal (d : Dev) (q : Rq) (chain : Option (Nat × Nat × Nat)) (ext : Ext) (pa n : Nat) : List PByte × Bool × Dev :=
  match d.region pa, chain with
  | .host _, _ =>
    if d.hostOk then (marked ext.poison (srcList (srcOf 0 ext.bytes) 0 n), false, d)
    else
      let (b, d) := (d.accErr q.die 3 q pa).poisonBytes n
      (b, true, d)
  | .stacked, some (die, ch, ctx) | .fathom, some (die, ch, ctx) => d.chainRead q die ch ctx pa n
  | _, _ => d.readPa q pa n

/-- Writes bytes at translated pieces in order: whether an access error was met. -/
def Dev.writePlaces (d : Dev) (agent : Agent) (q : Rq) (chain : Option (Nat × Nat)) (ps : List (Nat × Nat)) (v : List PByte) : Bool × Dev :=
  (ps.foldl (fun (r : Bool × List PByte × Dev) t =>
    let (e, _, d) := r.2.2.writeTarget agent q chain t.1 (r.2.1.take t.2)
    (r.1 || e, r.2.1.drop t.2, d)) (false, v, d)) |> (fun r => (r.1, r.2.2))

/-- Writes bytes at a DVA, page by page (R659): the DVA that failed, if any. -/
def Dev.dvaWrite (d : Dev) (x : Xq) (agent : Agent) (q : Rq) (chain : Option (Nat × Nat)) (dva : Nat) (v : List PByte) : Option Nat × Dev :=
  (pageSegs dva v.length).foldl (fun r s =>
    match r with
    | (some a, d) => (some a, d)
    | (none, d) =>
      match d.translatePage x axWrite s.1 s.2 with
      | (.error _, d) => (some s.1, d)
      | (.ok ps, d) =>
        let (e, d) := d.writePlaces agent q chain ps ((v.drop (s.1 - dva)).take s.2)
        (if e then some s.1 else none, d)) (none, d)

/-- Asks another package for a range whose bytes `v` the command brings (R308, R399); from a package that cannot be reached come poisoned data (R404). -/
def Dev.fetchRemote (d : Dev) (part target n : Nat) (v : List PByte) : List PByte × Dev :=
  if d.remoteUp (target / 2 ^ 48) then
    (v, (granuleSegs target n).foldl (fun (d : Dev) (g : Nat × Nat) =>
      let (tag, d) := d.takeTag
      d.sendPlane (planePick (d.planesTo (target / 2 ^ 48)) (planeHash g.1)) (d.packetTo 1 (target / 2 ^ 48) part tag g.1 g.2)) d)
  else d.dropRead target n

/-- Reads translated pieces in order: the bytes, and whether an access error was met. Byte `i` comes from byte `i` of `ext` where it stands in the host window or in
another package, which is asked for it. -/
def Dev.readPlaces (d : Dev) (q : Rq) (chain : Option (Nat × Nat × Nat)) (ext : Ext) (ps : List (Nat × Nat)) : List PByte × Bool × Dev :=
  ps.foldl (fun r t =>
    let (acc, bad, d) := r
    match d.localOf t.1 with
    | none =>
      let (b, d) := d.fetchRemote q.part t.1 t.2 (marked ext.poison (srcList (srcOf 0 ext.bytes) acc.length t.2))
      (acc ++ b, bad, d)
    | some pa =>
      let (b, e, d) := d.readLocal q chain { ext with bytes := ext.bytes.drop acc.length } pa t.2
      (acc ++ b, bad || e, d)) ([], false, d)

/-- Reads bytes at a DVA, page by page: the bytes, the DVA that failed, if any. Byte `i` of the range comes from byte `i` of `ext` where it stands in the host
window or in another package, which is asked for it. -/
def Dev.dvaRead (d : Dev) (x : Xq) (q : Rq) (chain : Option (Nat × Nat × Nat)) (ext : Ext) (dva n : Nat) : List PByte × Option Nat × Dev :=
  (pageSegs dva n).foldl (fun r s =>
    match r with
    | (acc, some a, d) => (acc, some a, d)
    | (acc, none, d) =>
      match d.translatePage x axRead s.1 s.2 with
      | (.error _, d) => (acc, some s.1, d)
      | (.ok ps, d) =>
        let (b, e, d) := d.readPlaces q chain { ext with bytes := ext.bytes.drop acc.length } ps
        (acc ++ b, if e then some s.1 else none, d)) ([], none, d)

end Sys2Proof.Machine
end

