-- ==== Sys2Proof/Machine/RasOps.lean ====
section
/-! DEFINITION. Errors that commands bring (R99, R204, R222), and atomic operations at the homes (R309, R499). -/

namespace Sys2Proof.Machine

/-- An ECC finding in a scratchpad word (R99, R124, R600): corrected and counted, or the word poisoned; bank and row by R96. -/
def Dev.spadEcc (d : Dev) (p off : Nat) (uncorr : Bool) : Dev :=
  let e := KMap.get {} d.spadErr p
  if uncorr then
    { d with spadErr := KMap.set {} d.spadErr p { e with uncorr := satAdd 16 e.uncorr 1, bank := bits off 5 5, row := bits off 10 11 },
             spadPoison := KMap.set 0 d.spadPoison ((spadBase p + off) / 8) 1 }.raiseErr (perchDie p) 1
  else { d with spadErr := KMap.set {} d.spadErr p { e with corr := satAdd 32 e.corr 1 } }

/-- An error comes to stand where a read of a local physical address finds the datum: in the scratchpad, in the copy of the chain cache that the read goes
through, in the system cache, or in DRAM (R99, R204, R222). A scratchpad's is met at once. -/
def Dev.foundAt (d : Dev) (chain : Option (Nat × Nat)) (uncorr : Bool) (pa : Nat) : Dev :=
  let line := pa / 128
  let sector := pa % 128 / 32
  let set := chainSet (line * 128)
  let chained := chain.bind (fun k => ((d.chain k.1 k.2).cache.find set line).map (fun w => (k.1, k.2, w)))
  match d.region pa, chained with
  | .scratch p off, _ => d.spadEcc p off uncorr
  | .stacked, some (die, ch, w) | .fathom, some (die, ch, w) =>
    let c := d.chain die ch
    d.setChain die ch { c with cache := c.cache.flawAt set w sector uncorr }
  | .stacked, none =>
    let (idx, da) := d.stackedPlace (line * 128)
    (match (d.sysc (idx + 2)).find (sysSet da) line with
      | some w => d.setSysc (idx + 2) ((d.sysc (idx + 2)).flawAt (sysSet da) w sector uncorr)
      | none => d.setFlaw uncorr pa)
  | .fathom, none => d.setFlaw uncorr pa
  | _, _ => d

/-- The errors that a command brings; `chain` names the chain cache (die, chain) that its reads go through. -/
def Dev.found (d : Dev) (chain : Option (Nat × Nat)) (e : Ecc) : Dev :=
  let d := e.corrected.foldl (fun d a => d.foundAt chain false a) d
  e.uncorrectable.foldl (fun d a => d.foundAt chain true a) d

/-- An AMO (R309, R499): the new value of a word of `w` bits. -/
def amoEval (op : AmoOp) (w old operand compare : Nat) : Nat :=
  let a := old % 2 ^ w
  let b := operand % 2 ^ w
  match op with
  | .swap => b
  | .add => (a + b) % 2 ^ w
  | .xor => a ^^^ b
  | .and => a &&& b
  | .or => a ||| b
  | .min => if toSigned w a < toSigned w b then a else b
  | .max => if toSigned w a < toSigned w b then b else a
  | .minu => min a b
  | .maxu => max a b
  | .cas => if a = compare % 2 ^ w then b else a

/-- An AMO at the home of its line (R210, R241): the old bytes with their marks. -/
def Dev.homeAmo (d : Dev) (q : Rq) (pa n : Nat) (op : AmoOp) (operand compare : Nat) : List PByte × Dev :=
  let line := pa / 128
  let (old, d) := d.homeReadSeg { q with noAlloc := false } line (pa % 128) n
  let new := amoEval op (8 * n) (leNat (plain old)) operand compare
  let d := (d.recallDrop line).clearResv line
  (old, Dev.settle (d.homeMerge q.part false line (linePatch (pa % 128) ((leBytes n new).map (fun b => (b, anyPoison old))))))

/-- The numbers of AMO operations for held requests. -/
def amoOfNat (n : Nat) : AmoOp :=
  match n with
  | 0 => .swap | 1 => .add | 2 => .xor | 3 => .and | 4 => .or | 5 => .min | 6 => .max | 7 => .minu | 8 => .maxu | _ => .cas

/-- Number of an AMO operation. -/
def amoToNat : AmoOp → Nat
  | .swap => 0 | .add => 1 | .xor => 2 | .and => 3 | .or => 4 | .min => 5 | .max => 6 | .minu => 7 | .maxu => 8 | .cas => 9

end Sys2Proof.Machine
end

