-- ==== Sys2Proof/Machine/ArrayFields.lean ====
section
/-! DEFINITION. What the matrix array's commands and its queue show (R141, R142, R150, R165, R168, R171). -/

namespace Sys2Proof.Machine

/-- Fields of the pass descriptor (R141). -/
def pdABase (l : List Byte) : Nat := fld l 0 4
def pdAStride (l : List Byte) : Int := toSigned 32 (fld l 4 4)
def pdDBase (l : List Byte) : Nat := fld l 8 4
def pdDStride (l : List Byte) : Int := toSigned 32 (fld l 12 4)
def pdSaBase (l : List Byte) : Nat := fld l 16 4
def pdSaStride (l : List Byte) : Int := toSigned 32 (fld l 20 4)
def pdMask (l : List Byte) : Nat := fld l 24 4
def pdCtr (l : List Byte) : Nat := fld l 28 1

/-- The pass has a row mask. -/
def ArrCmd.hasMask (c : ArrCmd) : Bool := pdMask c.desc ≠ 0xFFFFFFFF

/-- Row `i` is masked, by the mask words read so far (R150). -/
def ArrCmd.masked (c : ArrCmd) (i : Nat) : Bool := c.hasMask && (c.mask.getD (i / 8) 0).getLsbD (i % 8)

/-- The words of the row mask up to that of group `g` have been read (R151). -/
def ArrCmd.maskRead (c : ArrCmd) (g : Nat) : Bool := !c.hasMask || decide (32 * (g + 1) ≤ c.mask.length)

/-- The feed has read every row of the pass. -/
def ArrCmd.fedAll (c : ArrCmd) : Bool := decide (c.rows ≤ c.next)

/-- Rows are in the PEs or awaiting their write (R171). -/
def ArrCmd.draining (c : ArrCmd) : Bool := decide (0 < c.fed) || (c.zfill && c.hasMask && decide (c.zero < c.rows))

/-- No row is in flight and none is being fed (R165). -/
def Arr.inGap (a : Arr) : Bool := a.inflight.all (fun c => c.fed = 0) && a.queue.all (fun c => c.fed = 0)

/-- The activity of the array stands below 100 % in a gap where a pass is ready (R149, R168): it is the oldest, no load has still to write its plane, and it has
not begun. -/
def Arr.ready (a : Arr) : Bool :=
  match a.queue.find? (fun c => !c.isLoad) with
  | none => false
  | some c => !c.started && (a.queue.takeWhile (·.isLoad)).all (fun x => x.plane ≠ c.plane)

/-- pmxstat (R171). -/
def Arr.stat (a : Arr) : Nat :=
  a.passes % 2 ^ 16 * 2 ^ 16 + b2n a.iovf * 2 ^ 10 + b2n (a.ramp || (decide (a.activity < 4) && a.ready)) * 2 ^ 9 + a.lastPlane % 2 * 2 ^ 8
    + a.queue.length % 8 * 2 ^ 5 + b2n (a.queue.any (·.isLoad)) * 2 ^ 4 + b2n (a.queue.any (fun c => !c.isLoad && c.started)) * 2 ^ 3
    + b2n (a.inflight.any (·.draining) || a.queue.any (fun c => decide (0 < c.fed))) * 2 ^ 2

end Sys2Proof.Machine
end

