-- ==== Sys2Proof/Machine/HartCore.lean ====
section
/-! DEFINITION. CSRs, interrupts and traps of a steward core (R461, R463, R468, R472, R473, R476; the RISC-V privileged architecture and AIA). -/

namespace Sys2Proof.Machine

/-- VLEN and ELEN of a steward core (R461). -/
def stewVlen : Nat := 512

/-- The time CSR (R463): 100 MHz. -/
def Dev.time (d : Dev) : Nat := (d.timeNs + d.elapsed) / 10

/-- A CSR as it is held. -/
def Hart.c (t : Hart) (n : Nat) : Nat := KMap.get 0 t.csr n

/-- Holds a CSR's value. -/
def Hart.setC (t : Hart) (n v : Nat) : Hart := { t with csr := KMap.set 0 t.csr n (v % 2 ^ 64) }

/-- Bits of mstatus that software writes. -/
def mstatusMask : Nat := 0x7E7FAA

/-- Bits of mstatus that sstatus shows. -/
def sstatusMask : Nat := 0xC6722

/-- mstatus: UXL and SXL read 64-bit, SD follows FS and VS. -/
def Hart.mstatus (t : Hart) : Nat :=
  let m := t.c 0x300 &&& mstatusMask
  m + 0xA00000000 + (if bits m 13 2 = 3 ∨ bits m 9 2 = 3 then 2 ^ 63 else 0)

/-- Takes new bits of mstatus; the reserved privilege 2 leaves MPP. -/
def Hart.setMstatus (t : Hart) (v : Nat) : Hart :=
  let v := v &&& mstatusMask
  let v := if bits v 11 2 = 2 then (v - 0x1000) + (bits (t.c 0x300) 11 2 * 2 ^ 11) else v
  t.setC 0x300 v

/-- mpart.VALID and mpart.PART (R468). -/
def Hart.partValid (t : Hart) : Bool := bit (t.c 0x7C0) 63
def Hart.part (t : Hart) : Nat := t.c 0x7C0 % 16

/-- The identity that an interrupt file reports: the lowest pending and enabled one below the threshold (R473, AIA). -/
def Imsic.top (f : Imsic) : Nat :=
  match lowestBit (f.pending &&& f.enabled) 255 1 with
  | some i => if f.threshold = 0 ∨ i < f.threshold then i else 0
  | none => 0

/-- The file signals an interrupt. -/
def Imsic.signal (f : Imsic) : Bool := f.delivery = 1 && f.top ≠ 0

/-- mip (R468, R473, R476): the timers and the files over the bits that are held. -/
def Dev.mip (d : Dev) (t : Hart) : Nat :=
  let h := t.c 0x344
  let h := h &&& (2 ^ 1 + 2 ^ 9 + 2 ^ 34 + 2 ^ 35 + (if bit (t.c 0x30A) 63 then 0 else 2 ^ 5))
  let set := fun (n : Nat) (b : Bool) (i : Nat) => if b then n ||| 2 ^ i else n
  let h := set h (bit (t.c 0x30A) 63 && decide (t.c 0x14D ≤ d.time)) 5
  let h := set h (decide (t.c 0x7C1 ≤ d.time)) 7
  set (set h t.imsicS.signal 9) t.imsicM.signal 11

/-- Interrupts in the default priority order of AIA, of those that a core has. -/
def irqOrder : List Nat := [11, 3, 7, 9, 1, 5, 35, 34]

/-- The first of a set of interrupts in priority order. -/
def irqFirst (m : Nat) : Option Nat := irqOrder.find? (fun i => bit m i)

/-- The interrupt that a core takes now: number, and whether it goes to S mode. -/
def Dev.irqTake (d : Dev) (t : Hart) : Option (Nat × Bool) :=
  let p := d.mip t &&& t.c 0x304
  let m := irqFirst (p &&& (2 ^ 64 - 1 - t.c 0x303))
  let s := irqFirst (p &&& t.c 0x303)
  match m, s with
  | some i, s =>
    if t.priv < 3 ∨ bit (t.c 0x300) 3 then some (i, false)
    else (match s with
      | some j => if t.priv = 0 then some (j, true) else none
      | none => none)
  | none, some j => if t.priv = 0 ∨ (t.priv = 1 ∧ bit (t.c 0x300) 1) then some (j, true) else none
  | none, none => none

/-- A pending interrupt is enabled in mie: it wakes a core (R479). -/
def Dev.irqWakes (d : Dev) (t : Hart) : Bool := d.mip t &&& t.c 0x304 ≠ 0

/-- Where a trap vector leads. -/
def vectorOf (tvec cause : Nat) (irq : Bool) : Nat := alignDown tvec 4 + (if irq ∧ tvec % 4 = 1 then 4 * cause else 0)

/-- Trap entry (RISC-V privileged architecture): the reservation ends (R310), a stall and a WAIT end (R466). -/
def Hart.trap (t : Hart) (irq : Bool) (cause tval : Nat) (toS : Bool) : Hart :=
  let code := cause + (if irq then 2 ^ 63 else 0)
  let m := t.c 0x300
  let t := { t with resv := none, deferring := false, stall := .none, power := 0, got := [] }
  if toS then
    let m' := (m &&& (mstatusMask - 0x122)) + bits m 1 1 * 0x20 + (if t.priv = 1 then 0x100 else 0)
    let t := (((t.setC 0x141 t.core.pc).setC 0x142 code).setC 0x143 tval).setC 0x300 m'
    { t with priv := 1, core := { t.core with pc := vectorOf (t.c 0x105) cause irq } }
  else
    let m' := (m &&& (mstatusMask - 0x1888)) + bits m 3 1 * 0x80 + t.priv * 0x800
    let t := (((t.setC 0x341 t.core.pc).setC 0x342 code).setC 0x343 tval).setC 0x300 m'
    { t with priv := 3, core := { t.core with pc := vectorOf (t.c 0x305) cause irq } }

/-- A synchronous exception, delegated by medeleg from S and U mode. -/
def Hart.except (t : Hart) (cause tval : Nat) : Hart := t.trap false cause (tval % 2 ^ 64) (t.priv ≤ 1 && bit (t.c 0x302) cause)

/-- The same for a core by number. -/
def Dev.hartTrap (d : Dev) (h cause tval : Nat) : Dev := d.updHart h (fun t => t.except cause tval)

/-- MRET. -/
def Hart.mret (t : Hart) : Hart :=
  let m := t.c 0x300
  let mpp := bits m 11 2
  let m' := (m &&& (mstatusMask - 0x1888 - (if mpp = 3 then 0 else 0x20000))) + bits m 7 1 * 8 + 0x80
  { (t.setC 0x300 m') with priv := mpp, core := { t.core with pc := t.c 0x341 } }

/-- SRET. -/
def Hart.sret (t : Hart) : Hart :=
  let m := t.c 0x300
  let m' := (m &&& (mstatusMask - 0x122 - 0x20000)) + bits m 5 1 * 2 + 0x20
  { (t.setC 0x300 m') with priv := bits m 8 1, core := { t.core with pc := t.c 0x141 } }

/-- The eip or eie word that an indirect register number names: eip 0x80 to 0xBF, eie 0xC0 to 0xFF, even numbers. -/
def Imsic.readReg (f : Imsic) (n : Nat) : Option Nat :=
  if n = 0x70 then some f.delivery
  else if n = 0x72 then some f.threshold
  else if 0x80 ≤ n ∧ n < 0xC0 ∧ n % 2 = 0 then some (f.pending / 2 ^ (32 * (n - 0x80)) % 2 ^ 64)
  else if 0xC0 ≤ n ∧ n < 0x100 ∧ n % 2 = 0 then some (f.enabled / 2 ^ (32 * (n - 0xC0)) % 2 ^ 64)
  else if 0x30 ≤ n ∧ n < 0x40 ∧ n % 2 = 0 then some 0
  else none

/-- A 64-bit word of a bitmap of identities 1 to 255 takes a value. -/
def setWord64 (m i v : Nat) : Nat :=
  (m - bits m (64 * i) 64 * 2 ^ (64 * i) + v % 2 ^ 64 * 2 ^ (64 * i)) &&& (2 ^ 256 - 2)

/-- Writes an indirect register of an interrupt file. -/
def Imsic.writeReg (f : Imsic) (n v : Nat) : Option Imsic :=
  if n = 0x70 then some (if v ≤ 1 then { f with delivery := v } else f)
  else if n = 0x72 then some { f with threshold := v % 256 }
  else if 0x80 ≤ n ∧ n < 0xC0 ∧ n % 2 = 0 then some { f with pending := if n < 0x88 then setWord64 f.pending ((n - 0x80) / 2) v else f.pending }
  else if 0xC0 ≤ n ∧ n < 0x100 ∧ n % 2 = 0 then some { f with enabled := if n < 0xC8 then setWord64 f.enabled ((n - 0xC0) / 2) v else f.enabled }
  else if 0x30 ≤ n ∧ n < 0x40 ∧ n % 2 = 0 then some f
  else none

/-- The value of mtopei or stopei. -/
def Imsic.topei (f : Imsic) : Nat := f.top * 65536 + f.top

/-- Claims the identity that the file reports. -/
def Imsic.claim (f : Imsic) : Imsic := if f.top = 0 then f else { f with pending := f.pending - 2 ^ f.top }

/-- mtopi or stopi of a set of pending and enabled interrupts. -/
def topi (m : Nat) : Nat :=
  match irqFirst m with
  | some i => i * 65536 + 1
  | none => 0

/-- COMPAT of mpart: the ordering mode of its partition (R307, R468). -/
def Dev.compat (d : Dev) (part : Nat) : Bool := bit (d.charter.parts.getD part {}).flags 2

/-- misa: RV64 with A, C, D, F, I, M, S, U, V. -/
def misaValue : Nat := 2 ^ 63 + 0x34112D

/-- The core may read a counter CSR of number `i` of its group in its mode. -/
def Hart.counterOk (t : Hart) (i : Nat) : Bool :=
  t.priv = 3 || (bit (t.c 0x306) i && (t.priv = 1 || bit (t.c 0x106) i))

/-- Access to a CSR number is allowed in the core's mode (RISC-V privileged architecture): mode, FS and VS, counters, TVM, Sstc. -/
def Hart.csrOk (t : Hart) (n : Nat) : Bool :=
  let m := t.c 0x300
  decide (bits n 8 2 ≤ t.priv)
    && (!(1 ≤ n && n ≤ 3) || bits m 13 2 ≠ 0)
    && (!((8 ≤ n && n ≤ 15) || (0xC20 ≤ n && n ≤ 0xC22)) || bits m 9 2 ≠ 0)
    && (!(0xC00 ≤ n && n < 0xC20) || t.counterOk (n - 0xC00))
    && (n ≠ 0x180 || t.priv = 3 || !bit m 20)
    && (n ≠ 0x14D || t.priv = 3 || (bit (t.c 0x30A) 63 && bit (t.c 0x306) 1))

/-- A performance counter with a register of its own: 0, 2 to 10. -/
def counterKept (i : Nat) : Bool := i = 0 || (2 ≤ i && i ≤ 10)

/-- Reads a CSR; none where it does not exist or the mode does not allow it. -/
def Dev.hartCsrRead (d : Dev) (h n : Nat) : Option Nat :=
  let t := d.hart h
  let k := t.core
  if !t.csrOk n then none
  else if 0xB00 ≤ n ∧ n < 0xB20 then (if n = 0xB01 then none else some (if counterKept (n - 0xB00) then t.c n else 0))
  else if 0xC00 ≤ n ∧ n < 0xC20 then
    some (if n = 0xC01 then d.time % 2 ^ 64 else if counterKept (n - 0xC00) then t.c (n - 0x100) else 0)
  else if 0x323 ≤ n ∧ n < 0x340 then some (if n ≤ 0x32A then t.c n else 0)
  else if 0x3A0 ≤ n ∧ n < 0x3B0 then (if n = 0x3A0 ∨ n = 0x3A2 then some (t.c n) else if n % 2 = 0 then some 0 else none)
  else if 0x3B0 ≤ n ∧ n < 0x3F0 then
    let mode := bits (t.c (0x3A0 + (n - 0x3B0) / 8 * 2)) (8 * ((n - 0x3B0) % 8) + 3) 2
    some (if n < 0x3C0 then (if 2 ≤ mode then t.c n ||| 0x1FF else alignDown (t.c n) 0x400) else 0)
  else match n with
  | 0x001 => some (k.fcsr % 32)
  | 0x002 => some (bits k.fcsr 5 3)
  | 0x003 => some (k.fcsr % 256)
  | 0x008 => some k.vstart
  | 0x009 => some (k.vxsat % 2)
  | 0x00A => some (k.vxrm % 4)
  | 0x00F => some (k.vxrm % 4 * 2 + k.vxsat % 2)
  | 0xC20 => some k.vl
  | 0xC21 => some (if k.vill then 2 ^ 63 else k.vtype)
  | 0xC22 => some (stewVlen / 8)
  | 0x100 => some (t.mstatus &&& (sstatusMask + 0x200000000 + 2 ^ 63 + 0x600))
  | 0x104 => some (t.c 0x304 &&& t.c 0x303)
  | 0x144 => some (d.mip t &&& t.c 0x303)
  | 0x105 | 0x106 | 0x10A | 0x140 | 0x141 | 0x142 | 0x143 | 0x14D | 0x150 => some (t.c n)
  | 0x151 => t.imsicS.readReg (t.c 0x150)
  | 0x15C => some t.imsicS.topei
  | 0xDB0 => some (topi (d.mip t &&& t.c 0x304 &&& t.c 0x303))
  | 0x180 => some (9 * 2 ^ 60 + t.part * 2 ^ 44 + t.c 0x180 % 2 ^ 44)
  | 0x300 => some t.mstatus
  | 0x301 => some misaValue
  | 0x344 => some (d.mip t)
  | 0x302 | 0x303 | 0x304 | 0x305 | 0x306 | 0x30A | 0x320 | 0x340 | 0x341 | 0x342 | 0x343 | 0x350 => some (t.c n)
  | 0x308 | 0x309 => some 0
  | 0x351 => t.imsicM.readReg (t.c 0x350)
  | 0x35C => some t.imsicM.topei
  | 0xFB0 => some (topi (d.mip t &&& t.c 0x304 &&& (2 ^ 64 - 1 - t.c 0x303)))
  | 0x7C0 => some (b2n t.partValid * 2 ^ 63 + b2n (d.compat t.part) * 256 + t.part)
  | 0x7C1 | 0x7C2 | 0x7C3 | 0x7C4 => some (t.c n)
  | 0xF11 | 0xF12 | 0xF13 | 0xF15 => some 0
  | 0xF14 => some h
  | 0xFC0 => some d.tick
  | _ => none

/-- A write of mpart (R468): after seal PART accepts only a partition whose hart set holds this hart; a write that breaks this changes nothing. -/
def Dev.writeMpart (d : Dev) (h v : Nat) : Dev :=
  if d.sealed ∧ !bit (d.charter.parts.getD (v % 16) {}).harts h then d
  else d.updHart h (fun t => t.setC 0x7C0 (v % 16 + bits v 63 1 * 2 ^ 63))

/-- A write of mlive (R485): the liveness word latches. -/
def Dev.writeMlive (d : Dev) (h v : Nat) : Dev := d.updHart h (fun t => { (t.setC 0x7C2 v) with live := v % 2 ^ 32 * 2 ^ 32 + d.tick % 2 ^ 32 })

/-- A write of mlosterr clears it and LSE (R468, R476). -/
def Dev.writeMlosterr (d : Dev) (h : Nat) : Dev := d.updHart h (fun t => (t.setC 0x7C3 0).setC 0x344 (t.c 0x344 &&& (2 ^ 64 - 1 - 2 ^ 35)))

/-- pmpcfg takes a value byte by byte: a locked entry stays, W without R is reserved, NA4 cannot be chosen with a 4 KiB granule. -/
def pmpcfgWrite (old v : Nat) : Nat :=
  (List.range 8).foldl (fun n i =>
    let o := bits old (8 * i) 8
    let x := bits v (8 * i) 8 &&& 0x9F
    let x := if bits x 3 2 = 2 then x - 0x10 + bits o 3 2 * 8 % 0x10 else x
    let x := if bits x 0 2 = 2 then x - 2 else x
    n + (if bit o 7 then o else x) * 2 ^ (8 * i)) 0

/-- An entry's address register is locked: by itself, or by a locked TOR entry above it. -/
def Hart.pmpLocked (t : Hart) (i : Nat) : Bool :=
  let cfg := fun (j : Nat) => bits (t.c (0x3A0 + j / 8 * 2)) (8 * (j % 8)) 8
  bit (cfg i) 7 || (i < 15 && bit (cfg (i + 1)) 7 && bits (cfg (i + 1)) 3 2 = 1)

/-- Writes a CSR; none where it does not exist, is read-only or the mode does not allow it. -/
def Dev.hartCsrWrite (d : Dev) (h n x : Nat) : Option Dev :=
  let t := d.hart h
  let k := t.core
  let core := fun (k : RvCore) => some (d.updHart h (fun t => { t with core := k }))
  let put := fun (v : Nat) => some (d.updHart h (fun t => t.setC n v))
  let held := fun (mask : Nat) => some (d.updHart h (fun t => t.setC 0x344 ((t.c 0x344 &&& (2 ^ 64 - 1 - mask)) ||| (x &&& mask))))
  if !t.csrOk n ∨ bits n 10 2 = 3 then none
  else if 0xB00 ≤ n ∧ n < 0xB20 then (if n = 0xB01 then none else if counterKept (n - 0xB00) then put x else some d)
  else if 0x323 ≤ n ∧ n < 0x340 then (if n ≤ 0x32A then put x else some d)
  else if 0x3A0 ≤ n ∧ n < 0x3B0 then (if n = 0x3A0 ∨ n = 0x3A2 then put (pmpcfgWrite (t.c n) x) else if n % 2 = 0 then some d else none)
  else if 0x3B0 ≤ n ∧ n < 0x3F0 then (if n < 0x3C0 ∧ !t.pmpLocked (n - 0x3B0) then put (x % 2 ^ 54) else some d)
  else match n with
  | 0x001 => core { k with fcsr := k.fcsr / 32 % 8 * 32 + x % 32 }
  | 0x002 => core { k with fcsr := x % 8 * 32 + k.fcsr % 32 }
  | 0x003 => core { k with fcsr := x % 256 }
  | 0x008 => core { k with vstart := x % stewVlen }
  | 0x009 => core { k with vxsat := x % 2 }
  | 0x00A => core { k with vxrm := x % 4 }
  | 0x00F => core { k with vxsat := x % 2, vxrm := x / 2 % 4 }
  | 0x100 => some (d.updHart h (fun t => t.setMstatus ((t.c 0x300 &&& (mstatusMask - (sstatusMask ||| 0x600))) ||| (x &&& (sstatusMask ||| 0x600)))))
  | 0x104 => some (d.updHart h (fun t => t.setC 0x304 ((t.c 0x304 &&& (2 ^ 64 - 1 - t.c 0x303)) ||| (x &&& t.c 0x303))))
  | 0x144 =>
    let t' := t.c 0x303
    held ((t' &&& 2) ||| (if bit x 34 then 0 else t' &&& 2 ^ 34))
  | 0x105 => put (x - x % 4 + x % 2)
  | 0x106 => put (x % 2 ^ 11)
  | 0x10A => put (x &&& 0x71)
  | 0x140 | 0x142 | 0x143 | 0x14D => put x
  | 0x141 => put (x / 2 * 2)
  | 0x150 => put (x % 256)
  | 0x151 => (t.imsicS.writeReg (t.c 0x150) x).map (fun f => d.updHart h (fun t => { t with imsicS := f }))
  | 0x15C => some (d.updHart h (fun t => { t with imsicS := t.imsicS.claim }))
  | 0x180 => if x / 2 ^ 60 = 9 then put (x % 2 ^ 44) else some d
  | 0x300 => some (d.updHart h (fun t => t.setMstatus x))
  | 0x301 | 0x308 | 0x309 => some d
  | 0x302 => put (x &&& 0xB3FF)
  | 0x303 => put (x &&& (2 ^ 1 + 2 ^ 5 + 2 ^ 9 + 2 ^ 34))
  | 0x304 => put (x &&& (2 ^ 1 + 2 ^ 3 + 2 ^ 5 + 2 ^ 7 + 2 ^ 9 + 2 ^ 11 + 2 ^ 34 + 2 ^ 35))
  | 0x305 => put (x - x % 4 + x % 2)
  | 0x306 => put (x % 2 ^ 11)
  | 0x30A => put (x &&& (2 ^ 63 + 0x71))
  | 0x320 => put (x &&& 0x7FD)
  | 0x340 | 0x342 | 0x343 => put x
  | 0x341 => put (x / 2 * 2)
  | 0x344 => held (2 ^ 1 + 2 ^ 5 + (if t.imsicS.signal then 0 else 2 ^ 9) + (if bit x 34 then 0 else 2 ^ 34))
  | 0x350 => put (x % 256)
  | 0x351 => (t.imsicM.writeReg (t.c 0x350) x).map (fun f => d.updHart h (fun t => { t with imsicM := f }))
  | 0x35C => some (d.updHart h (fun t => { t with imsicM := t.imsicM.claim }))
  | 0x7C0 => some (d.writeMpart h x)
  | 0x7C1 => put x
  | 0x7C2 => some (d.writeMlive h x)
  | 0x7C3 => some (d.writeMlosterr h)
  | 0x7C4 => put (x % 4)
  | _ => none

/-- One more instruction has retired (minstret), unless it is inhibited. -/
def Hart.count (t : Hart) : Hart :=
  let t := { t with got := [] }
  if bit (t.c 0x320) 2 then t else t.setC 0xB02 (t.c 0xB02 + 1)

/-- Matching of a physical address by a PMP entry (RISC-V privileged architecture, 4 KiB granule). -/
def Hart.pmpMatch (t : Hart) (i pa : Nat) : Bool :=
  let cfg := bits (t.c (0x3A0 + i / 8 * 2)) (8 * (i % 8)) 8
  let a := fun (j : Nat) => t.c (0x3B0 + j)
  match bits cfg 3 2 with
  | 1 => (if i = 0 then true else decide (alignDown (a (i - 1)) 0x400 * 4 ≤ pa)) && decide (pa < alignDown (a i) 0x400 * 4)
  | 3 =>
    let x := a i ||| 0x1FF
    let ones := ((List.range 55).find? (fun k => !bit x k)).getD 55
    decide (pa / 2 ^ (ones + 3) = x * 4 / 2 ^ (ones + 3))
  | _ => false

/-- PMP allows an access of a kind (1 read, 2 write, 4 fetch) in a mode. -/
def Hart.pmpOk (t : Hart) (priv pa kind : Nat) : Bool :=
  match (List.range 16).find? (fun i => t.pmpMatch i pa) with
  | some i =>
    let cfg := bits (t.c (0x3A0 + i / 8 * 2)) (8 * (i % 8)) 8
    (priv = 3 && !bit cfg 7) || (cfg &&& kind) = kind
  | none => priv = 3

end Sys2Proof.Machine
end

