-- ==== Sys2Proof/Machine/Schedule.lean ====
section
/-! DEFINITION. The schedule in force (R48 to R53) and the clock of a span: when its slot ends (R53) and when it is displaced (R58). -/

namespace Sys2Proof.Machine

/-- The plan in force (R415, R628). -/
def Dev.planNow (d : Dev) : Nat := d.rd 0 Reg.RAS_PKG.PLAN

/-- The schedule of the plan in force (R48, R555). -/
def Dev.sched (d : Dev) : Sched :=
  match d.charter.plans.find? (fun p => p.plan = d.planNow) with
  | some p => if d.planNow = 0 then d.charter.sched else p.sched
  | none => d.charter.sched

/-- The pattern of a tick (R48). -/
def Sched.patternAt (s : Sched) (t : Nat) : Pattern := s.patterns.getD (t % max 1 s.patterns.length) {}

/-- The span entries of a tick's pattern. -/
def Sched.entriesAt (s : Sched) (t : Nat) : List SpanEntry :=
  let p := s.patternAt t
  (s.spans.drop p.firstSpan).take p.spanCount

/-- The entry of a span in the current pattern. -/
def Dev.entryOf (d : Dev) (span : Nat) : Option SpanEntry := (d.sched.entriesAt d.tick).find? (fun e => e.spanId = span)

/-- Perches of an entry's group as a bitmap (R50). -/
def Dev.groupMap (d : Dev) (e : SpanEntry) : Nat := d.sched.groups.getD e.group 0

/-- Number of perches of a bitmap. -/
def groupSizeOf (g : Nat) : Nat := popcount g 2112

/-- Ordinal of a perch within a bitmap (R50). -/
def ordinalOf (g p : Nat) : Nat := popcount g p

/-- Slot end of an entry on a perch within a pattern (R53). -/
def slotEndOn (s : Sched) (es : List SpanEntry) (e : SpanEntry) (p : Nat) : Nat :=
  (es.filter (fun x => e.startNs < x.startNs && bit (s.groups.getD x.group 0) p)).foldl (fun n x => min n x.startNs) (s.period * 1000 - 20000)

/-- End window in cycles (R53). -/
def endWindow (e : SpanEntry) : Nat := if e.kind = 0 then 2048 else 2048 + e.saveBytes / 64

/-- Perch cycles in so many ns: the clock of OPP n is 900 + 100 n MHz (R65). -/
def Dev.perchCycles (d : Dev) (ns : Nat) : Nat := ns * (9 + d.opp) / 10

/-- ns of so many perch cycles, rounded up. -/
def Dev.cyclesNs (d : Dev) (n : Nat) : Nat := ceilDiv (n * 10) (9 + d.opp)

/-- The time, in ns after the boundary, at which the span that a perch runs is displaced: its slot end minus its end window at the present operating point
(R58). None where its entry does not stand in the pattern of the tick. -/
def Dev.displaceAt (d : Dev) (p : Nat) : Option Nat :=
  (d.entryOf (d.perch p).spanId).map (fun e => slotEndOn d.sched (d.sched.entriesAt d.tick) e p - d.cyclesNs (endWindow e))

/-- The time of displacement has come. -/
def Dev.displaced (d : Dev) (p : Nat) : Bool := (d.displaceAt p).any (fun t => decide (t ≤ d.elapsed))

end Sys2Proof.Machine
end

