-- ==== Sys2Proof/Machine/Clock.lean ====
section
/-! DEFINITION. The passing of time within a tick (R58, R72, R116, R463, R592; assumption 5). -/

namespace Sys2Proof.Machine

/-- A perch runs a span. -/
def Dev.runs? (d : Dev) (p : Nat) : Bool := (d.perch p).pstate = 3 && !d.dieFailed (perchDie p)

/-- The warning interrupt is pending (R91, R116): bit 16 of mip. -/
def mipWarn : Nat := 2 ^ 16

/-- A perch that runs a span for so many cycles (R58, R116): the budget counts down to zero, and the warning becomes pending as the count falls to it. -/
def Perch.runFor (v : Perch) (n : Nat) : Perch :=
  let left := v.remaining - n
  { v with remaining := left, expired := v.expired || decide (v.remaining < n), mcycle := (v.mcycle + n) % 2 ^ 64,
           mip := if v.warn ≠ 0 ∧ v.warn < v.remaining ∧ left ≤ v.warn then v.mip ||| mipWarn else v.mip }

/-- A steward core that runs for so many cycles: mcycle counts unless it is inhibited. -/
def Hart.runFor (t : Hart) (n : Nat) : Hart :=
  if t.running ∧ t.power ≤ 1 ∧ !bit (t.c 0x320) 0 then t.setC 0xB00 (t.c 0xB00 + n) else t

/-- Steward clock in MHz (R592): half of the charter's while STEWARD_HALF is set. -/
def Dev.stewardMhz (d : Dev) (die : Nat) : Nat :=
  if d.rd die Reg.PWR_THERM.STEWARD_HALF = 1 then d.rd 0 Reg.PWR_CTRL.STEWARD_MHZ / 2 else d.rd 0 Reg.PWR_CTRL.STEWARD_MHZ

/-- The part of so many ns in which a perch's span still runs: none of it lies after the displacement of the span (R58). -/
def Dev.slotNs (d : Dev) (p ns : Nat) : Nat :=
  match d.displaceAt p with
  | some t => min ns (t - d.elapsed)
  | none => ns

/-- So many ns pass: running perches and steward cores count their cycles. -/
def Dev.passNs (d : Dev) (ns : Nat) : Dev :=
  { d with elapsed := d.elapsed + ns,
           perches := KMap.mapV {} (fun k p => if d.runs? k then p.runFor (d.perchCycles (d.slotNs k ns)) else p) d.perches,
           harts := KMap.mapV {} (fun k t => t.runFor (ns * d.stewardMhz (k / 64) / 1000)) d.harts }

/-- Time passes until `ns` after the boundary; none where that time is over. -/
def Dev.toTime (d : Dev) (ns : Nat) : Dev := if ns ≤ d.elapsed then d else d.passNs (ns - d.elapsed)

end Sys2Proof.Machine
end

