-- ==== Sys2Proof/Machine/RvVec.lean ====
section
/-! DEFINITION. The vector arithmetic of the two processors (R81: Zve32f, VLEN 2048, ELEN 32; R461: V, VLEN 512, ELEN 64), by the RISC-V V specification,
with vfredusum as an ordered sum (R178). Masked-off and tail elements keep their values (R183 and assumption 7). -/

namespace Sys2Proof.Machine

/-- Rounding increment of fixed-point operations for a right shift by `d` of `v`, by vxrm. -/
def vxRound (vxrm : Nat) (v : Int) (d : Nat) : Int :=
  let q := v / (2 ^ d : Nat)
  let r := (v % (2 ^ d : Nat)).toNat
  if d = 0 then v
  else
    let half := 2 ^ (d - 1)
    let inc : Bool := match vxrm with
      | 0 => half ≤ r
      | 1 => half < r ∨ (r = half ∧ q % 2 = 1)
      | 2 => false
      | _ => r ≠ 0 ∧ q % 2 = 0
    if inc then q + 1 else q

/-- Clamps to a signed or unsigned range of `w` bits; true where it saturated. -/
def vClamp (signed : Bool) (w : Nat) (v : Int) : Nat × Bool :=
  let lo : Int := if signed then -(2 ^ (w - 1) : Nat) else 0
  let hi : Int := if signed then (2 ^ (w - 1) : Nat) - 1 else (2 ^ w : Nat) - 1
  if v < lo then (ofSigned w lo, true) else if hi < v then (ofSigned w hi, true) else (ofSigned w v, false)

/-- An integer element operation with one result of SEW bits: `a` is from vs2, `b` from vs1, rs1 or the immediate, `d` the old vd.
Answers the result and whether it saturated. -/
def vIntOp (w vxrm : Nat) (mop : Bool) (f6 a b d : Nat) : Option (Nat × Bool) :=
  let m := 2 ^ w
  let sa := toSigned w a
  let sb := toSigned w b
  let sd := toSigned w d
  let ua : Int := (a % m : Nat)
  let ub : Int := (b % m : Nat)
  let r := fun (v : Int) => some (ofSigned w v, false)
  if !mop then
    match f6 with
    | 0x00 => r (ua + ub) | 0x02 => r (ua - ub) | 0x03 => r (ub - ua)
    | 0x04 => r (min ua ub) | 0x05 => r (min sa sb) | 0x06 => r (max ua ub) | 0x07 => r (max sa sb)
    | 0x09 => r ((a &&& b : Nat)) | 0x0A => r ((a ||| b : Nat)) | 0x0B => r ((a ^^^ b : Nat))
    | 0x20 => some (vClamp false w (ua + ub)) | 0x21 => some (vClamp true w (sa + sb))
    | 0x22 => some (vClamp false w (ua - ub)) | 0x23 => some (vClamp true w (sa - sb))
    | 0x25 => r ((a * 2 ^ (b % w) : Nat))
    | 0x27 => some (vClamp true w (vxRound vxrm (sa * sb) (w - 1)))
    | 0x28 => r ((a % m / 2 ^ (b % w) : Nat)) | 0x29 => r (sa / (2 ^ (b % w) : Nat))
    | 0x2A => r (vxRound vxrm ua (b % w)) | 0x2B => r (vxRound vxrm sa (b % w))
    | _ => none
  else
    match f6 with
    | 0x08 => r (vxRound vxrm (ua + ub) 1) | 0x09 => r (vxRound vxrm (sa + sb) 1)
    | 0x0A => r (vxRound vxrm (ua - ub) 1) | 0x0B => r (vxRound vxrm (sa - sb) 1)
    | 0x20 => some (aluEval w .divu a b, false) | 0x21 => some (aluEval w .div a b, false)
    | 0x22 => some (aluEval w .remu a b, false) | 0x23 => some (aluEval w .rem a b, false)
    | 0x24 => r (ua * ub / (m : Nat)) | 0x25 => r (ua * ub) | 0x26 => r (sa * ub / (m : Nat)) | 0x27 => r (sa * sb / (m : Nat))
    | 0x29 => r (sb * sd + sa) | 0x2B => r (-(sb * sd) + sa) | 0x2D => r (sb * sa + sd) | 0x2F => r (-(sb * sa) + sd)
    | _ => none

/-- A widening integer operation: result of 2 × SEW bits; `d` is the old wide vd; in the .w forms `a` is wide. -/
def vWideOp (w f6 a b d : Nat) : Option Nat :=
  let w2 := 2 * w
  let sa := toSigned w a
  let sb := toSigned w b
  let ua : Int := (a % 2 ^ w : Nat)
  let ub : Int := (b % 2 ^ w : Nat)
  let wa : Int := (a % 2 ^ w2 : Nat)
  let di : Int := (d : Nat)
  let r := fun (v : Int) => some (ofSigned w2 v)
  match f6 with
  | 0x30 => r (ua + ub) | 0x31 => r (sa + sb) | 0x32 => r (ua - ub) | 0x33 => r (sa - sb)
  | 0x34 => r (wa + ub) | 0x35 => r (wa + sb) | 0x36 => r (wa - ub) | 0x37 => r (wa - sb)
  | 0x38 => r (ua * ub) | 0x3A => r (sa * ub) | 0x3B => r (sa * sb)
  | 0x3C => r (di + ub * ua) | 0x3D => r (di + sb * sa) | 0x3E => r (di + ub * sa) | 0x3F => r (di + sb * ua)
  | _ => none

/-- A narrowing shift or clip: `a` has 2 × SEW bits. -/
def vNarrowOp (w vxrm f6 a b : Nat) : Option (Nat × Bool) :=
  let sh := b % (2 * w)
  let sa := toSigned (2 * w) a
  let ua : Int := (a % 2 ^ (2 * w) : Nat)
  match f6 with
  | 0x2C => some (ofSigned w (ua / (2 ^ sh : Nat)), false)
  | 0x2D => some (ofSigned w (sa / (2 ^ sh : Nat)), false)
  | 0x2E => some (vClamp false w (vxRound vxrm ua sh))
  | 0x2F => some (vClamp true w (vxRound vxrm sa sh))
  | _ => none

/-- A comparison of integers. -/
def vCmpOp (w f6 a b : Nat) : Option Bool :=
  let m := 2 ^ w
  let sa := toSigned w a
  let sb := toSigned w b
  match f6 with
  | 0x18 => some (a % m = b % m) | 0x19 => some (a % m ≠ b % m)
  | 0x1A => some (a % m < b % m) | 0x1B => some (sa < sb)
  | 0x1C => some (a % m ≤ b % m) | 0x1D => some (sa ≤ sb)
  | 0x1E => some (b % m < a % m) | 0x1F => some (sb < sa)
  | _ => none

/-- One step of an integer reduction. -/
def vRedOp (w f6 acc a : Nat) : Option Nat :=
  match f6 with
  | 0 => some (aluEval w .add acc a) | 1 => some (acc &&& a) | 2 => some (acc ||| a) | 3 => some (acc ^^^ a)
  | 4 => some (aluEval w .minu acc a) | 5 => some (aluEval w .min acc a) | 6 => some (aluEval w .maxu acc a) | 7 => some (aluEval w .max acc a)
  | _ => none

/-- Estimate of the reciprocal square root to 7 bits (vfrsqrt7). -/
def rsqrt7 (f : FFmt) (a : Nat) : Nat × Nat :=
  match f.decode a with
  | .nan s => (f.nanCode, if s then flNV else 0)
  | .inf s => if s then (f.nanCode, flNV) else (0, 0)
  | .fin s m e =>
    if m = 0 then ((if s then 2 ^ (f.ebits + f.mbits) else 0) + f.infCode, flDZ)
    else if s then (f.nanCode, flNV)
    else
      let l := bitLen m
      let frac := if 7 < l then m / 2 ^ (l - 7) % 64 else m * 2 ^ (7 - l) % 64
      let ex : Int := e + (l : Int) - 1
      let odd := ex % 2 = 1
      let num := 129 + 2 * frac
      let den := if odd then 64 else 128
      let sig := ((List.range 128).filter (fun t => (2 * (128 + t) - 1) * (2 * (128 + t) - 1) * num ≤ 262144 * den)).length - 1
      let oe : Int := (-1 - ex) / 2
      f.round rmRTZ false (128 + sig) (oe - 7) false

/-- Estimate of the reciprocal to 7 bits (vfrec7). -/
def rec7 (f : FFmt) (rm a : Nat) : Nat × Nat :=
  match f.decode a with
  | .nan s => (f.nanCode, if s then flNV else 0)
  | .inf s => (if s then 2 ^ (f.ebits + f.mbits) else 0, 0)
  | .fin s m e =>
    let sg := if s then 2 ^ (f.ebits + f.mbits) else 0
    if m = 0 then (sg + f.infCode, flDZ)
    else
      let l := bitLen m
      let frac := if 8 < l then m / 2 ^ (l - 8) % 128 else m * 2 ^ (8 - l) % 128
      let ex : Int := e + (l : Int) - 1
      let sig := (256 * (255 - 2 * frac) + (257 + 2 * frac)) / (2 * (257 + 2 * frac))
      let oe : Int := -1 - ex
      if (f.bias : Int) < oe then (f.overflow rm s, flOF + flNX)
      else ((f.round rmRTZ s (128 + sig) (oe - 7) false).1, 0)

/-- A floating element operation with SEW results: `a` from vs2, `b` from vs1 or f[rs1], `d` the old vd. -/
def vFpOp (f : FFmt) (rm f6 a b d : Nat) : Option (Nat × Nat) :=
  let sgn := 2 ^ (f.ebits + f.mbits)
  match f6 with
  | 0x00 => some (f.addOp rm a b) | 0x02 => some (f.subOp rm a b) | 0x27 => some (f.subOp rm b a)
  | 0x04 => some (f.minMaxOp false a b) | 0x06 => some (f.minMaxOp true a b)
  | 0x08 => some (a % sgn + b / sgn % 2 * sgn, 0)
  | 0x09 => some (a % sgn + (1 - b / sgn % 2) * sgn, 0)
  | 0x0A => some (a % sgn + (a / sgn + b / sgn) % 2 * sgn, 0)
  | 0x20 => some (f.divOp rm a b) | 0x21 => some (f.divOp rm b a) | 0x24 => some (f.mulOp rm a b)
  | 0x28 => some (f.fmaOp rm b d a) | 0x29 => some (f.fmaOp rm (f.flipSign b) d (f.flipSign a))
  | 0x2A => some (f.fmaOp rm b d (f.flipSign a)) | 0x2B => some (f.fmaOp rm (f.flipSign b) d a)
  | 0x2C => some (f.fmaOp rm b a d) | 0x2D => some (f.fmaOp rm (f.flipSign b) a (f.flipSign d))
  | 0x2E => some (f.fmaOp rm b a (f.flipSign d)) | 0x2F => some (f.fmaOp rm (f.flipSign b) a d)
  | _ => none

/-- A widening floating operation from `f` to `g`; in the .w forms `a` is wide. -/
def vFpWideOp (f g : FFmt) (rm f6 a b d : Nat) : Option (Nat × Nat) :=
  let up := fun n => f.convert g rm n
  let (a', f1) := up a
  let (b', f2) := up b
  let j := fun (p : Nat × Nat) (fl : Nat) => some (p.1, p.2 ||| fl)
  match f6 with
  | 0x30 => j (g.addOp rm a' b') (f1 ||| f2) | 0x32 => j (g.subOp rm a' b') (f1 ||| f2)
  | 0x34 => j (g.addOp rm a b') f2 | 0x36 => j (g.subOp rm a b') f2
  | 0x38 => j (g.mulOp rm a' b') (f1 ||| f2)
  | 0x3C => j (g.fmaOp rm b' a' d) (f1 ||| f2) | 0x3D => j (g.fmaOp rm (g.flipSign b') a' (g.flipSign d)) (f1 ||| f2)
  | 0x3E => j (g.fmaOp rm b' a' (g.flipSign d)) (f1 ||| f2) | 0x3F => j (g.fmaOp rm (g.flipSign b') a' d) (f1 ||| f2)
  | _ => none

/-- A floating comparison. -/
def vFpCmp (f : FFmt) (f6 a b : Nat) : Option (Bool × Nat) :=
  match f6 with
  | 0x18 => some (f.eqOp a b) | 0x19 => some (f.leOp a b) | 0x1B => some (f.ltOp a b)
  | 0x1C => let (r, fl) := f.eqOp a b; some (!r, fl)
  | 0x1D => some (f.ltOp b a) | 0x1F => some (f.leOp b a)
  | _ => none

/-- The floating format of an element width on a processor with ELEN `elen`. -/
def vFmt (elen w : Nat) : Option FFmt :=
  if w = 32 then some fmtF32 else if w = 64 ∧ elen = 64 then some fmtF64 else none

/-- The context of one vector instruction. -/
structure VCtx where
  vlen : Nat
  elen : Nat
  core : RvCore
  vm : Bool
  deriving DecidableEq, Repr

/-- Applies `f` to each active body element in rising order: it answers the element's result, its flags and whether it saturated. -/
def vMap (c : VCtx) (w vd : Nat) (f : Nat → Option (Nat × Nat × Bool)) : Option RvCore :=
  let old := c.core
  (List.range old.vl).foldl (fun acc i => acc.bind (fun k =>
    if i < old.vstart ∨ !old.active c.vm i then some k
    else (f i).map (fun r =>
      let k := (k.setElem c.vlen w vd i r.1).addFlags r.2.1
      if r.2.2 then { k with vxsat := 1 } else k))) (some old)

/-- Applies `f` to each active body element and writes mask bits. -/
def vMapMask (c : VCtx) (vd : Nat) (f : Nat → Option (Bool × Nat)) : Option RvCore :=
  let old := c.core
  (List.range old.vl).foldl (fun acc i => acc.bind (fun k =>
    if i < old.vstart ∨ !old.active c.vm i then some k
    else (f i).map (fun r => (k.setMaskBit vd i r.1).addFlags r.2))) (some old)

/-- Folds the active elements of vs2 from an initial value. -/
def vFold {β : Type} (c : VCtx) (init : β) (f : β → Nat → Option β) : Option β :=
  (List.range c.core.vl).foldl (fun acc i => acc.bind (fun b => if c.core.active c.vm i then f b i else some b)) (some init)

/-- The second operand of element `i`: vs1, the scalar or the immediate. -/
def vOperand (c : VCtx) (w f3 rs1 scalar i : Nat) : Nat :=
  if f3 = 0 ∨ f3 = 1 ∨ f3 = 2 then c.core.elem c.vlen w rs1 i else scalar

/-- LMUL in eighths for a scaled element width. -/
def emul8 (c : RvCore) (num den : Nat) : Nat := c.lmul8 * num / den

/-- OPIVV, OPIVX, OPIVI (funct3 0, 4, 3). `sc` is x[rs1] or the sign-extended immediate, cut to SEW; `uimm` is x[rs1] or the immediate whole. -/
def vOpI (c : VCtx) (f6 vs2 rs1 f3 vd sc uimm : Nat) : Option RvCore :=
  let k := c.core
  let w := k.sew
  let l8 := k.lmul8
  let vlmax := vlmaxOf c.vlen w l8
  let b := fun i => vOperand c w f3 rs1 sc i
  let sb := fun i => if f3 = 3 then uimm else b i
  let at_ := fun i => if f3 = 0 then b i else uimm
  let a := fun i => k.elem c.vlen w vs2 i
  let d := fun i => k.elem c.vlen w vd i
  let al := groupOk l8 vd && groupOk l8 vs2 && (f3 ≠ 0 || groupOk l8 rs1) && (c.vm || vd ≠ 0)
  let alMask := groupOk l8 vs2 && (f3 ≠ 0 || groupOk l8 rs1)
  match f6 with
  | 0x0C =>
    if !al ∨ groupsOverlap vd (groupRegs l8) vs2 (groupRegs l8) then none
    else vMap c w vd (fun i => let ix := at_ i; some (if ix < vlmax then a ix else 0, 0, false))
  | 0x0E =>
    if f3 = 0 then
      let g16 := l8 * 16 / w
      if !groupOk l8 vd ∨ !groupOk l8 vs2 ∨ !groupOk g16 rs1 ∨ groupsOverlap vd (groupRegs l8) vs2 (groupRegs l8) then none
      else vMap c w vd (fun i => let ix := k.elem c.vlen 16 rs1 i; some (if ix < vlmax then a ix else 0, 0, false))
    else if !al ∨ groupsOverlap vd (groupRegs l8) vs2 (groupRegs l8) then none
    else vMap c w vd (fun i => some (if i < at_ i then d i else a (i - at_ i), 0, false))
  | 0x0F => if !al ∨ f3 = 0 then none else vMap c w vd (fun i => let ix := i + at_ i; some (if ix < vlmax then a ix else 0, 0, false))
  | 0x10 => if c.vm ∨ vd = 0 then none
      else vMap { c with vm := true } w vd (fun i => some (aluEval w .add (a i) (b i + b2n (k.maskBit 0 i)), 0, false))
  | 0x11 => if !alMask then none
      else vMapMask { c with vm := true } vd (fun i => some (2 ^ w ≤ a i + b i + (if c.vm then 0 else b2n (k.maskBit 0 i)), 0))
  | 0x12 => if c.vm ∨ vd = 0 ∨ f3 = 3 then none
      else vMap { c with vm := true } w vd (fun i => some (ofSigned w ((a i : Int) - (b i : Int) - (b2n (k.maskBit 0 i) : Int)), 0, false))
  | 0x13 => if !alMask ∨ f3 = 3 then none
      else vMapMask { c with vm := true } vd (fun i => some (a i < b i + (if c.vm then 0 else b2n (k.maskBit 0 i)), 0))
  | 0x17 =>
    if c.vm then (if vs2 ≠ 0 ∨ !groupOk l8 vd ∨ (f3 = 0 ∧ !groupOk l8 rs1) then none else vMap c w vd (fun i => some (b i, 0, false)))
    else if vd = 0 ∨ !al then none
    else vMap { c with vm := true } w vd (fun i => some (if k.maskBit 0 i then b i else a i, 0, false))
  | 0x27 =>
    if f3 = 3 then
      let n := rs1 + 1
      if !c.vm ∨ !(n = 1 ∨ n = 2 ∨ n = 4 ∨ n = 8) ∨ vd % n ≠ 0 ∨ vs2 % n ≠ 0 then none
      else some ((List.range n).foldl (fun q i => q.sv (vd + i) (k.gv (vs2 + i))) k)
    else if !al then none
    else vMap c w vd (fun i => (vIntOp w k.vxrm false f6 (a i) (b i) (d i)).map (fun r => (r.1, 0, r.2)))
  | 0x30 | 0x31 =>
    if f3 ≠ 0 ∨ c.elen < 2 * w ∨ k.vstart ≠ 0 ∨ !groupOk l8 vs2 then none
    else if k.vl = 0 then some k
    else (vFold c (k.elem c.vlen (2 * w) rs1 0) (fun acc i =>
        some (aluEval (2 * w) .add acc (if f6 = 0x30 then a i else sext w (2 * w) (a i))))).map (fun r => k.setElem c.vlen (2 * w) vd 0 r)
  | _ =>
    if 0x18 ≤ f6 ∧ f6 ≤ 0x1F then
      (if !alMask ∨ (f3 = 3 ∧ (f6 = 0x1A ∨ f6 = 0x1B)) ∨ (f3 = 0 ∧ 0x1E ≤ f6) then none else vMapMask c vd (fun i => (vCmpOp w f6 (a i) (b i)).map (fun r => (r, 0))))
    else if 0x2C ≤ f6 ∧ f6 ≤ 0x2F then
      (if c.elen < 2 * w ∨ 32 < l8 ∨ !groupOk l8 vd ∨ !groupOk (2 * l8) vs2 ∨ (f3 = 0 ∧ !groupOk l8 rs1) ∨ (!c.vm ∧ vd = 0) then none
       else vMap c w vd (fun i => (vNarrowOp w k.vxrm f6 (k.elem c.vlen (2 * w) vs2 i) (sb i)).map (fun r => (r.1, 0, r.2))))
    else if !al ∨ (f3 = 3 ∧ (f6 = 0x02 ∨ f6 = 0x22 ∨ f6 = 0x23 ∨ (0x04 ≤ f6 ∧ f6 ≤ 0x07))) ∨ (f3 = 0 ∧ f6 = 0x03) then none
    else
      let op := fun i => if f6 = 0x25 ∨ (0x28 ≤ f6 ∧ f6 ≤ 0x2B) then sb i else b i
      vMap c w vd (fun i => (vIntOp w k.vxrm false f6 (a i) (op i) (d i)).map (fun r => (r.1, 0, r.2)))

/-- The mask-register and unary group of OPMVV. -/
def vMaskLogic (f6 : Nat) (a b : Bool) : Bool :=
  match f6 with
  | 0x18 => a && !b | 0x19 => a && b | 0x1A => a || b | 0x1B => a ^^ b
  | 0x1C => a || !b | 0x1D => !(a && b) | 0x1E => !(a || b) | _ => !(a ^^ b)

/-- vmsbf, vmsof, vmsif, viota, vid (VMUNARY0). -/
def vMUnary (c : VCtx) (kind vs2 vd : Nat) : Option RvCore :=
  let k := c.core
  let w := k.sew
  let act := fun i => k.active c.vm i
  let before := fun i => (List.range i).any (fun j => act j && k.maskBit vs2 j)
  match kind with
  | 1 => vMapMask c vd (fun i => some (!before i && !k.maskBit vs2 i, 0))
  | 2 => vMapMask c vd (fun i => some (!before i && k.maskBit vs2 i, 0))
  | 3 => vMapMask c vd (fun i => some (!before i, 0))
  | 16 => if k.vstart ≠ 0 ∨ !groupOk k.lmul8 vd then none
      else vMap c w vd (fun i => some (((List.range i).filter (fun j => act j && k.maskBit vs2 j)).length, 0, false))
  | 17 => if !groupOk k.lmul8 vd then none else vMap c w vd (fun i => some (i, 0, false))
  | _ => none

/-- OPMVV, OPMVX (funct3 2, 6), but for the moves to x registers, which `vScalarOut` gives. -/
def vOpM (c : VCtx) (f6 vs2 rs1 f3 vd sc : Nat) : Option RvCore :=
  let k := c.core
  let w := k.sew
  let l8 := k.lmul8
  let b := fun i => vOperand c w f3 rs1 sc i
  let a := fun i => k.elem c.vlen w vs2 i
  let d := fun i => k.elem c.vlen w vd i
  let al := groupOk l8 vd && groupOk l8 vs2 && (f3 ≠ 2 || groupOk l8 rs1) && (c.vm || vd ≠ 0)
  if f3 = 2 ∧ f6 ≤ 7 then
    (if k.vstart ≠ 0 ∨ !groupOk l8 vs2 then none
     else if k.vl = 0 then some k
     else (vFold c (k.elem c.vlen w rs1 0) (fun acc i => vRedOp w f6 acc (a i))).map (fun r => k.setElem c.vlen w vd 0 r))
  else if f3 = 2 ∧ 0x18 ≤ f6 ∧ f6 ≤ 0x1F then
    (if !c.vm then none else vMapMask c vd (fun i => some (vMaskLogic f6 (k.maskBit vs2 i) (k.maskBit rs1 i), 0)))
  else if f3 = 6 ∧ f6 = 0x0E then
    (if !al ∨ groupsOverlap vd (groupRegs l8) vs2 (groupRegs l8) then none
     else vMap c w vd (fun i => some (if i = 0 then sc else a (i - 1), 0, false)))
  else if f3 = 6 ∧ f6 = 0x0F then
    (if !al then none else vMap c w vd (fun i => some (if i + 1 = k.vl then sc else a (i + 1), 0, false)))
  else if f6 = 0x10 then
    (if f3 = 6 ∧ vs2 = 0 ∧ c.vm then some (if k.vl = 0 ∨ k.vl ≤ k.vstart then k else k.setElem c.vlen w vd 0 sc) else none)
  else if f6 = 0x12 ∧ f3 = 2 then
    (let den := if rs1 = 2 ∨ rs1 = 3 then 8 else if rs1 = 4 ∨ rs1 = 5 then 4 else if rs1 = 6 ∨ rs1 = 7 then 2 else 0
     if den = 0 ∨ w < 8 * den ∨ !groupOk l8 vd ∨ !groupOk (l8 / den) vs2 ∨ l8 < den ∨ (!c.vm ∧ vd = 0) then none
     else vMap c w vd (fun i =>
      let e := k.elem c.vlen (w / den) vs2 i
      some (if rs1 % 2 = 1 then sext (w / den) w e else e, 0, false)))
  else if f6 = 0x14 ∧ f3 = 2 then vMUnary c rs1 vs2 vd
  else if f6 = 0x17 ∧ f3 = 2 then
    (if !c.vm ∨ k.vstart ≠ 0 ∨ !groupOk l8 vd ∨ !groupOk l8 vs2 ∨ groupsOverlap vd (groupRegs l8) vs2 (groupRegs l8) then none
     else
      let sel := numsBelow k.vl (fun i => k.maskBit rs1 i)
      some (sel.zipIdx.foldl (fun q p => q.setElem c.vlen w vd p.2 (a p.1)) k))
  else if 0x30 ≤ f6 then
    (let wide := 0x34 ≤ f6 ∧ f6 ≤ 0x37
     if c.elen < 2 * w ∨ 32 < l8 ∨ !groupOk (2 * l8) vd ∨ !groupOk (if wide then 2 * l8 else l8) vs2 ∨ (f3 = 2 ∧ !groupOk l8 rs1)
        ∨ (!c.vm ∧ vd = 0) ∨ (f3 = 2 ∧ f6 = 0x3E) then none
     else vMap c (2 * w) vd (fun i =>
      (vWideOp w f6 (if wide then k.elem c.vlen (2 * w) vs2 i else a i) (b i) (k.elem c.vlen (2 * w) vd i)).map (fun r => (r, 0, false))))
  else if !al then none
  else vMap c w vd (fun i => (vIntOp w k.vxrm true f6 (a i) (b i) (d i)).map (fun r => (r.1, 0, r.2)))

/-- Moves from the vector unit to an x register: vmv.x.s, vcpop.m, vfirst.m. The answer is a signed number. -/
def vScalarOut (c : VCtx) (vs2 rs1 : Nat) : Option Int :=
  let k := c.core
  if rs1 = 0 then (if c.vm then some (toSigned k.sew (k.elem c.vlen k.sew vs2 0)) else none)
  else if k.vstart ≠ 0 then none
  else
    let on := numsBelow k.vl (fun i => k.active c.vm i && k.maskBit vs2 i)
    if rs1 = 16 then some on.length
    else if rs1 = 17 then some (match on with | [] => -1 | i :: _ => i)
    else none

/-- Conversions of VFUNARY0: single-width, widening and narrowing forms by the vs1 field. -/
def vFpCvt (c : VCtx) (rm code vs2 vd : Nat) : Option RvCore :=
  let k := c.core
  let w := k.sew
  let l8 := k.lmul8
  let kind := code % 8
  let rmi := if kind = 6 ∨ kind = 7 then rmRTZ else rm
  let sgnd := kind = 1 ∨ kind = 3 ∨ kind = 7
  if !c.vm ∧ vd = 0 then none
  else if code < 8 then
    (if !groupOk l8 vd ∨ !groupOk l8 vs2 then none
     else (vFmt c.elen w).bind (fun f => vMap c w vd (fun i =>
      let e := k.elem c.vlen w vs2 i
      if kind = 2 ∨ kind = 3 then some (let (r, fl) := f.ofInt rm (if sgnd then toSigned w e else (e : Int)); (r, fl, false))
      else if kind = 4 ∨ kind = 5 then none
      else some (let (r, fl) := f.toInt rmi e sgnd w; (ofSigned w r, fl, false)))))
  else if code < 16 then
    (if c.elen < 2 * w ∨ 32 < l8 ∨ !groupOk (2 * l8) vd ∨ !groupOk l8 vs2 then none
     else vMap c (2 * w) vd (fun i =>
      let e := k.elem c.vlen w vs2 i
      if kind = 2 ∨ kind = 3 then (vFmt c.elen (2 * w)).map (fun g => let (r, fl) := g.ofInt rm (if sgnd then toSigned w e else (e : Int)); (r, fl, false))
      else (vFmt c.elen w).bind (fun f =>
        if kind = 4 then (vFmt c.elen (2 * w)).map (fun g => let (r, fl) := f.convert g rm e; (r, fl, false))
        else if kind = 5 then none
        else some (let (r, fl) := f.toInt rmi e sgnd (2 * w); (ofSigned (2 * w) r, fl, false)))))
  else if code < 24 then
    (if c.elen < 2 * w ∨ 32 < l8 ∨ !groupOk l8 vd ∨ !groupOk (2 * l8) vs2 then none
     else vMap c w vd (fun i =>
      let e := k.elem c.vlen (2 * w) vs2 i
      if kind = 2 ∨ kind = 3 then (vFmt c.elen w).map (fun g => let (r, fl) := g.ofInt rm (if sgnd then toSigned (2 * w) e else (e : Int)); (r, fl, false))
      else (vFmt c.elen (2 * w)).bind (fun f =>
        if kind = 4 then (vFmt c.elen w).map (fun g => let (r, fl) := f.convert g rm e; (r, fl, false))
        else if kind = 5 then (vFmt c.elen w).map (fun g =>
          let t := f.convert g rmRTZ e
          (if t.2 % 2 = 1 ∧ t.1 % 2 = 0 ∧ t.2 / 4 % 2 = 0 then t.1 + 1 else t.1, t.2, false))
        else some (let (r, fl) := f.toInt rmi e sgnd w; (ofSigned w r, fl, false)))))
  else none

/-- OPFVV, OPFVF (funct3 1, 5), but for vfmv.f.s. `sc` is f[rs1]. -/
def vOpF (c : VCtx) (f6 vs2 rs1 f3 vd sc : Nat) : Option RvCore :=
  let k := c.core
  let w := k.sew
  let l8 := k.lmul8
  let b := fun i => vOperand c w f3 rs1 sc i
  let a := fun i => k.elem c.vlen w vs2 i
  let d := fun i => k.elem c.vlen w vd i
  let al := groupOk l8 vd && groupOk l8 vs2 && (f3 ≠ 1 || groupOk l8 rs1) && (c.vm || vd ≠ 0)
  (k.rmOf 7).bind (fun rm =>
    if f6 = 0x12 ∧ f3 = 1 then vFpCvt c rm rs1 vs2 vd
    else (vFmt c.elen w).bind (fun f =>
      if f3 = 1 ∧ (f6 = 1 ∨ f6 = 3 ∨ f6 = 5 ∨ f6 = 7) then
        (if k.vstart ≠ 0 ∨ !groupOk l8 vs2 then none
         else if k.vl = 0 then some k
         else (vFold c (k.elem c.vlen w rs1 0, 0) (fun acc i =>
            let r := if f6 = 5 then f.minMaxOp false acc.1 (a i) else if f6 = 7 then f.minMaxOp true acc.1 (a i) else f.addOp rm acc.1 (a i)
            some (r.1, acc.2 ||| r.2))).map (fun r => (k.setElem c.vlen w vd 0 r.1).addFlags r.2))
      else if f3 = 1 ∧ (f6 = 0x31 ∨ f6 = 0x33) then
        (if k.vstart ≠ 0 ∨ !groupOk l8 vs2 then none
         else (vFmt c.elen (2 * w)).bind (fun g =>
          if k.vl = 0 then some k
          else (vFold c (k.elem c.vlen (2 * w) rs1 0, 0) (fun acc i =>
            let (e, fl) := f.convert g rm (a i)
            let r := g.addOp rm acc.1 e
            some (r.1, acc.2 ||| r.2 ||| fl))).map (fun r => (k.setElem c.vlen (2 * w) vd 0 r.1).addFlags r.2)))
      else if f3 = 5 ∧ f6 = 0x0E then
        (if !al ∨ groupsOverlap vd (groupRegs l8) vs2 (groupRegs l8) then none
         else vMap c w vd (fun i => some (if i = 0 then sc else a (i - 1), 0, false)))
      else if f3 = 5 ∧ f6 = 0x0F then
        (if !al then none else vMap c w vd (fun i => some (if i + 1 = k.vl then sc else a (i + 1), 0, false)))
      else if f6 = 0x10 then
        (if f3 = 5 ∧ vs2 = 0 ∧ c.vm then some (if k.vl = 0 ∨ k.vl ≤ k.vstart then k else k.setElem c.vlen w vd 0 sc) else none)
      else if f6 = 0x13 ∧ f3 = 1 then
        (if !groupOk l8 vd ∨ !groupOk l8 vs2 ∨ (!c.vm ∧ vd = 0) then none
         else vMap c w vd (fun i => match rs1 with
          | 0 => some (let (r, fl) := f.sqrtOp rm (a i); (r, fl, false))
          | 4 => some (let (r, fl) := rsqrt7 f (a i); (r, fl, false))
          | 5 => some (let (r, fl) := rec7 f rm (a i); (r, fl, false))
          | 16 => some (f.classOp (a i), 0, false)
          | _ => none))
      else if f6 = 0x17 then
        (if f3 ≠ 5 then none
         else if c.vm then (if vs2 ≠ 0 ∨ !groupOk l8 vd then none else vMap c w vd (fun _ => some (sc, 0, false)))
         else if !al then none
         else vMap { c with vm := true } w vd (fun i => some (if k.maskBit 0 i then sc else a i, 0, false)))
      else if 0x18 ≤ f6 ∧ f6 ≤ 0x1F then
        (if !groupOk l8 vs2 ∨ (f3 = 1 ∧ (f6 = 0x1D ∨ f6 = 0x1F)) then none
         else vMapMask c vd (fun i => vFpCmp f f6 (a i) (b i)))
      else if 0x30 ≤ f6 then
        (let wide := f6 = 0x34 ∨ f6 = 0x36
         if 32 < l8 ∨ !groupOk (2 * l8) vd ∨ !groupOk (if wide then 2 * l8 else l8) vs2 ∨ (!c.vm ∧ vd = 0) then none
         else (vFmt c.elen (2 * w)).bind (fun g => vMap c (2 * w) vd (fun i =>
          (vFpWideOp f g rm f6 (if wide then k.elem c.vlen (2 * w) vs2 i else a i) (b i) (k.elem c.vlen (2 * w) vd i)).map
            (fun r => (r.1, r.2, false)))))
      else if !al ∨ (f3 = 1 ∧ (f6 = 0x21 ∨ f6 = 0x27)) then none
      else vMap c w vd (fun i => (vFpOp f rm f6 (a i) (b i) (d i)).map (fun r => (r.1, r.2, false)))))

/-- vset{i}vl{i}: the new vl and vtype (AVL `avl`, `none` for the form that keeps vl). -/
def vSetCore (vlen elen : Nat) (k : RvCore) (avl : Option Nat) (vt : Nat) : RvCore :=
  if !vtypeOk elen vt then { k with vill := true, vtype := 0, vl := 0, vstart := 0 }
  else
    let k' := { k with vtype := vt, vill := false, vstart := 0 }
    let vlmax := vlmaxOf vlen k'.sew k'.lmul8
    { k' with vl := match avl with
        | some n => min n vlmax
        | none => min k.vl vlmax }

end Sys2Proof.Machine
end

