-- ==== Sys2Proof/Machine/RvExec.lean ====
section
/-! DEFINITION. Execution of the RISC-V instructions that the perch sequencer and the steward cores share (R81, R461), over an interface to the
processor that runs them. Memory, CSRs and traps are the processor's own. -/

namespace Sys2Proof.Machine

/-- What one access or instruction answers: the state after it, or a trap with cause and tval. A trap keeps the state reached before it. -/
inductive RvRes (σ : Type) where
  | ok (s : σ)
  | trap (s : σ) (cause tval : Nat)

/-- The processor as the shared instructions see it. -/
structure RvBus (σ : Type) where
  rv64 : Bool
  vlen : Nat
  elen : Nat
  get : σ → RvCore
  put : σ → RvCore → σ
  /-- Scalar load of `size` bytes. -/
  load : σ → Nat → Nat → Except (Nat × Nat) (Nat × σ)
  /-- Scalar store. -/
  store : σ → Nat → Nat → Nat → Except (Nat × Nat) σ
  /-- Vector element load and store. -/
  vload : σ → Nat → Nat → Except (Nat × Nat) (Nat × σ)
  vstore : σ → Nat → Nat → Nat → Except (Nat × Nat) σ
  csrRead : σ → Nat → Option Nat
  csrWrite : σ → Nat → Nat → Option σ
  fpOn : σ → Bool
  vecOn : σ → Bool

/-- XLEN. -/
def RvBus.xlen {σ : Type} (b : RvBus σ) : Nat := if b.rv64 then 64 else 32

/-- Illegal-instruction cause (RISC-V privileged specification). -/
def causeIllegal : Nat := 2

/-- An address computed modulo 2^XLEN. -/
def RvBus.addr {σ : Type} (b : RvBus σ) (base : Nat) (imm : Int) : Nat := ofSigned b.xlen ((base : Int) + imm)

/-- Sets an x register and moves past an instruction of `len` bytes. -/
def RvBus.retire {σ : Type} (b : RvBus σ) (s : σ) (len : Nat) (k : RvCore) : RvRes σ :=
  .ok (b.put s { k with pc := (k.pc + len) % 2 ^ b.xlen })

/-- Writes rd and retires. -/
def RvBus.wr {σ : Type} (b : RvBus σ) (s : σ) (len rd v : Nat) : RvRes σ := b.retire s len ((b.get s).sx b.xlen rd v)

/-- Sign- or zero-extends a loaded value by funct3. -/
def loadExtend (xlen f3 v : Nat) : Nat := if f3 < 4 then sext (8 * 2 ^ f3) xlen v else v

/-- An instruction that is illegal here. -/
def RvBus.illegal {σ : Type} (_ : RvBus σ) (s : σ) (word : Nat) : RvRes σ := .trap s causeIllegal word

/-- Zicsr instructions: the old value to rd, the new value to the CSR. -/
def RvBus.csrInst {σ : Type} (b : RvBus σ) (s : σ) (word len f3 rd rs1 num : Nat) : RvRes σ :=
  let src := if 4 ≤ f3 then rs1 else (b.get s).gx rs1
  let writes := f3 % 4 = 1 ∨ rs1 ≠ 0
  if writes ∧ bits num 10 2 = 3 then b.illegal s word
  else match b.csrRead s num with
    | none => b.illegal s word
    | some old =>
      let new := match f3 % 4 with
        | 1 => src
        | 2 => old ||| src
        | _ => old &&& (2 ^ b.xlen - 1 - src)
      if writes then
        match b.csrWrite s num new with
        | none => b.illegal s word
        | some s' => b.wr s' len rd old
      else b.wr s len rd old

/-- Scalar floating operations. -/
def RvBus.fopInst {σ : Type} (b : RvBus σ) (s : σ) (word len f5 : Nat) (dbl : Bool) (rd rs1 rs2 f3 : Nat) : RvRes σ :=
  let k := b.get s
  let f := if dbl then fmtF64 else fmtF32
  let rf := fun r => if dbl then k.gf r else unboxS b.rv64 (k.gf r)
  let wf := fun (p : Nat × Nat) => b.retire s len ((k.sf rd (if dbl then p.1 else boxS b.rv64 p.1)).addFlags p.2)
  let wx := fun (v fl : Nat) => b.retire s len ((k.sx b.xlen rd v).addFlags fl)
  let a := rf rs1
  let c := rf rs2
  let sgn := 2 ^ (f.ebits + f.mbits)
  let rounded := fun (g : Nat → RvRes σ) => match k.rmOf f3 with
    | none => b.illegal s word
    | some rm => g rm
  match f5 with
  | 0 => rounded (fun rm => wf (f.addOp rm a c))
  | 1 => rounded (fun rm => wf (f.subOp rm a c))
  | 2 => rounded (fun rm => wf (f.mulOp rm a c))
  | 3 => rounded (fun rm => wf (f.divOp rm a c))
  | 0x0B => rounded (fun rm => wf (f.sqrtOp rm a))
  | 4 => wf (match f3 with
      | 0 => a % sgn + c / sgn % 2 * sgn
      | 1 => a % sgn + (1 - c / sgn % 2) * sgn
      | _ => a % sgn + (a / sgn + c / sgn) % 2 * sgn, 0)
  | 5 => wf (f.minMaxOp (f3 = 1) a c)
  | 0x14 => let r := match f3 with
      | 0 => f.leOp a c
      | 1 => f.ltOp a c
      | _ => f.eqOp a c
    wx (b2n r.1) r.2
  | 0x08 => rounded (fun rm => if dbl then wf (fmtF32.convert fmtF64 rm (unboxS b.rv64 (k.gf rs1))) else
      let r := fmtF64.convert fmtF32 rm (k.gf rs1)
      b.retire s len ((k.sf rd (boxS b.rv64 r.1)).addFlags r.2))
  | 0x18 => rounded (fun rm =>
      let w := if rs2 < 2 then 32 else 64
      let r := f.toInt rm a (rs2 % 2 = 0) w
      wx (sext w b.xlen (ofSigned w r.1)) r.2)
  | 0x1A => rounded (fun rm =>
      let w := if rs2 < 2 then 32 else 64
      let x := k.gx rs1 % 2 ^ w
      wf (f.ofInt rm (if rs2 % 2 = 0 then toSigned w x else (x : Int))))
  | 0x1C => if f3 = 1 then wx (f.classOp a) 0
    else wx (if dbl then k.gf rs1 else sext 32 b.xlen (k.gf rs1)) 0
  | _ => b.retire s len (k.sf rd (if dbl then k.gx rs1 else boxS b.rv64 (k.gx rs1)))

/-- Fused multiply-add forms: 0 fmadd, 1 fmsub, 2 fnmsub, 3 fnmadd. -/
def RvBus.fmaInst {σ : Type} (b : RvBus σ) (s : σ) (word len op : Nat) (dbl : Bool) (rd rs1 rs2 rs3 f3 : Nat) : RvRes σ :=
  let k := b.get s
  let f := if dbl then fmtF64 else fmtF32
  let rf := fun r => if dbl then k.gf r else unboxS b.rv64 (k.gf r)
  match k.rmOf f3 with
  | none => b.illegal s word
  | some rm =>
    let a := rf rs1
    let a := if op = 2 ∨ op = 3 then f.flipSign a else a
    let c := rf rs3
    let c := if op = 1 ∨ op = 3 then f.flipSign c else c
    let p := f.fmaOp rm a (rf rs2) c
    b.retire s len ((k.sf rd (if dbl then p.1 else boxS b.rv64 p.1)).addFlags p.2)

/-- The element accesses of a vector load or store from vstart on: `acc` performs element `i`, field `j`. A trap leaves vstart at its element;
with `fof`, a trap beyond element 0 cuts vl instead. -/
def vMemLoop {σ : Type} (b : RvBus σ) (fof : Bool) (fields : Nat) (act : Nat → Bool) (acc : σ → Nat → Nat → Except (Nat × Nat) σ)
    (start stop : Nat) (s : σ) : RvRes σ :=
  (List.range stop).foldl (fun r i =>
    match r with
    | .trap .. => r
    | .ok s =>
      if i < start ∨ !act i ∨ (fof ∧ (b.get s).vl ≤ i) then .ok s
      else (List.range fields).foldl (fun r j =>
        match r with
        | .trap .. => r
        | .ok s => if fof ∧ (b.get s).vl ≤ i then .ok s else
          match acc s i j with
          | .ok s' => .ok s'
          | .error e =>
            if fof ∧ i ≠ 0 then .ok (b.put s { b.get s with vl := i })
            else .trap (b.put s { b.get s with vstart := i }) e.1 e.2) (.ok s)) (.ok s)

/-- Ends a vector instruction: vstart returns to zero and the pc moves on. -/
def RvBus.vEnd {σ : Type} (b : RvBus σ) (len : Nat) (r : RvRes σ) : RvRes σ :=
  match r with
  | .ok s => b.retire s len { b.get s with vstart := 0 }
  | t => t

/-- Element width of a vector memory width code. -/
def vWidth (f3 : Nat) : Nat := if f3 = 0 then 8 else if f3 = 5 then 16 else if f3 = 6 then 32 else 64

/-- Vector loads and stores: unit-stride, strided, indexed, segments, mask, whole registers, fault-only-first. -/
def RvBus.vMem {σ : Type} (b : RvBus σ) (s : σ) (word len : Nat) (st : Bool) (nf mew mop : Nat) (vm : Bool) (rs2 rs1 f3 vd : Nat) : RvRes σ :=
  let k := b.get s
  let wd := vWidth f3
  let base := k.gx rs1
  let fields := nf + 1
  let indexed := mop % 2 = 1
  let eew := if indexed then k.sew else wd
  let eb := eew / 8
  let whole := mop = 0 ∧ rs2 = 8
  let mask := mop = 0 ∧ rs2 = 11
  let fof := mop = 0 ∧ rs2 = 16 ∧ !st
  let g8 := if indexed then k.lmul8 else k.lmul8 * eew / k.sew
  let regs := groupRegs g8
  let bad := mew ≠ 0 ∨ (b.elen < wd ∧ !indexed) ∨ (indexed ∧ b.elen < wd)
    ∨ (mop = 0 ∧ rs2 ≠ 0 ∧ rs2 ≠ 8 ∧ rs2 ≠ 11 ∧ !fof)
  let badNormal := k.vill ∨ g8 = 0 ∨ 64 < g8 ∨ !groupOk g8 vd ∨ 8 < regs * fields ∨ 32 < vd + regs * fields ∨ (!st ∧ !vm ∧ vd = 0)
    ∨ (indexed ∧ !groupOk (k.lmul8 * wd / k.sew) rs2)
  let access := fun (w : Nat) (addrOf : Nat → Nat → Nat) (regOf : Nat → Nat) (s : σ) (i j : Nat) =>
    let a := addrOf i j % 2 ^ b.xlen
    if st then b.vstore s a (w / 8) ((b.get s).elem b.vlen w (regOf j) i)
    else match b.vload s a (w / 8) with
      | .ok (v, s') => .ok (b.put s' ((b.get s').setElem b.vlen w (regOf j) i v))
      | .error e => .error e
  if bad then b.illegal s word
  else if whole then
    (if !vm ∨ !(fields = 1 ∨ fields = 2 ∨ fields = 4 ∨ fields = 8) ∨ vd % fields ≠ 0 ∨ (st ∧ wd ≠ 8) then b.illegal s word
     else b.vEnd len (vMemLoop b false 1 (fun _ => true) (access wd (fun i _ => base + i * (wd / 8)) (fun _ => vd)) k.vstart (fields * b.vlen / wd) s))
  else if mask then
    (if k.vill ∨ nf ≠ 0 ∨ !vm ∨ wd ≠ 8 then b.illegal s word
     else b.vEnd len (vMemLoop b false 1 (fun _ => true) (access 8 (fun i _ => base + i) (fun _ => vd)) k.vstart (ceilDiv k.vl 8) s))
  else if badNormal then b.illegal s word
  else
    let addrOf := fun (i j : Nat) =>
      if indexed then base + k.elem b.vlen wd rs2 i + j * eb
      else if mop = 2 then ofSigned b.xlen ((base : Int) + (i : Int) * toSigned b.xlen (k.gx rs2)) + j * eb
      else base + (i * fields + j) * eb
    b.vEnd len (vMemLoop b fof fields (fun i => k.active vm i) (access eew addrOf (fun j => vd + j * regs)) k.vstart k.vl s)

/-- OP-V instructions. -/
def RvBus.vArith {σ : Type} (b : RvBus σ) (s : σ) (word len f6 : Nat) (vm : Bool) (vs2 rs1 f3 vd : Nat) : RvRes σ :=
  let k := b.get s
  let c : VCtx := { vlen := b.vlen, elen := b.elen, core := k, vm := vm }
  let w := k.sew
  let done := fun (r : Option RvCore) => match r with
    | none => b.illegal s word
    | some k' => b.retire s len { k' with vstart := 0 }
  let whole := f3 = 3 ∧ f6 = 0x27
  if k.vill ∧ !whole then b.illegal s word
  else match f3 with
    | 0 => done (vOpI c f6 vs2 rs1 0 vd 0 0)
    | 3 => done (vOpI c f6 vs2 rs1 3 vd (sext 5 w rs1) rs1)
    | 4 => let x := k.gx rs1
      done (vOpI c f6 vs2 rs1 4 vd (if b.xlen < w then sext 32 w x else x % 2 ^ w) x)
    | 2 =>
      if f6 = 0x10 then
        match vScalarOut c vs2 rs1 with
        | none => b.illegal s word
        | some v => b.retire s len { k.sx b.xlen vd (ofSigned b.xlen v) with vstart := 0 }
      else done (vOpM c f6 vs2 rs1 2 vd 0)
    | 6 => let x := k.gx rs1
      done (vOpM c f6 vs2 rs1 6 vd (if b.xlen < w then sext 32 w x else x % 2 ^ w))
    | 1 =>
      if f6 = 0x10 then
        (if vm ∧ rs1 = 0 ∧ (vFmt b.elen w).isSome then
          let e := k.elem b.vlen w vs2 0
          b.retire s len { k.sf vd (if w = 32 then boxS b.rv64 e else e) with vstart := 0 }
         else b.illegal s word)
      else done (vOpF c f6 vs2 rs1 1 vd 0)
    | _ => done (vOpF c f6 vs2 rs1 5 vd (if w = 32 then unboxS b.rv64 (k.gf rs1) else k.gf rs1))

/-- vsetvli, vsetivli, vsetvl. -/
def RvBus.vSet {σ : Type} (b : RvBus σ) (s : σ) (len kind rd rs1 rs2 zimm : Nat) : RvRes σ :=
  let k := b.get s
  let vt := if kind = 2 then k.gx rs2 else zimm
  let avl := if kind = 1 then some rs1
    else if rs1 ≠ 0 then some (k.gx rs1)
    else if rd ≠ 0 then some (2 ^ b.xlen - 1) else none
  let k' := vSetCore b.vlen b.elen k avl vt
  b.retire s len (k'.sx b.xlen rd k'.vl)

/-- Executes one of the shared instructions; `none` for those that belong to the processor (system instructions, atomics, custom opcodes). -/
def RvBus.exec {σ : Type} (b : RvBus σ) (s : σ) (word len : Nat) (i : RvInst) : Option (RvRes σ) :=
  let k := b.get s
  let xl := b.xlen
  let jump := fun (k : RvCore) (t : Nat) => RvRes.ok (b.put s { k with pc := t })
  let fp := fun (r : RvRes σ) => some (if b.fpOn s then r else b.illegal s word)
  let vec := fun (r : RvRes σ) => some (if b.vecOn s then r else b.illegal s word)
  match i with
  | .lui rd imm => some (b.wr s len rd (ofSigned xl imm))
  | .auipc rd imm => some (b.wr s len rd (b.addr k.pc imm))
  | .jal rd imm => some (jump (k.sx xl rd (k.pc + len)) (b.addr k.pc imm))
  | .jalr rd rs1 imm => some (jump (k.sx xl rd (k.pc + len)) (b.addr (k.gx rs1) imm / 2 * 2))
  | .branch f3 rs1 rs2 imm =>
    some (if branchTaken xl f3 (k.gx rs1) (k.gx rs2) then jump k (b.addr k.pc imm) else b.retire s len k)
  | .load f3 rd rs1 imm =>
    some (match b.load s (b.addr (k.gx rs1) imm) (2 ^ (f3 % 4)) with
      | .ok (v, s') => b.wr s' len rd (loadExtend xl f3 v)
      | .error e => .trap s e.1 e.2)
  | .store f3 rs1 rs2 imm =>
    some (match b.store s (b.addr (k.gx rs1) imm) (2 ^ f3) (k.gx rs2 % 2 ^ (8 * 2 ^ f3)) with
      | .ok s' => b.retire s' len (b.get s')
      | .error e => .trap s e.1 e.2)
  | .opImm op word rd rs1 imm =>
    some (if word then b.wr s len rd (sext 32 xl (aluEval 32 op (k.gx rs1 % 2 ^ 32) (ofSigned 32 imm)))
      else b.wr s len rd (aluEval xl op (k.gx rs1) (ofSigned xl imm)))
  | .op op word rd rs1 rs2 =>
    some (if word then b.wr s len rd (sext 32 xl (aluEval 32 op (k.gx rs1 % 2 ^ 32) (k.gx rs2 % 2 ^ 32)))
      else b.wr s len rd (aluEval xl op (k.gx rs1) (k.gx rs2)))
  | .csr f3 rd rs1 num => some (b.csrInst s word len f3 rd rs1 num)
  | .fload size rd rs1 imm =>
    fp (match b.load s (b.addr (k.gx rs1) imm) size with
      | .ok (v, s') => b.retire s' len ((b.get s').sf rd (if size = 4 then boxS b.rv64 v else v))
      | .error e => .trap s e.1 e.2)
  | .fstore size rs1 rs2 imm =>
    fp (match b.store s (b.addr (k.gx rs1) imm) size (k.gf rs2 % 2 ^ (8 * size)) with
      | .ok s' => b.retire s' len (b.get s')
      | .error e => .trap s e.1 e.2)
  | .fma op dbl rd rs1 rs2 rs3 rm => fp (b.fmaInst s word len op dbl rd rs1 rs2 rs3 rm)
  | .fop f5 dbl rd rs1 rs2 rm => fp (b.fopInst s word len f5 dbl rd rs1 rs2 rm)
  | .vset kind rd rs1 rs2 zimm => vec (b.vSet s len kind rd rs1 rs2 zimm)
  | .vload nf mew mop vm rs2 rs1 width vd => vec (b.vMem s word len false nf mew mop vm rs2 rs1 width vd)
  | .vstore nf mew mop vm rs2 rs1 width vd => vec (b.vMem s word len true nf mew mop vm rs2 rs1 width vd)
  | .varith f6 vm vs2 rs1 f3 vd => vec (b.vArith s word len f6 vm vs2 rs1 f3 vd)
  | .fence .. | .fenceI | .cbo .. | .ecall | .ebreak | .mret | .sret | .wfi | .sfenceVma .. | .amo .. | .custom .. => none

end Sys2Proof.Machine
end

