-- ==== Sys2Proof/Machine/Formats.lean ====
section
/-! DEFINITION. The narrow formats of the matrix array and the conversions (R131, R133, R173 to R188), the array's dot product (R135, R136, R180)
and tun (R190 to R195). -/

namespace Sys2Proof.Machine

/-- The classes of R131. -/
inductive FmtClass where
  | f8 | f4 | i8 | i4 | f16
  deriving DecidableEq, Repr

/-- The class of a format code; `none` for 0x9 to 0xF (R131). -/
def fmtClass (c : Nat) : Option FmtClass :=
  if c ≤ 3 then some .f8 else if c = 4 then some .f4 else if c = 5 then some .i8 else if c = 6 then some .i4
  else if c = 7 ∨ c = 8 then some .f16 else none

/-- Element width of a format code in bits (R131). -/
def fmtBits (c : Nat) : Nat :=
  if c = 2 ∨ c = 3 then 6 else if c = 4 ∨ c = 6 then 4 else if c = 7 ∨ c = 8 then 16 else 8

/-- K of a format code (R131). -/
def fmtK (c : Nat) : Nat := if c = 4 ∨ c = 6 then 64 else 32

/-- Streamed row bytes (R131). -/
def fmtRowBytes (c : Nat) : Nat := fmtK c * fmtBits c / 8

/-- Tile bytes (R131). -/
def fmtTileBytes (c : Nat) : Nat := fmtK c * fmtBits c * 4

/-- Row interval in cycles (R131). -/
def fmtInterval (c : Nat) : Nat := if c = 7 ∨ c = 8 then 2 else 1

/-- Integer format (R131). -/
def fmtIsInt (c : Nat) : Bool := c = 5 ∨ c = 6

/-- Block scales are allowed (R131). -/
def fmtScalable (c : Nat) : Bool := c ≤ 4

/-- The floating format of a code (R131, R173). -/
def fmtFloat (c : Nat) : FFmt :=
  if c = 0 then fmtE4M3 else if c = 1 then fmtE5M2 else if c = 2 then fmtE3M2 else if c = 3 then fmtE2M3
  else if c = 4 then fmtE2M1 else if c = 7 then fmtBf16 else fmtF16

/-- The value of an element of format `c`; an integer is an exact value. -/
def fmtVal (c n : Nat) : FVal :=
  if fmtIsInt c then
    let v := toSigned (fmtBits c) n
    .fin (v < 0) v.natAbs 0
  else (fmtFloat c).decode n

/-- The value of an E8M0 byte; `none` for NaN (R175). -/
def e8m0 (b : Nat) : Option Int := if b = 0xFF then none else some ((b : Int) - 127)

/-- Multiplies a value by 2^k. -/
def FVal.scale (k : Int) : FVal → FVal
  | .fin s m e => .fin s m (e + k)
  | v => v

/-- One product of the array with its block scales, exact (R135, R180). -/
def arrayProduct (a w : FVal) (sa sw : Nat) : FVal :=
  match e8m0 sa, e8m0 sw with
  | some x, some y => ((a.mul w).1).scale (x + y)
  | _, _ => .nan false

/-- Adds the products in ascending k, each sum rounded RNE to binary32 (R135, R180). -/
def arraySum (s : Nat) : List FVal → Nat
  | [] => s
  | p :: t => arraySum ((fmtF32.ofVal rmRNE ((fmtF32.decode s).add rmRNE p).1).1) t

/-- The NaN that the array writes is canonical (R180). -/
def arrayCanon (s : Nat) : Nat := if (fmtF32.decode s).isNan then fmtF32.nanCode else s

/-- One floating output value: initial value, then the products with scales by block of 32 (R135). -/
def arrayDotF (init : Nat) (fa fw : Nat) (a w : List Nat) (sa sw : List Nat) : Nat :=
  let ps := ((a.zip w).zipIdx).map (fun p =>
    arrayProduct (fmtVal fa p.1.1) (fmtVal fw p.1.2) (sa.getD (p.2 / 32) 127) (sw.getD (p.2 / 32) 127))
  arrayCanon (arraySum (arrayCanon init) ps)

/-- One integer output value and whether the exact sum left the INT32 range (R136). -/
def arrayDotI (init : Nat) (fa fw : Nat) (a w : List Nat) : Nat × Bool :=
  let t := (a.zip w).foldl (fun acc p => acc + toSigned (fmtBits fa) p.1 * toSigned (fmtBits fw) p.2) (toSigned 32 init)
  (ofSigned 32 t, t < -(2 ^ 31 : Nat) ∨ (2 ^ 31 - 1 : Nat) < t)

/-- Element `j` of width `b` of packed bytes held as a number (R133). -/
def packedElem (b n j : Nat) : Nat := bits n (b * j) b

/-- Packs elements of width `b`, element 0 in the low bits (R133). -/
def packElems (b : Nat) : List Nat → Nat
  | [] => 0
  | e :: t => e % 2 ^ b + 2 ^ b * packElems b t

/-- The pseudo-random word of stochastic rounding (R188). -/
def srBits (key j : Nat) : Nat :=
  let v : W32 := BitVec.ofNat 32 key ^^^ (BitVec.ofNat 32 j * 0x9E3779B9#32)
  let v := (v ^^^ (v >>> 16)) * 0x7FEB352D#32
  let v := (v ^^^ (v >>> 15)) * 0x846CA68B#32
  (v ^^^ (v >>> 16)).toNat

/-- The finest grid of a narrowing target: the integer grid, or the grid of R185 with unbounded exponent above. -/
def narrowGrid (c m : Nat) (e : Int) : Int :=
  if fmtIsInt c then 0
  else
    let f := fmtFloat c
    let qn : Int := e + (bitLen m : Int) - (f.mbits + 1 : Nat)
    if qn < f.qmin then f.qmin else qn

/-- Rounds a magnitude to the target's grid by RNE or stochastically (R185, R188): units and grid. -/
def narrowRound (c : Nat) (sr : Bool) (key j : Nat) (m : Nat) (e : Int) : Nat × Int × Bool :=
  let q := narrowGrid c m e
  let (k, rem, unit) := toGrid m e q
  let up := if sr then srBits key j < rem * 2 ^ 32 / unit else roundUp rmRNE false k rem unit false
  (if up then k + 1 else k, q, rem ≠ 0)

/-- Sign bit of a target format. -/
def narrowSign (c : Nat) (neg : Bool) : Nat := if neg then 2 ^ (fmtBits c - 1) else 0

/-- One element of a narrowing conversion: code and flags (R185, R186). -/
def narrowElem (c : Nat) (sat sr : Bool) (key j : Nat) (x : FVal) : Nat × Nat :=
  let isInt := fmtIsInt c
  let f := fmtFloat c
  let b := fmtBits c
  let limit := fun (neg : Bool) => if isInt then (if neg then 2 ^ (b - 1) else 2 ^ (b - 1) - 1) else narrowSign c neg + f.maxCode
  match x with
  | .nan _ => if isInt then (0, flNV ||| flUF ||| flNX) else (f.nanCode, if f.ieee ∨ f.topNan then 0 else flNV ||| flUF ||| flNX)
  | .inf s =>
    if isInt then (limit s, flNV ||| flNX)
    else if f.ieee then (if sat then (limit s, flNX) else (narrowSign c s + f.infCode, 0))
    else if f.topNan ∧ !sat then (f.nanCode, flNV ||| flNX)
    else (limit s, flNV ||| flNX)
  | .fin s m e =>
    let (k, q, inexact) := narrowRound c sr key j m e
    let nx := if inexact then flNX else 0
    if isInt then
      let v : Int := if s then -(k : Int) else k
      if v < -(2 ^ (b - 1) : Nat) ∨ (2 ^ (b - 1) - 1 : Nat) < v then (limit s, flOF ||| flNX)
      else (ofSigned b v, if inexact then (if k = 0 then flUF ||| flNX else flNX) else 0)
    else if f.maxCode < f.pack false k q then
      (if sat then limit s
        else if f.ieee then narrowSign c s + f.infCode
        else if f.topNan then f.nanCode
        else limit s, flOF ||| flNX)
    else
      let r := f.pack false k q
      (narrowSign c s + r, if inexact ∧ r < 2 ^ f.mbits then flUF ||| nx else nx)

/-- One element of a widening conversion: binary32 code and flags (R182, R186). `scale` is the block's byte in the scaled form. -/
def widenElem (c n : Nat) (scale : Option Nat) : Nat × Nat :=
  let v := fmtVal c n
  match scale with
  | none => ((fmtF32.ofVal rmRNE v).1, 0)
  | some b =>
    match e8m0 b with
    | none => (fmtF32.nanCode, 0)
    | some k => fmtF32.ofVal rmRNE (v.scale k)

/-- Divides a binary32 value exactly by a block's scale (R182); a scale of 0xFF gives NaN. -/
def unscale (b : Nat) (v : FVal) : FVal :=
  match e8m0 b with
  | none => .nan false
  | some k => v.scale (-k)

/-- emax of VXMAXSC (R187). -/
def fmtEmax (c : Nat) : Int := if c = 0 then 8 else if c = 1 then 15 else if c = 2 then 4 else 2

/-- floor(log2) of a non-zero magnitude. -/
def floorLog2 (m : Nat) (e : Int) : Int := (m.log2 : Int) + e

/-- The scale byte of one block of binary32 codes (R187). -/
def maxScale (c : Nat) (block : List Nat) : Nat :=
  let vs := block.map fmtF32.decode
  if vs.any (fun v => v.isNan || v.isInf) then 0xFF
  else
    let logs := vs.filterMap (fun v => match v with
      | .fin _ m e => if m = 0 then none else some (floorLog2 m e)
      | _ => none)
    match logs with
    | [] => 127
    | l :: t =>
      let a := t.foldl max l
      let r := a - fmtEmax c + 127
      if r < 0 then 0 else if 254 < r then 254 else r.toNat

/-- A tun accumulator: the 384-bit integer and the sticky state bits (R190, R193). -/
structure Tun where
  value : Nat := 0
  posInf : Bool := false
  negInf : Bool := false
  nan : Bool := false
  deriving DecidableEq, Repr

/-- A binary32 value as a tun (R191, R193). -/
def Tun.ofF32 (n : Nat) : Tun :=
  match fmtF32.decode n with
  | .nan _ => { nan := true }
  | .inf s => if s then { negInf := true } else { posInf := true }
  | .fin s m e =>
    let t : Int := (m * 2 ^ (e + 160).toNat : Nat)
    { value := ofSigned 384 (if s then -t else t) }

/-- Tun addition: modular, states joined (R192, R193). -/
def Tun.add (a b : Tun) : Tun :=
  { value := (a.value + b.value) % 2 ^ 384,
    posInf := a.posInf || b.posInf,
    negInf := a.negInf || b.negInf,
    nan := a.nan || b.nan }

/-- Tun to binary32, rounded once (R194). -/
def Tun.toF32 (t : Tun) : Nat :=
  if t.nan || (t.posInf && t.negInf) then fmtF32.nanCode
  else if t.posInf then fmtF32.infCode
  else if t.negInf then 2 ^ 31 + fmtF32.infCode
  else
    let v := toSigned 384 t.value
    if v = 0 then 0 else (fmtF32.round rmRNE (v < 0) v.natAbs (-160) false).1

/-- The state byte of a tun record (R195). -/
def Tun.state (t : Tun) : Nat := b2n t.posInf + 2 * b2n t.negInf + 4 * b2n t.nan

/-- The 64-byte tun record (R195). -/
def Tun.record (t : Tun) : List Byte := leBytes 48 t.value ++ leBytes 1 t.state ++ leBytes 15 0

end Sys2Proof.Machine
end

