-- ==== Sys2Proof/Machine/XOp.lean ====
section
/-! DEFINITION. The Xperch instruction words (R89, R90, R139, R181): the operations, their encoder and their decoder. -/

namespace Sys2Proof.Machine

/-- An Xperch instruction. -/
inductive XOp where
  | spanend
  | fenceSc (scope : Nat)
  | cwait (ctr rs1 rd : Nat)
  | cop (op ctr rs1 rd : Nat)
  | dmaq (ctx rs1 rd : Nat)
  | dmactl (op ctx rd : Nat)
  | scop (op ep rs1 rs2 rd : Nat)
  | mld (fmt : Nat) (wscaled : Bool) (rs1 rs2 : Nat)
  | mxm (fmt : Nat) (acc zfill scaled : Bool) (rs1 rs2 rd : Nat)
  | mwait (loads : Bool) (rd : Nat)
  | vx (kind : Nat) (f : VxFields)
  deriving DecidableEq, Repr

/-- The word of an operation. -/
def XOp.encode : XOp → Nat
  | .spanend => 0x0B
  | .fenceSc scope => scope * 2 ^ 20 + 1 * 2 ^ 12 + 0x0B
  | .cwait ctr rs1 rd => ctr * 2 ^ 20 + rs1 * 2 ^ 15 + 2 * 2 ^ 12 + rd * 2 ^ 7 + 0x0B
  | .cop op ctr rs1 rd => op * 2 ^ 26 + ctr * 2 ^ 20 + rs1 * 2 ^ 15 + 3 * 2 ^ 12 + rd * 2 ^ 7 + 0x0B
  | .dmaq ctx rs1 rd => ctx * 2 ^ 20 + rs1 * 2 ^ 15 + 4 * 2 ^ 12 + rd * 2 ^ 7 + 0x0B
  | .dmactl op ctx rd => op * 2 ^ 24 + ctx * 2 ^ 20 + 5 * 2 ^ 12 + rd * 2 ^ 7 + 0x0B
  | .scop op ep rs1 rs2 rd => op * 2 ^ 30 + ep * 2 ^ 25 + rs2 * 2 ^ 20 + rs1 * 2 ^ 15 + 6 * 2 ^ 12 + rd * 2 ^ 7 + 0x0B
  | .mld fmt ws rs1 rs2 => fmt * 2 ^ 28 + b2n ws * 2 ^ 27 + rs2 * 2 ^ 20 + rs1 * 2 ^ 15 + 0x2B
  | .mxm fmt acc zf sc rs1 rs2 rd =>
    fmt * 2 ^ 28 + b2n acc * 2 ^ 27 + b2n zf * 2 ^ 26 + b2n sc * 2 ^ 25 + rs2 * 2 ^ 20 + rs1 * 2 ^ 15 + rd * 2 ^ 7 + 0x5B
  | .mwait loads rd => b2n loads * 2 ^ 25 + 1 * 2 ^ 12 + rd * 2 ^ 7 + 0x5B
  | .vx kind f => f.fmt * 2 ^ 28 + b2n f.sat * 2 ^ 27 + b2n f.sr * 2 ^ 26 + b2n f.vm * 2 ^ 25 + f.vs2 * 2 ^ 20 + f.rs1 * 2 ^ 15 + kind * 2 ^ 12
      + f.vd * 2 ^ 7 + 0x7B

/-- The operands fit their fields and the codes are defined (R90, R139, R181). Format codes have 4 bits; which are valid is checked at execution. -/
def XOp.wf : XOp → Bool
  | .spanend => true
  | .fenceSc scope => scope ≤ 4
  | .cwait ctr rs1 rd => ctr < 64 && rs1 < 32 && rd < 32
  | .cop op ctr rs1 rd => op ≤ 2 && ctr < 64 && rs1 < 32 && rd < 32
  | .dmaq ctx rs1 rd => ctx < 8 && rs1 < 32 && rd < 32
  | .dmactl op ctx rd => op ≤ 2 && ctx < 8 && rd < 32
  | .scop op ep rs1 rs2 rd => op ≤ 2 && ep < 32 && rs1 < 32 && rs2 < 32 && rd < 32
  | .mld fmt _ rs1 rs2 => fmt < 16 && rs1 < 32 && rs2 < 32
  | .mxm fmt _ _ _ rs1 rs2 rd => fmt < 16 && rs1 < 32 && rs2 < 32 && rd < 32
  | .mwait _ rd => rd < 32
  | .vx kind f => kind ≤ 4 && f.fmt < 16 && f.vs2 < 32 && f.rs1 < 32 && f.vd < 32

/-- A custom-0 word (R90). -/
def xDecode0 (w : Nat) : Option XOp :=
  let f3 := bits w 12 3
  let rs1 := bits w 15 5
  let rd := bits w 7 5
  let imm := bits w 20 12
  match f3 with
  | 0 => if imm = 0 ∧ rs1 = 0 ∧ rd = 0 then some .spanend else none
  | 1 => if imm ≤ 4 ∧ rs1 = 0 ∧ rd = 0 then some (.fenceSc imm) else none
  | 2 => if imm < 64 then some (.cwait imm rs1 rd) else none
  | 3 => if imm / 64 ≤ 2 then some (.cop (imm / 64) (imm % 64) rs1 rd) else none
  | 4 => if imm < 8 then some (.dmaq imm rs1 rd) else none
  | 5 => if imm % 16 < 8 ∧ imm / 16 ≤ 2 ∧ rs1 = 0 then some (.dmactl (imm / 16) (imm % 16) rd) else none
  | 6 => if bits w 30 2 ≤ 2 then some (.scop (bits w 30 2) (bits w 25 5) rs1 (bits w 20 5) rd) else none
  | _ => none

/-- A custom-1 word (R139). -/
def xDecode1 (w : Nat) : Option XOp :=
  if bits w 12 3 = 0 ∧ bits w 25 2 = 0 ∧ bits w 7 5 = 0 then some (.mld (bits w 28 4) (bit w 27) (bits w 15 5) (bits w 20 5)) else none

/-- A custom-2 word (R139). -/
def xDecode2 (w : Nat) : Option XOp :=
  let f3 := bits w 12 3
  if f3 = 0 then some (.mxm (bits w 28 4) (bit w 27) (bit w 26) (bit w 25) (bits w 15 5) (bits w 20 5) (bits w 7 5))
  else if f3 = 1 ∧ bits w 26 6 = 0 ∧ bits w 15 10 = 0 then some (.mwait (bit w 25) (bits w 7 5))
  else none

/-- A custom-3 word (R181). -/
def xDecode3 (w : Nat) : Option XOp :=
  if bits w 12 3 ≤ 4 then
    some (.vx (bits w 12 3) { fmt := bits w 28 4, sat := bit w 27, sr := bit w 26, vm := bit w 25, vs2 := bits w 20 5, rs1 := bits w 15 5, vd := bits w 7 5 })
  else none

/-- The operation of a word in the custom spaces; none where the manual defines no such encoding (R89). -/
def xDecode (w : Nat) : Option XOp :=
  match w % 128 with
  | 0x0B => xDecode0 w
  | 0x2B => xDecode1 w
  | 0x5B => xDecode2 w
  | 0x7B => xDecode3 w
  | _ => none

end Sys2Proof.Machine
end

