-- ==== Sys2Proof/Machine/VxOps.lean ====
section
/-! DEFINITION. The vector conversions of the perch (R181 to R188) on its register context: VLEN 2048. -/

namespace Sys2Proof.Machine

/-- VLEN of the perch (R81). -/
def perchVlen : Nat := 2048

/-- The number of registers of the smallest aligned group that holds `n` bits (R183). -/
def packedRegs (n : Nat) : Nat := if n ≤ 2048 then 1 else if n ≤ 4096 then 2 else if n ≤ 8192 then 4 else 8

/-- The packed side of a register group as a number. -/
def packedGroup (k : RvCore) (base regs : Nat) : Nat :=
  (List.range regs).foldl (fun n i => n + k.gv (base + i) * 2 ^ (2048 * i)) 0

/-- Writes `n` bytes from byte 0 of a register group. -/
def setGroupBytes (k : RvCore) (base n v : Nat) : RvCore :=
  (List.range n).foldl (fun k i => k.setElem 2048 8 base i (bits v (8 * i) 8)) k

/-- Whether a conversion is legal (R184). `kind` is funct3. -/
def vxLegal (k : RvCore) (kind : Nat) (f : VxFields) : Bool :=
  let wide := groupRegs k.lmul8
  let pack := packedRegs (k.vl * fmtBits f.fmt)
  let narrow := kind ≤ 1
  let scaled := kind = 1 ∨ kind = 3
  let srcRegs := if narrow ∨ kind = 4 then wide else pack
  let dstRegs := if kind = 4 then 1 else if narrow then pack else wide
  !k.vill && k.sew = 32 && k.vstart = 0 && f.vm && f.fmt ≤ 8 && f.vs2 % srcRegs = 0 && f.vd % dstRegs = 0
    && !groupsOverlap f.vd dstRegs f.vs2 srcRegs
    && !(scaled && (f.vd = 0 || f.vs2 = 0))
    && !((scaled || kind = 4) && 5 ≤ f.fmt)
    && !(!narrow && (f.sr || f.sat))
    && (f.rs1 = 0 || (narrow && f.sr))

/-- Element `j` of the narrowing forms: code and flags. -/
def vxNarrowAt (k : RvCore) (kind : Nat) (f : VxFields) (j : Nat) : Nat × Nat :=
  let x := fmtF32.decode (k.elem 2048 32 f.vs2 j)
  let x := if kind = 1 then unscale (k.elem 2048 8 0 (j / 32)) x else x
  narrowElem f.fmt f.sat f.sr (k.gx f.rs1) j x

/-- The register context after a conversion; none where it is illegal. -/
def vxExec (k : RvCore) (kind : Nat) (f : VxFields) : Option RvCore :=
  if !vxLegal k kind f then none
  else if kind ≤ 1 then
    let rs := (List.range k.vl).map (vxNarrowAt k kind f)
    let b := fmtBits f.fmt
    let k' := setGroupBytes k f.vd (ceilDiv (k.vl * b) 8) (packElems b (rs.map (·.1)))
    some (k'.addFlags (rs.foldl (fun n r => n ||| r.2) 0))
  else if kind ≤ 3 then
    let src := packedGroup k f.vs2 (packedRegs (k.vl * fmtBits f.fmt))
    some ((List.range k.vl).foldl (fun k' j =>
      let r := widenElem f.fmt (packedElem (fmtBits f.fmt) src j) (if kind = 3 then some (k.elem 2048 8 0 (j / 32)) else none)
      (k'.setElem 2048 32 f.vd j r.1).addFlags r.2) k)
  else
    some ((List.range (ceilDiv k.vl 32)).foldl (fun k' b =>
      k'.setElem 2048 8 f.vd b (maxScale f.fmt ((List.range (min 32 (k.vl - 32 * b))).map (fun i => k.elem 2048 32 f.vs2 (32 * b + i))))) k)

end Sys2Proof.Machine
end

