-- ==== Sys2Proof/Machine/PerchOps.lean ====
section
/-! DEFINITION. Perches, part 1: store buffer, loads and stores (R83, R86), CSRs (R91, R170, R314), traps (R85),
counters (R92). -/

namespace Sys2Proof.Machine

/-- The kernel of an index. -/
def Dev.kernel (d : Dev) (k : Nat) : KernelEntry := d.charter.kern.kernels.getD k {}

/-- The requester of a perch's chain traffic in a context (R348). -/
def Dev.perchXq (d : Dev) (p ctx : Nat) : Xq :=
  { mmu := mmuChain (perchDie p) (perchChain p), part := (d.perch p).part, unit := perchChain p, req := perchPos p * 8 + ctx, die := perchDie p }

/-- The chain of a perch with a context key. -/
def perchChainKey (p ctx : Nat) : Nat × Nat × Nat := (perchDie p, perchChain p, perchPos p * 8 + ctx)

/-- Adds to a counter of a perch, clamped (R92). -/
def Perch.addCtr (v : Perch) (n k : Nat) : Perch :=
  let t := KMap.get 0 v.ctr n + k
  if 2 ^ 32 ≤ t then { v with ctr := KMap.set 0 v.ctr n (2 ^ 32 - 1), ctrSat := true } else { v with ctr := KMap.set 0 v.ctr n t }

/-- Increments a counter that a field names; 0xFF names none (R93). -/
def Dev.ctrInc (d : Dev) (p n : Nat) : Dev := if n < 64 then d.updPerch p (fun v => v.addCtr n 1) else d

/-- Performs the stores that wait in the store buffer, oldest first (R86). -/
def Dev.drainStores (d : Dev) (p : Nat) : Dev :=
  let d := (d.perch p).storeBuf.foldl (fun d e => d.spadWrite p e.1 (clean (leBytes e.2.1 e.2.2))) d
  d.updPerch p (fun v => { v with storeBuf := [] })

/-- A byte of the scratchpad as the sequencer sees it: the newest buffered store, else the bank (R86, R291). -/
def Dev.seqByte (d : Dev) (p off : Nat) : PByte :=
  match (d.perch p).storeBuf.reverse.find? (fun e => e.1 ≤ off && off < e.1 + e.2.1) with
  | some e => (BitVec.ofNat 8 (e.2.2 / 2 ^ (8 * (off - e.1))), false)
  | none => d.spadByte p off

/-- The sequencer of a perch as a requester of its kernel image (R83, R348). -/
def Dev.imageRq (d : Dev) (p : Nat) : Rq := { (d.perchXq p 0).rq false false with image := true }

/-- Physical address of byte `o` of the kernel image of a perch's span (R332). -/
def Dev.imagePa (d : Dev) (p o : Nat) : Nat := KMap.get 0 d.kernelPa (d.perch p).kernel + o

/-- Size of that image. -/
def Dev.imageSize (d : Dev) (p : Nat) : Nat := (d.kernel (d.perch p).kernel).imageSize

/-- Reads the image of a perch's span through the chain cache (R83, R214): the bytes, whether an access error was met, and the device. -/
def Dev.imageRead (d : Dev) (p o n : Nat) : List PByte × Bool × Dev :=
  d.chainRead (d.imageRq p) (perchDie p) (perchChain p) (perchPos p * 8) (d.imagePa p o) n

/-- Load of `n` bytes by the sequencer (R83, R99): cause and tval of a trap, or the value and the device. -/
def Dev.seqLoad (d : Dev) (p a n : Nat) : Except (Nat × Nat) (Nat × Dev) :=
  if a + n ≤ spadSize then
    let b := (List.range n).map (fun i => d.seqByte p (a + i))
    if anyPoison b then .error (5, a) else .ok (leNat (plain b), d)
  else if 0x80000000 ≤ a ∧ a + n ≤ 0x80000000 + d.imageSize p then
    let r := d.imageRead p (a - 0x80000000) n
    if r.2.1 || anyPoison r.1 then .error (5, a) else .ok (leNat (plain r.1), r.2.2)
  else .error (5, a)

/-- What a load that traps on `n` bytes at `a` leaves behind: the record of the poison that it met (R599, R626), or of the access error of the image (R26). -/
def Dev.loadFault (d : Dev) (p a n : Nat) : Dev :=
  if a < spadSize then
    if anyPoison (d.spadRead p a (min n (spadSize - a))) then d.accErr (perchDie p) 5 ((d.perchXq p 0).rq false false) (spadBase p + a) else d
  else if 0x80000000 ≤ a ∧ a < 0x80000000 + d.imageSize p then
    let r := d.imageRead p (a - 0x80000000) (min n (0x80000000 + d.imageSize p - a))
    if r.2.1 then r.2.2 else if anyPoison r.1 then r.2.2.accErr (perchDie p) 5 (d.imageRq p) (d.imagePa p (a - 0x80000000)) else d
  else d

/-- Scalar store by the sequencer (R83, R86): into the store buffer, whose oldest entry leaves where 8 are held. -/
def Dev.seqStore (d : Dev) (p a n v : Nat) : Except (Nat × Nat) Dev :=
  if a % n ≠ 0 then .error (6, a)
  else if spadSize < a + n then .error (7, a)
  else
    let sb := (d.perch p).storeBuf
    let d := match sb with
      | e :: t => if 8 ≤ sb.length then
          (d.spadWrite p e.1 (clean (leBytes e.2.1 e.2.2))).updPerch p (fun v => { v with storeBuf := t })
        else d
      | [] => d
    .ok (d.updPerch p (fun w => { w with storeBuf := w.storeBuf ++ [(a, n, v)] }))

/-- Vector element store (R86): straight to the scratchpad, after the stores before it. -/
def Dev.seqVStore (d : Dev) (p a n v : Nat) : Except (Nat × Nat) Dev :=
  if spadSize < a + n then .error (7, a) else .ok ((d.drainStores p).spadWrite p a (clean (leBytes n v)))

/-- pmxstat, pmxrows and pmxstall: of the span that runs, or as the last one left them (R170). -/
def Perch.matrix (v : Perch) : Nat × Nat × Nat := if v.pstate = 3 then (v.arr.stat, v.arr.rows % 2 ^ 32, v.arr.stall % 2 ^ 32) else v.arr.held

/-- mstatus of the sequencer as it reads: MIE and MPIE, with MPP machine and the vector and floating units on (assumption 20). -/
def Perch.mstatusRead (v : Perch) : Nat := (v.mstatus &&& 0x88) ||| 0x80007E00

/-- CSRs of the sequencer (R91, R170, R314 and the RISC-V machine mode). -/
def Dev.seqCsrRead (d : Dev) (p num : Nat) : Option Nat :=
  let v := d.perch p
  let k := v.core
  match num with
  | 0x001 => some (k.fcsr % 32)
  | 0x002 => some (bits k.fcsr 5 3)
  | 0x003 => some (k.fcsr % 256)
  | 0x008 => some k.vstart
  | 0x009 => some (k.vxsat % 2)
  | 0x00A => some (k.vxrm % 4)
  | 0x00F => some (k.vxrm % 4 * 2 + k.vxsat % 2)
  | 0xC20 => some k.vl
  | 0xC21 => some (if k.vill then 2 ^ 31 else k.vtype)
  | 0xC22 => some (perchVlen / 8)
  | 0x300 => some v.mstatusRead
  | 0x301 => some 0x40001124
  | 0x304 => some v.mie
  | 0x305 => some v.mtvec
  | 0x340 => some v.mscratch
  | 0x341 => some v.mepc
  | 0x342 => some v.mcause
  | 0x343 => some v.mtval
  | 0x344 => some v.mip
  | 0xB00 => some (v.mcycle % 2 ^ 32)
  | 0xB80 => some (v.mcycle / 2 ^ 32 % 2 ^ 32)
  | 0xB02 => some (v.minstret % 2 ^ 32)
  | 0xB82 => some (v.minstret / 2 ^ 32 % 2 ^ 32)
  | 0xF11 | 0xF12 | 0xF13 => some 0
  | 0xF14 => some p
  | 0x7C0 => some v.warn
  | 0xFC0 => some v.remaining
  | 0xFC1 => some (perchDie p * 2 ^ 16 + p)
  | 0xFC2 => some (if v.kind = 0 then 1 else v.dispatch)
  | 0xFC3 => some (d.tick % 2 ^ 32)
  | 0xFC4 => some v.spanId
  | 0xFC5 => some v.matrix.1
  | 0xFC6 => some v.matrix.2.1
  | 0xFC7 => some v.matrix.2.2
  | 0xFC8 => some v.memloss
  | _ => none

/-- A write of pspanwarn (R116): the pending warning ends, and one at or above the remaining count raises nothing. -/
def Perch.setWarn (v : Perch) (n : Nat) : Perch := { v with warn := n % 2 ^ 32, mip := v.mip % mipWarn }

/-- CSR writes of the sequencer. -/
def Dev.seqCsrWrite (d : Dev) (p num x : Nat) : Option Dev :=
  let k := (d.perch p).core
  let core := fun (k : RvCore) => some (d.updPerch p (fun v => { v with core := k }))
  match num with
  | 0x001 => core { k with fcsr := k.fcsr / 32 % 8 * 32 + x % 32 }
  | 0x002 => core { k with fcsr := x % 8 * 32 + k.fcsr % 32 }
  | 0x003 => core { k with fcsr := x % 256 }
  | 0x008 => core { k with vstart := x % perchVlen }
  | 0x009 => core { k with vxsat := x % 2 }
  | 0x00A => core { k with vxrm := x % 4 }
  | 0x00F => core { k with vxsat := x % 2, vxrm := x / 2 % 4 }
  | 0x300 => some (d.updPerch p (fun v => { v with mstatus := x &&& 0x88 }))
  | 0x301 => some d
  | 0x304 => some (d.updPerch p (fun v => { v with mie := x &&& mipWarn }))
  | 0x305 => some (d.updPerch p (fun v => { v with mtvec := x &&& 0xFFFFFFFD }))
  | 0x340 => some (d.updPerch p (fun v => { v with mscratch := x }))
  | 0x341 => some (d.updPerch p (fun v => { v with mepc := x / 2 * 2 }))
  | 0x342 => some (d.updPerch p (fun v => { v with mcause := x }))
  | 0x343 => some (d.updPerch p (fun v => { v with mtval := x }))
  | 0x344 => some d
  | 0xB00 => some (d.updPerch p (fun v => { v with mcycle := v.mcycle / 2 ^ 32 * 2 ^ 32 + x }))
  | 0xB80 => some (d.updPerch p (fun v => { v with mcycle := x * 2 ^ 32 + v.mcycle % 2 ^ 32 }))
  | 0xB02 => some (d.updPerch p (fun v => { v with minstret := v.minstret / 2 ^ 32 * 2 ^ 32 + x }))
  | 0xB82 => some (d.updPerch p (fun v => { v with minstret := x * 2 ^ 32 + v.minstret % 2 ^ 32 }))
  | 0x7C0 => some (d.updPerch p (fun v => v.setWarn x))
  | _ => none

/-- The sequencer of a perch as the shared RISC-V instructions see it (R81). -/
def perchBus (p : Nat) : RvBus Dev where
  rv64 := false
  vlen := perchVlen
  elen := 32
  get := fun d => (d.perch p).core
  put := fun d k => d.updPerch p (fun v => { v with core := k })
  load := fun d a n => if a % n ≠ 0 then .error (4, a) else d.seqLoad p a n
  store := fun d a n v => d.seqStore p a n v
  vload := fun d a n => d.seqLoad p a n
  vstore := fun d a n v => d.seqVStore p a n v
  csrRead := fun d n => d.seqCsrRead p n
  csrWrite := fun d n x => d.seqCsrWrite p n x
  fpOn := fun _ => true
  vecOn := fun _ => true

/-- Entry of a trap that is handled (R85): the RISC-V machine-mode entry, with IN_TRAP. -/
def Perch.trapEntry (v : Perch) (cause tval : Nat) : Perch :=
  let base := v.mtvec / 4 * 4
  let pc := if v.mtvec % 4 = 1 ∧ 2 ^ 31 ≤ cause then base + 4 * (cause % 2 ^ 31) else base
  { v with mepc := v.core.pc, mcause := cause, mtval := tval, inTrap := true, stall := .none,
           mstatus := (if bit v.mstatus 3 then 0x80 else 0), core := { v.core with pc := pc } }

/-- mret (R85). -/
def Perch.mretExit (v : Perch) : Perch :=
  { v with inTrap := false, mstatus := 0x80 + (if bit v.mstatus 7 then 8 else 0), core := { v.core with pc := v.mepc } }

/-- A trap is unhandled (R85). -/
def Perch.unhandled (v : Perch) : Bool := v.mtvec = 0 || v.inTrap

end Sys2Proof.Machine
end

