-- ==== Sys2Proof/Machine/ArrayCore.lean ====
section
/-! DEFINITION. The passes of the matrix array (R141 to R161): descriptors, row masks, rows fed, zero rows, completion. -/

namespace Sys2Proof.Machine

/-- Changes the array of a perch. -/
def Dev.updArr (d : Dev) (p : Nat) (f : Arr → Arr) : Dev := d.updPerch p (fun v => { v with arr := f v.arr })

/-- The offset of the first poisoned word of some bytes. -/
def poisonAt (off : Nat) (l : List PByte) : Option Nat := (l.findIdx? (·.2)).map (fun i => (off + i) / 8 * 8)

/-- A byte before a pass in flight wrote it. -/
def oldByte (w : List (Nat × List PByte)) (a : Nat) : Option PByte :=
  (w.find? (fun r => r.1 ≤ a && a < r.1 + r.2.length)).map (fun r => r.2.getD (a - r.1) (0, false))

/-- Writes a destination row of a pass and keeps what stood there (R144). -/
def Dev.passWrite (d : Dev) (p off : Nat) (v : List Byte) : Dev :=
  let old := d.spadRead p off v.length
  (d.spadWrite p off (clean v)).updPerch p (fun x => { x with arr := { x.arr with wrote := (off, old) :: x.arr.wrote } })

/-- Reads bytes that a pass may have overwritten: each differing byte is the old or the new one (R144). -/
def Dev.readEither (d : Dev) (p off n : Nat) : List PByte × Dev :=
  let new := d.spadRead p off n
  let w := (d.perch p).arr.wrote
  let old := new.zipIdx.map (fun z => (oldByte w (off + z.2)).getD z.1)
  if old = new then (new, d)
  else
    let (f, d) := d.freeBytes n
    (((old.zip new).zip f).map (fun z => if z.2.getLsbD 0 then z.1.1 else z.1.2), d)

/-- Offset of row `i` of a side. -/
def rowOff (base : Nat) (stride : Int) (i : Nat) : Nat := ((base : Int) + (i : Int) * stride).toNat

/-- Reads the words of a pass's mask up to that of group `g` (R151): the pass, or the offset of a poisoned word (R161). -/
def Dev.readMask (d : Dev) (p : Nat) (c : ArrCmd) (g : Nat) : Except Nat ArrCmd :=
  if c.maskRead g ∨ c.rows ≤ 256 * g then .ok c
  else
    let off := pdMask c.desc + c.mask.length
    let w := d.spadRead p off (32 * (g + 1) - c.mask.length)
    match poisonAt off w with
    | some o => .error o
    | none => .ok { c with mask := c.mask ++ plain w }

/-- No row of the pass is unmasked, as the scratchpad holds its mask (R142). -/
def Dev.noRow (d : Dev) (p : Nat) (c : ArrCmd) : Bool :=
  c.rows = 0 || (c.hasMask &&
    (let m := d.spadRead p (pdMask c.desc) (ceilDiv c.rows 8)
     !anyPoison m && (List.range c.rows).all (fun i => (m.getD (i / 8) (0#8, false)).1.getLsbD (i % 8))))

/-- Writes up to `n` zero rows of a pass (R152): the masked rows in ascending order, as far as the mask has been read. `fuel` bounds the rows looked at. -/
def Dev.zeroRows (p : Nat) : Nat → Nat → ArrCmd → Dev → ArrCmd × Dev
  | 0, _, c, d => (c, d)
  | f + 1, n, c, d =>
    if !c.zfill ∨ !c.hasMask ∨ c.rows ≤ c.zero ∨ !c.maskRead (c.zero / 256) then (c, d)
    else if !c.masked c.zero then Dev.zeroRows p f n { c with zero := c.zero + 1 } d
    else if n = 0 then (c, d)
    else Dev.zeroRows p f (n - 1) { c with zero := c.zero + 1 } (d.passWrite p (rowOff (pdDBase c.desc) (pdDStride c.desc) c.zero) (List.replicate 128 0#8))

/-- Writes every zero row that a pass has left, its mask read to the end. -/
def Dev.zeroRest (d : Dev) (p : Nat) (c : ArrCmd) : Except Nat (ArrCmd × Dev) :=
  if !c.zfill ∨ !c.hasMask then .ok (c, d)
  else match d.readMask p c ((c.rows - 1) / 256) with
    | .error o => .error o
    | .ok c => .ok (Dev.zeroRows p (c.rows + 1) c.rows c d)

/-- The pass that completes next (R143): passes complete in program order. -/
def Arr.nextDone (a : Arr) : Option ArrCmd := a.inflight.find? (fun c => c.ticket = (a.passes + 1) % 2 ^ 32)

/-- A pass that has left the queue completes (R145, R165): a gap begins where its rows were the last in flight. -/
def Arr.finish (a : Arr) (c : ArrCmd) : Arr :=
  let b : Arr := { a with inflight := a.inflight.filter (fun x => x.ticket ≠ c.ticket), passes := (a.passes + 1) % 2 ^ 32 }
  { b with window := b.window || (decide (0 < c.fed) && b.inGap), wrote := if b.inflight.isEmpty && b.queue.all (fun x => !x.started) then [] else b.wrote }

/-- The pass that completes next has left the queue: its zero rows are written, it completes and its CTR is incremented (R145). -/
def Dev.finishPass (d : Dev) (p : Nat) (c : ArrCmd) : Except Nat Dev :=
  match d.zeroRest p c with
  | .error o => .error o
  | .ok (_, d) => .ok ((d.updArr p (fun a => a.finish c)).ctrInc p (pdCtr c.desc))

/-- What ends with a span in the array (R157, R158, R165): nothing is fed, and a gap begins where rows were in flight. -/
def Arr.stop (a : Arr) : Arr := { a with inflight := [], wrote := [], window := a.window || !a.inGap }

/-- Rows that were fed drain, and every pass that waits for no pass in the queue completes (R158). `fuel` bounds the passes. -/
def Dev.arrayDrain (p : Nat) : Nat → Dev → Dev
  | 0, d => d
  | f + 1, d =>
    match (d.perch p).arr.nextDone with
    | none => d
    | some c =>
      match d.finishPass p c with
      | .ok d => Dev.arrayDrain p f d
      | .error _ => d

end Sys2Proof.Machine
end

