-- ==== Sys2Proof/Machine/CollMath.lean ====
section
/-! DEFINITION. The arithmetic of the collectives: exact sums, MAX and MIN, the fixed-order tree, one-bit compression, and the compact form of tun (R364 to R371). -/

namespace Sys2Proof.Machine

/-- Numbers of `k`-byte elements of a byte list, each with its poison. -/
def elems (k : Nat) (l : List PByte) : List (Nat × Bool) := (chunks k l).map (fun c => (leNat (c.map (·.1)), c.any (·.2)))

/-- The element codes of several contributions, transposed: one list per element. -/
def columns (n : Nat) (rows : List (List (Nat × Bool))) : List (List (Nat × Bool)) :=
  (List.range n).map (fun i => rows.map (fun r => r.getD i (0, false)))

/-- A binary32 code is NaN or infinite. -/
def nonFinite32 (c : Nat) : Bool := 0x7F800000 ≤ c % 2 ^ 31

/-- Sum of tuns. -/
def tunSum (l : List Tun) : Tun := l.foldl Tun.add {}

/-- An INT32 contribution as a tun (R365). -/
def Tun.ofInt32 (c : Nat) : Tun := { value := ofSigned 384 (toSigned 32 c * (2 ^ 160 : Nat)) }

/-- Order of binary32 values by magnitude and sign, +0 above −0 (R365). -/
def key32 (c : Nat) : Int := if bit c 31 then -((c % 2 ^ 31 : Nat) : Int) - 1 else ((c % 2 ^ 31 : Nat) : Int)

/-- A binary32 code is a NaN. -/
def isNan32 (c : Nat) : Bool := 0x7F800000 < c % 2 ^ 31

/-- MAX or MIN of binary32 codes (R365). -/
def pick32 (max : Bool) (l : List Nat) : Nat :=
  if l.any isNan32 then 0x7FC00000
  else l.foldl (fun a c => if (if max then key32 a < key32 c else key32 c < key32 a) then c else a) (l.headD 0)

/-- MAX or MIN of INT32 codes (R365). -/
def pickInt (max : Bool) (l : List Nat) : Nat :=
  l.foldl (fun a c => if (if max then toSigned 32 a < toSigned 32 c else toSigned 32 c < toSigned 32 a) then c else a) (l.headD 0)

/-- Adds neighbours pairwise (R367). -/
def addPairs : List Nat → List Nat
  | a :: b :: t => (fmtF32.addOp rmRNE a b).1 :: addPairs t
  | l => l

/-- The fixed-order tree (R367); `fuel` bounds its levels. -/
def treeSum : Nat → List Nat → Nat
  | 0, l => l.headD 0
  | f + 1, l => if l.length ≤ 1 then l.headD 0 else treeSum f (addPairs l)

/-- One bucket of a member as it travels (R368, R369): raw values, or a scale and the signs; and whether a sector of it is poisoned. -/
structure Bucket where
  raw : Bool := false
  scale : Nat := 0
  vals : List Nat := []
  negs : List Bool := []
  poison : Bool := false

/-- A bucket and its new residues from contribution and residue codes (R368). -/
def makeBucket (x r : List (Nat × Bool)) : Bucket × List Nat :=
  let v := (x.zip r).map (fun p => (fmtF32.addOp rmRNE p.1.1 p.2.1).1)
  let poison := x.any (·.2) || r.any (·.2)
  if (x.any (fun p => nonFinite32 p.1)) || (r.any (fun p => nonFinite32 p.1)) || v.any nonFinite32 then
    ({ raw := true, vals := v, poison := poison }, v.map (fun _ => 0))
  else
    let s := 2 ^ 64 * (tunSum (v.map (fun c => Tun.ofF32 (c % 2 ^ 31)))).value
    let n := max 1 v.length
    let scale := if s = 0 then 0 else (fmtF32.round rmRNE false (s / n) (-224) (s % n ≠ 0)).1
    let negs := v.map (fun c => bit c 31)
    let d := negs.map (fun b => if b then scale + 2 ^ 31 else scale)
    ({ scale := scale, negs := negs, poison := poison }, (v.zip d).map (fun p => (fmtF32.subOp rmRNE p.1 p.2).1))

/-- The values that a bucket contributes (R368). -/
def Bucket.decoded (b : Bucket) : List Nat := if b.raw then b.vals else b.negs.map (fun n => if n then b.scale + 2 ^ 31 else b.scale)

/-- Signs packed eight to a byte (R369). -/
def signBytes (l : List Bool) : List Byte := (chunks 8 l).map (fun c => BitVec.ofNat 8 (c.zipIdx.foldl (fun n p => n + b2n p.1 * 2 ^ p.2) 0))

/-- A bucket on the wire (R369). -/
def Bucket.wire (b : Bucket) : List PByte :=
  (if b.raw then leBytes 4 0xFFFFFFFF ++ b.vals.flatMap (leBytes 4) else leBytes 4 b.scale ++ signBytes b.negs).map (fun x => (x, b.poison))

/-- Reads a bucket of `n` elements from the wire: the bucket and what follows, where the bytes suffice. -/
def Bucket.parse (n : Nat) (l : List PByte) : Option (Bucket × List PByte) :=
  let scale := leNat ((l.take 4).map (·.1))
  let len := if scale = 0xFFFFFFFF then 4 + 4 * n else 4 + ceilDiv n 8
  if l.length < len then none
  else
    let body := (l.take len).drop 4
    let poison := (l.take len).any (·.2)
    if scale = 0xFFFFFFFF then some ({ raw := true, vals := (elems 4 body).map (·.1), poison := poison }, l.drop len)
    else some ({ scale := scale, negs := (List.range n).map (fun i => bit (body.getD (i / 8) (0, false)).1.toNat (i % 8)), poison := poison }, l.drop len)

/-- Sizes of the buckets or blocks of `count` elements: whole ones of `w`, then the rest. -/
def groupSizes (w count : Nat) : List Nat := List.replicate (count / w) w ++ (if count % w = 0 then [] else [count % w])

/-- The buckets of a member, with its new residues (R368). -/
def makeBuckets (x r : List (Nat × Bool)) : List (Bucket × List Nat) := ((chunks 256 x).zip (chunks 256 r)).map (fun p => makeBucket p.1 p.2)

/-- Limb `i` of a tun. -/
def limb (v i : Nat) : Nat := bits v (32 * i) 32

/-- The limbs above `t` are the sign extension of limb `t` (R366). -/
def extendsFrom (v t : Nat) : Bool :=
  let s := if bit (limb v t) 31 then 0xFFFFFFFF else 0
  (List.range 12).all (fun i => i ≤ t || limb v i = s)

/-- The compact form of an element: header and limbs (R366). -/
def Tun.compact (t : Tun) : Nat × List Byte :=
  if t.nan || (t.posInf && t.negInf) then (0xF0, [])
  else if t.posInf then (0xD0, [])
  else if t.negInf then (0xE0, [])
  else if t.value = 0 then (0, [])
  else
    let off := ((List.range 12).find? (fun i => limb t.value i ≠ 0)).getD 0
    let top := ((List.range 12).find? (fun i => off ≤ i && extendsFrom t.value i)).getD 11
    (off + 16 * (top - off + 1), (List.range (top - off + 1)).flatMap (fun i => leBytes 4 (limb t.value (off + i))))

/-- A tun as it is after it has travelled: with a state bit set it has no value, and the states that give NaN are one (R366). -/
def Tun.settled (t : Tun) : Tun :=
  if t.nan || (t.posInf && t.negInf) then { nan := true } else if t.posInf then { posInf := true } else if t.negInf then { negInf := true } else t

/-- A block of elements in compact form (R366). -/
def compactBlock (l : List Tun) : List Byte :=
  let c := l.map Tun.compact
  c.map (fun x => BitVec.ofNat 8 x.1) ++ c.flatMap (·.2)

/-- Limbs that follow a header. -/
def headerLimbs (h : Nat) : Nat := if h / 16 ≤ 12 then h / 16 else 0

/-- A tun from its header and limbs (R366). -/
def Tun.ofCompact (h : Nat) (l : List Byte) : Tun :=
  let len := h / 16 % 16
  if len = 13 then { posInf := true }
  else if len = 14 then { negInf := true }
  else if len = 15 then { nan := true }
  else { value := ofSigned 384 (toSigned (32 * len) (leNat l) * (2 ^ (32 * (h % 16)) : Nat)) }

/-- Reads elements by their headers. -/
def ofCompactList : List Nat → List PByte → Option (List (Tun × Bool) × List PByte)
  | [], l => some ([], l)
  | h :: t, l =>
    let n := 4 * headerLimbs h
    if l.length < n then none
    else (ofCompactList t (l.drop n)).map (fun r => ((Tun.ofCompact h ((l.take n).map (·.1)), (l.take n).any (·.2)) :: r.1, r.2))

/-- Reads blocks of the sizes named from a stream; none while bytes are missing. -/
def parseBlocks : List Nat → List PByte → Option (List (Tun × Bool))
  | [], _ => some []
  | n :: t, l =>
    if l.length < n then none
    else match ofCompactList ((l.take n).map (fun b => b.1.toNat)) (l.drop n) with
      | none => none
      | some (e, rest) => (parseBlocks t rest).map (fun r => e ++ r)

/-- Reads the buckets of the sizes named, for one member after another. -/
def parseBuckets : List Nat → List PByte → Option (List Bucket × List PByte)
  | [], l => some ([], l)
  | n :: t, l => match Bucket.parse n l with
    | none => none
    | some (b, rest) => (parseBuckets t rest).map (fun r => (b :: r.1, r.2))

/-- Buckets of several members in one stream. -/
def parseMembers (sizes : List Nat) : Nat → List PByte → Option (List (List Bucket))
  | 0, _ => some []
  | m + 1, l => match parseBuckets sizes l with
    | none => none
    | some (b, rest) => (parseMembers sizes m rest).map (fun r => b :: r)

end Sys2Proof.Machine
end

