-- ==== Sys2Proof/Machine/CollOps.lean ====
section
/-! DEFINITION. Collective instances (R352 to R376): posting, the count check, translation, results, status records and the ways an instance ends. -/

namespace Sys2Proof.Machine

/-- Status codes (R360). -/
def csOk : Nat := 0
def csMissing : Nat := 1
def csCountError : Nat := 2
def csPeerLost : Nat := 3
def csTimeout : Nat := 4
def csFault : Nat := 5

/-- A definition of the table in force (R354). -/
def Dev.collDef (d : Dev) (coll : Nat) : Option CollDef := d.sched.collDefs.find? (fun c => c.collId = coll)

/-- The member entries of a definition (R355). -/
def Dev.collMembers (d : Dev) (c : CollDef) : List CollMember := (d.sched.collMembers.drop c.memberFirst).take c.memberCount

/-- What is known of a definition in this tick. -/
def Dev.coll (d : Dev) (coll : Nat) : CollDefState := KMap.get {} d.colls coll

/-- Changes it. -/
def Dev.updColl (d : Dev) (coll : Nat) (f : CollDefState → CollDefState) : Dev := { d with colls := KMap.upd {} d.colls coll f }

/-- Members of this package with their indices. -/
def Dev.collMine (d : Dev) (c : CollDef) : List (CollMember × Nat) := (d.collMembers c).zipIdx.filter (fun m => m.1.package = d.pkgId)

/-- Packages of a definition other than this one. -/
def Dev.collPeers (d : Dev) (c : CollDef) : List Nat :=
  (d.collMembers c).foldl (fun l m => if m.package = d.pkgId ∨ l.contains m.package then l else l ++ [m.package]) []

/-- A member's span runs on its perch (R361). -/
def Dev.memberRuns (d : Dev) (m : CollMember) : Bool := (d.perch m.perch).pstate = 3 && (d.perch m.perch).spanId = m.spanId

/-- A member is lost (R376): its die, its package or the way to it, at any time of the tick, or this package is detached (R411). -/
def Dev.memberLost (d : Dev) (m : CollMember) : Bool :=
  if d.rd 0 Reg.LINK_STATE.LEAGUE = 3 then true
  else if m.package = d.pkgId then d.dieFailed (perchDie m.perch)
  else bit (d.rd 0 Reg.LINK_LOST.LOST) m.package || !d.remoteUp m.package || d.rd 0 (Reg.LINK_ROUTE.EPOCH.at 8 m.package) = 0 || d.noPlane.contains m.package

/-- The lowest lost member of a definition. -/
def Dev.collLost (d : Dev) (c : CollDef) : Option Nat := (d.collMembers c).findIdx? (fun m => d.memberLost m)

/-- The engine of a die as a requester (R348, R626 UNIT 32). -/
def collXq (die part : Nat) : Xq := { mmu := mmuColl die, part := part, unit := 32, req := 0, die := die }

/-- The dies whose COLL blocks count an instance: those with members, and S0 (R382). -/
def Dev.collDies (d : Dev) (c : CollDef) : List Nat :=
  (d.collMine c).foldl (fun l m => if l.contains (perchDie m.1.perch) then l else l ++ [perchDie m.1.perch]) [0]

/-- The post record that a member posted with: COUNT, reserved field, SRC_OFF, DST_OFF, and whether its read failed (R353, R357). -/
structure PostRec where
  count : Nat
  reserved : Nat
  srcOff : Nat
  dstOff : Nat
  bad : Bool

/-- A post record from its 16 bytes and mark. -/
def PostRec.ofNat (n : Nat) : PostRec := ⟨bits n 0 32, bits n 32 32, bits n 64 32, bits n 96 32, bit n 128⟩

/-- The record of a member. -/
def CollDefState.rec_ (s : CollDefState) (member : Nat) : PostRec := PostRec.ofNat (KMap.get 0 s.recs member)

/-- Number of invocations a member has posted. -/
def CollDefState.count (s : CollDefState) (member : Nat) : Nat := KMap.get 0 s.posted member

/-- What has come from another package for an invocation. -/
def CollDefState.peer (s : CollDefState) (k pkg : Nat) : CollPeer :=
  ((KMap.get [] s.peers k).find? (fun p => p.pkg = pkg)).getD { pkg := pkg }

/-- Replaces what has come from another package. -/
def CollDefState.setPeer (s : CollDefState) (k : Nat) (p : CollPeer) : CollDefState :=
  { s with peers := KMap.set [] s.peers k ((KMap.get [] s.peers k).filter (fun x => x.pkg ≠ p.pkg) ++ [p]) }

/-- Instances in progress with a member on a die, or in all (R377). -/
def Dev.collActive (d : Dev) (die : Option Nat) : Nat :=
  d.colls.foldl (fun n e => match d.collDef e.1, die with
    | some c, some die => if (d.collDies c).contains die then n + e.2.insts.length else n
    | _, _ => n + e.2.insts.length) 0

/-- Shows the instances in progress (R381). -/
def Dev.collShow (d : Dev) (c : CollDef) : Dev :=
  (d.collDies c).foldl (fun d die =>
    let n := d.collActive (if die = 0 then none else some die)
    (d.wr die Reg.COLL_STATUS.ACTIVE n).raiseMax die Reg.COLL_STATUS.PEAK n) d

/-- The 32-byte status record (R360). -/
def collRecord (tick coll k status flags count firstNf member : Nat) : List Byte :=
  leBytes 8 tick ++ leBytes 2 coll ++ leBytes 2 k ++ leBytes 1 status ++ leBytes 1 flags ++ leBytes 2 0 ++ leBytes 4 count ++ leBytes 4 firstNf
    ++ leBytes 2 member ++ leBytes 6 0

/-- Writes a member's status record (R360). -/
def Dev.collStatus (d : Dev) (c : CollDef) (m : CollMember) (k : Nat) (bytes : List Byte) : Dev :=
  let die := perchDie m.perch
  let x := collXq die c.partition
  (d.dvaWrite x (.coll die 0 0 0 0) (x.rq false true) none (m.statusDva + 32 * ((k - 1) % 8)) (clean bytes)).2

/-- Counts the end of an instance on its dies (R382, R383, R609). -/
def Dev.collCount (d : Dev) (c : CollDef) (tick status flags member : Nat) : Dev :=
  (d.collDies c).foldl (fun d die =>
    let d := if status = csOk then d.inc die Reg.COLL_CNT.DONE 1 else (d.inc die Reg.COLL_CNT.FAILED 1).raiseErr die 9
    let d := if bit flags 0 then d.inc die Reg.COLL_CNT.NONFINITE 1 else d
    if status = csOk ∨ d.rd die Reg.COLL_LAST_ERR.VALID = 1 then d
    else ((((d.wr die Reg.COLL_LAST_ERR.VALID 1).wr die Reg.COLL_LAST_ERR.STATUS status).wr die Reg.COLL_LAST_ERR.COLL_ID c.collId).wr die
      Reg.COLL_LAST_ERR.MEMBER member).wr die Reg.COLL_LAST_ERR.TICK_LO tick) d

/-- Sends a COLL_CTRL packet of an invocation to every other package of the definition (R399): what it tells (1 posting, 2 credit and translated buffers, 3 end,
4 a fault), a status, a member plus 1, a value, and another (DESIGN CHOICE, assumption 93). -/
def Dev.collTell (d : Dev) (c : CollDef) (k what status member value more : Nat) : Dev :=
  (d.collPeers c).foldl (fun d pkg =>
    if !d.remoteUp pkg then d
    else
      let q := d.packetTo 0x11 pkg c.partition (d.tick % 2 ^ 16) (c.collId + k % 2 ^ 16 * 2 ^ 10) 12
      d.sendPlane (planePick (d.planesTo pkg) 0)
        { q with payload := leBytes 1 what ++ leBytes 1 status ++ leBytes 2 (member + 1) ++ leBytes 4 value ++ leBytes 4 more }) d

/-- Changes an instance. -/
def Dev.updInst (d : Dev) (c : CollDef) (k : Nat) (f : CollInst → CollInst) : Dev :=
  d.updColl c.collId (fun s => { s with insts := s.insts.map (fun x => if x.k = k then f x else x) })

/-- An access to another package belongs to an instance. -/
def Agent.ofColl (a : Agent) (id k : Nat) : Bool :=
  match a with
  | .coll _ i n _ _ => i = id && n = k
  | _ => false

/-- Accesses of the engines that a predicate names belong to nobody any longer: reads are dropped, writes go on (R374). -/
def Dev.collDetach (d : Dev) (p : Agent → Bool) : Dev :=
  { d with remote := (d.remote.filter (fun r => !(p r.agent && r.isRead))).map (fun r =>
      if p r.agent then { r with agent := (match r.agent with
        | .coll die .. => Agent.coll die 0 0 0 0
        | a => a) } else r) }

/-- Ends an instance here with its verdict (R374): a record for every member on a living die, the increments where the status gives them and the member has not
completed, the counts. -/
def Dev.collEnd (d : Dev) (c : CollDef) (i : CollInst) (v : CollVerdict) : Dev :=
  let s := d.coll c.collId
  let incr : Bool := decide (v.status = csMissing ∨ v.status = csCountError ∨ v.status = csFault)
  let d := (d.collMine c).foldl (fun (d : Dev) (m : CollMember × Nat) =>
    if d.dieFailed (perchDie m.1.perch) then d
    else
      let n := if c.op = 4 then 0 else if v.counted then i.count else if i.k ≤ s.count m.2 then (s.rec_ m.2).count else 0
      let d := d.collStatus c m.1 i.k (collRecord i.tick c.collId i.k v.status i.flags n i.firstNf v.member)
      if incr && d.memberRuns m.1 && !i.done.contains m.2 then d.ctrInc m.1.perch m.1.doneCtr else d) d
  let d := d.updColl c.collId (fun s => { s with insts := s.insts.filter (fun x => x.k ≠ i.k), peers := KMap.set [] s.peers i.k [] })
  ((d.collDetach (fun a => a.ofColl c.collId i.k)).collCount c i.tick v.status i.flags v.member).collShow c

/-- Ends the instances that have a verdict, in ascending order and not past one in progress (R359); `fuel` bounds them. -/
def Dev.collEnds (c : CollDef) : Nat → Dev → Dev
  | 0, d => d
  | f + 1, d =>
    let l := (d.coll c.collId).insts
    match l.find? (fun i => l.all (fun j => i.k ≤ j.k)) with
    | none => d
    | some i => match i.verdict with
      | none => d
      | some v => Dev.collEnds c f (d.collEnd c i v)

/-- Ends what is due of a definition. -/
def Dev.collSettle (d : Dev) (c : CollDef) : Dev := Dev.collEnds c (d.coll c.collId).insts.length d

/-- Decides how an invocation ends here (R374): the first verdict stands. -/
def Dev.collDecide (d : Dev) (c : CollDef) (k : Nat) (v : CollVerdict) : Dev :=
  let s := d.coll c.collId
  let d := if s.insts.any (fun i => i.k = k) then d.updInst c k (fun i => if i.verdict.isSome then i else { i with verdict := some v })
    else d.updColl c.collId (fun s => { s with begun := max s.begun k, insts := s.insts ++ [{ k := k, tick := d.tick, verdict := some v }] })
  d.collSettle c

/-- Decides it here and at the other packages; a lost member is known to each of them (R374, R376, R399). -/
def Dev.collFail (d : Dev) (c : CollDef) (k status member : Nat) (counted : Bool) : Dev :=
  let d := d.collDecide c k { status := status, member := member, counted := counted }
  if status = csPeerLost then d else d.collTell c k 3 status member (b2n counted) 0

/-- An access error that a translated range would meet (R26, R374): recorded at the engine's die. -/
def Dev.rangeAccess (d : Dev) (q : Rq) (ps : List (Nat × Nat)) : Bool × Dev :=
  let bad := ps.findSome? (fun t => match d.localOf t.1 with
    | none => none
    | some pa => match d.region pa with
      | .host _ => if d.hostOk then none else some (pa, 3)
      | _ => (lineSegs pa t.2).findSome? (fun s => (d.accFault q (s.1 * 128 + s.2.1)).map (fun k => (s.1 * 128 + s.2.1, k))))
  match bad with
  | some (pa, k) => (true, d.accErr q.die k q pa)
  | none => (false, d)

/-- Translates a buffer of a member whole: false where it faults. -/
def Dev.collBuffer (d : Dev) (x : Xq) (dva n access : Nat) : Bool × Dev :=
  if n = 0 then (true, d)
  else match d.translateRange x dva n access with
    | (.error _, d) => (false, d)
    | (.ok ps, d) =>
      let (bad, d) := d.rangeAccess (x.rq false false) ps
      (!bad, d)

/-- Translates the buffers of one member: source, residue, destination. -/
def Dev.collBuffers (d : Dev) (c : CollDef) (m : CollMember) (idx count srcOff dstOff : Nat) : Bool × Dev :=
  let x := collXq (perchDie m.perch) c.partition
  let (a, d) := d.collBuffer x (m.srcDva + srcOff) (c.readBytes count (idx = c.root)) axRead
  let (b, d) := if a ∧ c.op = 5 then d.collBuffer x (m.resDva + srcOff) (count * 4) axWrite else (a, d)
  if b then d.collBuffer x (m.dstDva + dstOff) (c.writeBytes count) axWrite else (false, d)

/-- A home that a buffer of a member touches holds the partition's requests (R264). -/
def Dev.bufferHeld (d : Dev) (x : Xq) (dva n access : Nat) : Bool :=
  match (d.translateRange x dva n access).1 with
  | .ok ps => ps.any (fun t => d.homeFull (x.rq false false) (fun _ => false) t.1 t.2)
  | .error _ => false

/-- A home holds the read of a member's contribution or residue. -/
def Dev.collReadHeld (d : Dev) (c : CollDef) (m : CollMember) (idx count srcOff : Nat) : Bool :=
  let x := collXq (perchDie m.perch) c.partition
  d.bufferHeld x (m.srcDva + srcOff) (c.readBytes count (idx = c.root)) axRead || (c.op = 5 && d.bufferHeld x (m.resDva + srcOff) (count * 4) axRead)

/-- A home holds the write of a member's result or residue. -/
def Dev.collWriteHeld (d : Dev) (c : CollDef) (i : CollInst) (idx : Nat) (m : CollMember) : Bool :=
  let x := collXq (perchDie m.perch) c.partition
  let (so, dst) := ((i.offs.find? (fun o => o.1 = idx)).map (·.2)).getD (0, 0)
  (d.memberRuns m && d.bufferHeld x (m.dstDva + dst) i.result.length axWrite)
    || i.residues.any (fun r => r.1 = idx && d.bufferHeld x (m.resDva + so) r.2.length axWrite)

/-- Reads a part of a member's buffer for an instance (R362). Bytes in another package are asked for, and zeros stand for them until they come (R308); what the
host window answers is free. -/
def Dev.collRead (d : Dev) (c : CollDef) (k : Nat) (m : CollMember) (idx part dva n : Nat) : List PByte × Dev :=
  if n = 0 then ([], d)
  else
    let die := perchDie m.perch
    let x := collXq die c.partition
    match d.translateRange x dva n axRead with
    | (.error _, d) => d.poisonBytes n
    | (.ok ps, d) => ps.foldl (fun (r : List PByte × Dev) t =>
      let (acc, d) := r
      match d.localOf t.1 with
      | some pa =>
        let (f, d) := d.freeBytes t.2
        let (b, _, d) := d.readLocal (x.rq false false) none ⟨f, false⟩ pa t.2
        (acc ++ b, d)
      | none =>
        if d.remoteUp (t.1 / 2 ^ 48) then
          (acc ++ clean (List.replicate t.2 0#8), (granuleSegs t.1 t.2).foldl (fun (d : Dev) g =>
            let tag := d.nextTag
            let d := d.remoteReadOne (.coll die c.collId k idx part) c.partition g.1 g.2 []
            { d with remote := d.remote.map (fun o => if o.tag = tag ∧ o.isRead ∧ o.agent.ofColl c.collId k then { o with pos := acc.length + g.1 - t.1 } else o) }) d)
        else
          let (b, d) := d.dropRead t.1 t.2
          (acc ++ b, d)) ([], d)

/-- Poisons every byte of the elements that a mark names. -/
def markElems (k : Nat) (codes : List Nat) (bad : List Bool) : List PByte := (codes.zip bad).flatMap (fun p => (leBytes k p.1).map (fun b => (b, p.2)))

/-- What the other packages contribute, where all of it is here (R366, R369). -/
structure RemoteParts where
  /-- Exact sums: one partial per element and package. -/
  tuns : List (List (Tun × Bool)) := []
  /-- MAX and MIN: one partial per element and package. -/
  plain : List (List (Nat × Bool)) := []
  /-- Other operations: contributions by member. -/
  byMember : List (Nat × List PByte) := []
  /-- COMPRESSED: buckets by member. -/
  buckets : List (Nat × List Bucket) := []
  /-- MAX and MIN: the lowest non-finite element of the other packages' contributions (R371). -/
  firstNf : Nat := 0xFFFFFFFF

/-- Result, flags, first non-finite element and residues of an instance (R362 to R372). -/
def CollDef.compute (c : CollDef) (count : Nat) (parts : List (Nat × List PByte × List PByte)) (r : RemoteParts) :
    List PByte × Nat × Nat × List (Nat × List PByte) :=
  let first := fun (l : List Bool) => (l.findIdx? id).getD 0xFFFFFFFF
  let rows := parts.map (fun p => elems 4 p.2.1)
  let anyBad := fun (l : List (Nat × Bool)) => l.any (·.2)
  if c.op = 4 then ([], 0, 0xFFFFFFFF, [])
  else if c.op = 5 then
    let mine := parts.map (fun p => (p.1, makeBuckets (elems 4 p.2.1) (elems 4 p.2.2)))
    let all := (mine.map (fun p => p.2.map (·.1))) ++ r.buckets.map (·.2)
    let sizes := groupSizes 256 count
    let cols := (List.range sizes.length).map (fun b => all.map (fun m => m.getD b {}))
    let out := (cols.zip sizes).flatMap (fun p =>
      let bad := p.1.any (·.poison)
      (List.range p.2).map (fun i => ((tunSum (p.1.map (fun b => Tun.ofF32 (b.decoded.getD i 0)))).toF32, bad)))
    let nf := (cols.zip sizes).flatMap (fun p =>
      (List.range p.2).map (fun i => p.1.any (fun b => b.raw && nonFinite32 (b.vals.getD i 0))))
    let inputs := (List.range count).map (fun i => parts.any (fun p =>
      nonFinite32 ((elems 4 p.2.1).getD i (0, false)).1 || nonFinite32 ((elems 4 p.2.2).getD i (0, false)).1))
    let nf := (nf.zip inputs).map (fun p => p.1 || p.2)
    let raw := all.any (fun m => m.any (·.raw))
    let res := mine.map (fun p => (p.1, p.2.flatMap (fun b => markElems 4 b.2 (b.2.map (fun _ => b.1.poison)))))
    (markElems 4 (out.map (·.1)) (out.map (·.2)), b2n (nf.any id) + 4 * b2n raw + 8 * b2n (out.any (·.2)), first nf, res)
  else if c.op = 3 then
    let v := match parts.find? (fun p => p.1 = c.root) with
      | some p => p.2.1
      | none => ((r.byMember.find? (fun p => p.1 = c.root)).map (·.2)).getD []
    (v, 8 * b2n (v.any (·.2)), 0xFFFFFFFF, [])
  else if c.op = 2 then
    let v := (List.range c.memberCount).flatMap (fun i => match parts.find? (fun p => p.1 = i) with
      | some p => p.2.1
      | none => ((r.byMember.find? (fun p => p.1 = i)).map (·.2)).getD [])
    (v, 8 * b2n (v.any (·.2)), 0xFFFFFFFF, [])
  else if c.exactSum ∧ c.dtype = 0 then
    let cols := (List.range count).map (fun i =>
      let own := rows.map (fun l => l.getD i (0, false))
      let far := r.tuns.map (fun l => l.getD i ({}, false))
      ((tunSum (own.map (fun e => Tun.ofF32 e.1) ++ far.map (·.1))).settled, anyBad own || far.any (·.2)))
    let nf := cols.map (fun t => decide (t.1.state ≠ 0))
    let out := if c.resultFmt = 1 then cols.flatMap (fun t => t.1.record.map (fun b => (b, t.2)))
      else markElems 4 (cols.map (fun t => t.1.toF32)) (cols.map (·.2))
    (out, b2n (nf.any id) + 8 * b2n (cols.any (·.2)), first nf, [])
  else if c.exactSum then
    let cols := (List.range count).map (fun i =>
      let own := rows.map (fun l => l.getD i (0, false))
      let far := r.tuns.map (fun l => l.getD i ({}, false))
      (toSigned 384 (tunSum (own.map (fun e => Tun.ofInt32 e.1) ++ far.map (·.1))).value / (2 ^ 160 : Nat), anyBad own || far.any (·.2)))
    let wrap := cols.any (fun t => t.1 < -(2 ^ 31 : Nat) || (2 ^ 31 : Nat) ≤ t.1)
    (markElems 4 (cols.map (fun t => ofSigned 32 t.1)) (cols.map (·.2)), 2 * b2n wrap + 8 * b2n (cols.any (·.2)), 0xFFFFFFFF, [])
  else
    let far := if c.isPick then r.plain else r.byMember.map (fun p => elems 4 p.2)
    let ordered := if c.isPick then rows ++ far
      else (List.range c.memberCount).map (fun i => match parts.find? (fun p => p.1 = i) with
        | some p => elems 4 p.2.1
        | none => ((r.byMember.find? (fun p => p.1 = i)).map (fun p => elems 4 p.2)).getD [])
    let cols := columns count ordered
    let value := fun (l : List Nat) => if c.isPick then (if c.dtype = 0 then pick32 (c.redop = 1) l else pickInt (c.redop = 1) l) else treeSum (l.length + 1) l
    let nf := cols.map (fun l => c.dtype = 0 && l.any (fun e => nonFinite32 e.1))
    let low := min (first nf) (if c.isPick then r.firstNf else 0xFFFFFFFF)
    (markElems 4 (cols.map (fun l => value (l.map (·.1)))) (cols.map anyBad), b2n (low ≠ 0xFFFFFFFF) + 8 * b2n (cols.any anyBad), low, [])

/-- The package's data for other packages (R366, R369): exact partials in compact blocks, one partial of MAX or MIN, or its members' data in member order. -/
def CollDef.outStream (c : CollDef) (count : Nat) (parts : List (Nat × List PByte × List PByte)) : List PByte :=
  let rows := parts.map (fun p => elems 4 p.2.1)
  if c.op = 4 ∨ count = 0 then []
  else if c.exactSum then
    let cols := columns count rows
    (chunks 32 cols).flatMap (fun b =>
      let bad := b.any (fun l => l.any (·.2))
      (compactBlock (b.map (fun l => tunSum (l.map (fun e => if c.dtype = 0 then Tun.ofF32 e.1 else Tun.ofInt32 e.1))))).map (fun x => (x, bad)))
  else if c.isPick then
    let cols := columns count rows
    let value := fun (l : List Nat) => if c.dtype = 0 then pick32 (c.redop = 1) l else pickInt (c.redop = 1) l
    markElems 4 (cols.map (fun l => value (l.map (·.1)))) (cols.map (fun l => l.any (·.2)))
  else if c.op = 5 then parts.flatMap (fun p => (makeBuckets (elems 4 p.2.1) (elems 4 p.2.2)).flatMap (fun b => b.1.wire))
  else parts.flatMap (fun p => p.2.1)

/-- The first non-finite element among the binary32 contributions of this package, for MAX and MIN (R371). -/
def CollDef.nfHere (c : CollDef) (count : Nat) (parts : List (Nat × List PByte × List PByte)) : Nat :=
  if c.isPick && c.dtype = 0 then
    ((columns count (parts.map (fun p => elems 4 p.2.1))).findIdx? (fun l => l.any (fun e => nonFinite32 e.1))).getD 0xFFFFFFFF
  else 0xFFFFFFFF

/-- Adds what one package has sent, where it is whole. -/
def Dev.peerParts (d : Dev) (c : CollDef) (count : Nat) (acc : Option RemoteParts) (p : CollPeer) : Option RemoteParts :=
  let data := (sortBy (fun (b : Nat × List PByte) => b.1) p.inbox).flatMap (·.2)
  let members := ((d.collMembers c).zipIdx.filter (fun m => m.1.package = p.pkg)).map (·.2)
  match acc with
  | none => none
  | some r =>
    if !p.posted then none
    else if c.op = 4 ∨ count = 0 then some r
    else if p.buffers ≠ 1 then none
    else if c.exactSum then (parseBlocks (groupSizes 32 count) data).map (fun l => { r with tuns := r.tuns ++ [l] })
    else if c.isPick then
      (if data.length < 4 * count then none
       else some { r with plain := r.plain ++ [elems 4 (data.take (4 * count))], firstNf := min r.firstNf p.firstNf })
    else if c.op = 5 then
      (parseMembers (groupSizes 256 count) members.length data).map (fun l => { r with buckets := r.buckets ++ members.zip l })
    else
      let n := c.readBytes count true
      let senders := if c.op = 3 then members.filter (fun i => i = c.root) else members
      if data.length < n * senders.length then none else some { r with byMember := r.byMember ++ senders.zip (chunks n (data.take (n * senders.length))) }

/-- Packets of one instance's data that the credit of a package allows (R401): their blocks count on. -/
def Dev.collSend (d : Dev) (c : CollDef) (k : Nat) (i : CollInst) (p : CollPeer) : Dev :=
  let n := min (p.credit - p.sent) (i.stream.length - p.sent)
  if n = 0 ∨ !d.remoteUp p.pkg then d
  else
    let pieces := chunks 256 ((i.stream.drop p.sent).take n)
    let d := pieces.zipIdx.foldl (fun d z =>
      let q := d.packetTo 0x10 p.pkg c.partition (d.tick % 2 ^ 16) (c.collId + k % 2 ^ 16 * 2 ^ 10 + (p.blocks + z.2) * 2 ^ 26) z.1.length
      d.sendPlane (planePick (d.planesTo p.pkg) (p.blocks + z.2)) { q with poison := anyPoison z.1, payload := plain z.1 }) d
    let d := d.incMod 0 Reg.COLL_BYTES.BYTES n
    d.updColl c.collId (fun s => s.setPeer k { p with sent := p.sent + n, blocks := p.blocks + pieces.length })

/-- Sends an instance's data to every package as far as its credit allows. -/
def Dev.collSendAll (d : Dev) (c : CollDef) (k : Nat) : Dev :=
  (d.collPeers c).foldl (fun d p => match (d.coll c.collId).insts.find? (fun i => i.k = k) with
    | some i => d.collSend c k i ((d.coll c.collId).peer k p)
    | none => d) d

/-- The lowest faulting member of an instance, once every package has told of its buffers and one has a fault (R374). -/
def Dev.collFault (d : Dev) (c : CollDef) (i : CollInst) : Option Nat :=
  let ps := (d.collPeers c).map (fun p => (d.coll c.collId).peer i.k p)
  if ps.any (fun p => p.buffers = 0) then none
  else
    let l := i.fault.toList ++ (ps.filter (fun p => p.buffers = 2)).map (·.fault)
    match l with
    | [] => none
    | m :: t => some (t.foldl min m)

/-- Goes on with an instance, where its engines reach each other (R36): it ends with FAULT where a member's buffer faults, and its result is computed once every package's data is here. -/
def Dev.collFinish (d : Dev) (c : CollDef) (k : Nat) : Dev :=
  let s := d.coll c.collId
  match s.insts.find? (fun i => i.k = k && !i.ready && i.verdict.isNone) with
  | none => d
  | some i =>
    match d.collFault c i with
    | some m => d.collFail c k csFault m true
    | none =>
      let dies := d.collDies c
      if i.phase ≠ 2 ∨ dies.any (fun a => dies.any (fun b => d.unreached a b)) then d
      else match (d.collPeers c).foldl (fun acc p => d.peerParts c i.count acc (s.peer k p)) (some {}) with
      | none => d
      | some r =>
        let (out, flags, nf, res) := c.compute i.count i.parts r
        let d := d.updInst c k (fun x => { x with ready := true, flags := flags, firstNf := nf, result := out, residues := res, parts := [] })
        let dies := (d.collDies c).filter (fun e => e ≠ 0)
        if dies.length ≤ 1 then d
        else dies.foldl (fun d die => let (w, d) := d.free; d.incMod die Reg.COLL_BYTES.BYTES w) d

/-- The lowest of some members. -/
def lowestOf (l : List Nat) : Option Nat :=
  match l with
  | [] => none
  | m :: t => some (t.foldl min m)

/-- The members of this package whose post record fails the check of R359 against a COUNT. -/
def Dev.collWrong (d : Dev) (c : CollDef) (s : CollDefState) (base : Nat) : Option Nat :=
  lowestOf (((d.collMine c).filter (fun m =>
    let r := s.rec_ m.2
    r.count ≠ base || c.maxCount < r.count || r.reserved ≠ 0 || (c.resultFmt = 1 && r.dstOff % 64 ≠ 0))).map (·.2))

/-- The COUNT of this package's lowest member. -/
def Dev.collOwnCount (d : Dev) (c : CollDef) (s : CollDefState) : Nat := ((d.collMine c).head?.map (fun m => (s.rec_ m.2).count)).getD 0

/-- The members of this package whose post record could not be read (R353). -/
def Dev.collUnread (d : Dev) (c : CollDef) (s : CollDefState) : Option Nat := lowestOf (((d.collMine c).filter (fun m => (s.rec_ m.2).bad)).map (·.2))

/-- The COUNT of member 0 of an invocation. -/
def Dev.collBase (d : Dev) (c : CollDef) (s : CollDefState) (k : Nat) : Nat :=
  match (d.collMembers c).head? with
  | some m => if m.package = d.pkgId then d.collOwnCount c s else (s.peer k m.package).count
  | none => 0

/-- The lowest member of all packages whose post record fails the count check (R359, R374). -/
def Dev.collBadRecord (d : Dev) (c : CollDef) (s : CollDefState) (k : Nat) : Option Nat :=
  let base := d.collBase c s k
  let far := (d.collPeers c).filterMap (fun p =>
    let q := s.peer k p
    if q.count ≠ base ∨ c.maxCount < q.count then (d.collMembers c).findIdx? (fun m => m.package = p)
    else if q.wrong ≠ 0xFFFF then some q.wrong else none)
  lowestOf ((d.collWrong c s base).toList ++ far)

/-- The lowest member of all packages whose post record could not be read (R353). -/
def Dev.collBadRead (d : Dev) (c : CollDef) (s : CollDefState) (k : Nat) : Option Nat :=
  lowestOf ((d.collUnread c s).toList ++ ((d.collPeers c).map (fun p => (s.peer k p).unread)).filter (fun m => m ≠ 0xFFFF))

/-- The contributions of an instance are here: the other packages hear of it, with credit, and the data leave (R352, R401). -/
def Dev.collLoaded (d : Dev) (c : CollDef) (k : Nat) : Dev :=
  let i := ((d.coll c.collId).insts.find? (fun i => i.k = k)).getD {}
  let d := (d.updInst c k (fun x => { x with phase := 2, stream := c.outStream x.count x.parts })).collShow c
  let d := if i.count = 0 ∨ (d.collPeers c).isEmpty then d
    else
      let (w, d) := d.free
      d.collTell c k 2 0 0 (w % 2 ^ 32) ((c.nfHere i.count i.parts + 1) % 2 ^ 32)
  (d.collSendAll c k).collFinish c k

/-- A read of an instance is still due from another package. -/
def Dev.collReading (d : Dev) (c : CollDef) (k : Nat) : Bool := d.remote.any (fun o => o.isRead && o.agent.ofColl c.collId k)

/-- Reads the contributions and residues of an instance, unless a home holds one of the reads (R264, R310). -/
def Dev.collLoad (d : Dev) (c : CollDef) (k : Nat) : Dev :=
  match (d.coll c.collId).insts.find? (fun i => i.k = k && i.phase = 0 && i.fault.isNone && i.verdict.isNone) with
  | none => d
  | some i =>
    let mine := d.collMine c
    let off := fun (idx : Nat) => ((i.offs.find? (fun o => o.1 = idx)).map (·.2.1)).getD 0
    if i.count ≠ 0 && mine.any (fun m => d.collReadHeld c m.1 m.2 i.count (off m.2)) then d.collShow c
    else
      let (parts, d) := mine.foldl (fun (r : List (Nat × List PByte × List PByte) × Dev) m =>
        let (b, d) := r.2.collRead c k m.1 m.2 0 (m.1.srcDva + off m.2) (c.readBytes i.count (m.2 = c.root))
        let (e, d) := if c.op = 5 then d.collRead c k m.1 m.2 1 (m.1.resDva + off m.2) (i.count * 4) else ([], d)
        (r.1 ++ [(m.2, b, e)], d)) ([], d)
      let d := d.updInst c k (fun x => { x with phase := 1, parts := parts })
      if d.collReading c k then d.collShow c else d.collLoaded c k

/-- Data of an instance come from another package. -/
def Dev.collArrive (d : Dev) (id k member part pos : Nat) (v : List PByte) : Dev :=
  match d.collDef id with
  | none => d
  | some c =>
    let put := fun (l : List PByte) => l.take pos ++ v ++ l.drop (pos + v.length)
    let d := d.updInst c k (fun i => { i with parts := i.parts.map (fun p =>
      if p.1 ≠ member then p else if part = 0 then (p.1, put p.2.1, p.2.2) else (p.1, p.2.1, put p.2.2)) })
    if (d.coll id).insts.any (fun i => i.k = k && i.phase = 1) && !d.collReading c k then d.collLoaded c k else d

/-- The last member has posted invocation `k` (R359): the checks, the translation, and the reads. -/
def Dev.collStart (d : Dev) (c : CollDef) (k : Nat) : Dev :=
  let s := d.coll c.collId
  let mine := d.collMine c
  match (if c.op = 4 then none else d.collBadRead c s k) with
  | some m => d.collFail c k csFault m false
  | none =>
    match (if c.op = 4 then none else d.collBadRecord c s k) with
    | some m => d.collFail c k csCountError m false
    | none =>
      let count := if c.op = 4 then 0 else d.collBase c s k
      let (bad, d) := if count = 0 then (none, d) else mine.foldl (fun (r : Option Nat × Dev) m =>
        match r with
        | (some b, d) => (some b, d)
        | (none, d) =>
          let (ok, d) := d.collBuffers c m.1 m.2 count (s.rec_ m.2).srcOff (s.rec_ m.2).dstOff
          (if ok then none else some m.2, d)) (none, d)
      let inst : CollInst := { k := k, tick := d.tick, count := count, fault := bad,
                               offs := mine.map (fun m => (m.2, (s.rec_ m.2).srcOff, (s.rec_ m.2).dstOff)) }
      let d := d.updColl c.collId (fun s => { s with begun := k, insts := s.insts ++ [inst] })
      match bad with
      | some m => ((d.collTell c k 4 0 m 0 0).collShow c).collFinish c k
      | none => d.collLoad c k

/-- Every member has posted invocation `k`. -/
def Dev.collAllPosted (d : Dev) (c : CollDef) (s : CollDefState) (k : Nat) : Bool :=
  (d.collMine c).all (fun m => k ≤ s.count m.2) && (d.collPeers c).all (fun p => (s.peer k p).posted)

/-- The lowest member that has not posted invocation `k`. -/
def Dev.collMissing (d : Dev) (c : CollDef) (s : CollDefState) (k : Nat) : Nat :=
  ((d.collMembers c).zipIdx.findSome? (fun m =>
    if m.1.package = d.pkgId then (if s.count m.2 < k then some m.2 else none)
    else if (s.peer k m.1.package).posted then none else some m.2)).getD 0xFFFF

/-- Invocation `k` has been posted by some member. -/
def Dev.collAnyPosted (d : Dev) (c : CollDef) (s : CollDefState) (k : Nat) : Bool :=
  (d.collMine c).any (fun m => k ≤ s.count m.2) || (d.collPeers c).any (fun p => (s.peer k p).posted)

/-- The engines have room for another instance (R377). -/
def Dev.collRoom (d : Dev) (c : CollDef) : Bool :=
  (d.collDies c).all (fun die => d.collActive (if die = 0 then none else some die) < (if die = 0 then 256 else 64))

/-- Takes the next invocation as far as it goes: lost, missing, started, or waiting for a posting or for room. -/
def Dev.collNext (d : Dev) (c : CollDef) : Option Dev :=
  let s := d.coll c.collId
  let k := s.begun + 1
  if !d.collAnyPosted c s k || (d.collLost c).isSome then none
  else match s.missed.find? (fun z => z.1 = k) with
    | some z => some (d.collFail c k csMissing z.2 false)
    | none => match (d.collMine c).find? (fun m => k ≤ s.count m.2 && s.gone.contains m.2) with
      | some g => some (d.collFail c k csMissing (if d.collAllPosted c s k then g.2 else d.collMissing c s k) false)
      | none => if d.collAllPosted c s k && d.collRoom c then some (d.collStart c k) else none

/-- Takes invocations in ascending order (R358). -/
def Dev.collAdvance (d : Dev) (c : CollDef) : Dev :=
  let s := d.coll c.collId
  let top := s.posted.foldl (fun n e => max n e.2) (s.peers.foldl (fun n e => max n e.1) 0)
  iterWhile (fun d => d.collNext c) (top - s.begun) d

/-- Takes invocations of every definition: room has become free (R377). -/
def Dev.collAdvanceAll (d : Dev) : Dev := d.sched.collDefs.foldl (fun d c => d.collAdvance c) d

/-- Invocations `ks` that not all members have posted are MISSING now (R374): each ends at once, or after the ones before it that wait for room. -/
def Dev.collMiss (d : Dev) (c : CollDef) (before : CollDefState) (ks : List Nat) : Dev :=
  if d.collAllPosted c before (before.begun + 1) then
    d.updColl c.collId (fun s => { s with missed := s.missed ++
      (ks.filter (fun k => !s.missed.any (fun z => z.1 = k))).map (fun k => (k, d.collMissing c before k)) })
  else ks.foldl (fun d k => d.collFail c k csMissing (d.collMissing c before k) false) d

/-- The contribution of a member to an instance has not been read. -/
def Dev.collPending (d : Dev) (c : CollDef) (member : Nat) (i : CollInst) : Bool :=
  i.verdict.isNone && i.fault.isNone && c.op ≠ 4 && i.count ≠ 0 && (i.phase = 0 || (i.phase = 1 && d.remote.any (fun o => o.isRead && (match o.agent with
    | .coll _ id k m _ => id = c.collId && k = i.k && m = member
    | _ => false))))

/-- A span ends on a perch (R374, R375): the instances whose contribution of its members has not been read end with MISSING, those in progress at once. -/
def Dev.collSpanEnd (d : Dev) (p span : Nat) : Dev :=
  d.sched.collDefs.foldl (fun d c =>
    match (d.collMine c).find? (fun m => m.1.perch = p && m.1.spanId = span) with
    | none => d
    | some m =>
      let d := ((d.coll c.collId).insts.filter (d.collPending c m.2)).foldl (fun d i => d.collFail c i.k csMissing m.2 true) d
      let s := d.coll c.collId
      if s.begun < s.count m.2 then (d.updColl c.collId (fun s => { s with gone := s.gone ++ [m.2] })).collAdvance c else d) d

/-- A perch of this package is idle again after its span (R88), and the collectives see the end of the span. -/
def Dev.perchIdle (d : Dev) (p : Nat) : Dev :=
  let span := (d.perch p).spanId
  (d.updPerch p (fun v => { v with pstate := 2, stall := .none, arr := { v.arr with held := v.matrix } })).collSpanEnd p span

/-- Tells the other packages of every invocation that all members here have posted by now (R359, R399). -/
def Dev.collTold (d : Dev) (c : CollDef) : Dev :=
  let s := d.coll c.collId
  let mine := d.collMine c
  let n := match mine with
    | [] => 0
    | m :: t => t.foldl (fun n m => min n (s.count m.2)) (s.count m.2)
  let d := ((List.range (n - s.told)).map (fun i => s.told + 1 + i)).foldl (fun (d : Dev) k =>
    d.collTell c k 1 0 ((d.collWrong c s (d.collOwnCount c s)).getD 0xFFFF) (d.collOwnCount c s) (((d.collUnread c s).getD 0xFFFF + 1) % 2 ^ 32)) d
  d.updColl c.collId (fun s => { s with told := max s.told n })

/-- COLL_POST (R358): the invocations up to the member's counter are posted. -/
def Dev.collPost (d : Dev) (c : CollDef) (idx : Nat) (m : CollMember) : Dev :=
  let s := d.coll c.collId
  let n := KMap.get 0 (d.perch m.perch).ctr m.readyCtr
  if !d.memberRuns m ∨ n ≤ s.count idx then d
  else
    let v := d.spadRead m.perch m.postOff 16
    let (bad, d) := if c.op ≠ 4 ∧ anyPoison v then
        (true, d.accErr (perchDie m.perch) 5 ((collXq (perchDie m.perch) c.partition).rq false false) (spadBase m.perch + m.postOff))
      else (false, d)
    let r := leNat (plain v) + b2n bad * 2 ^ 128
    let d := d.updColl c.collId (fun s => { s with recs := KMap.set 0 s.recs idx r, posted := KMap.set 0 s.posted idx n })
    if c.deadlineNs < d.elapsed then
      d.collMiss c s (((List.range (n - s.begun)).map (fun i => s.begun + 1 + i)).filter (fun k => !d.collAllPosted c s k))
    else (d.collTold c).collAdvance c

/-- A member's result has landed (R361): its record, then its increment. The last member ends the instance. -/
def Dev.collLanded (d : Dev) (c : CollDef) (i : CollInst) (idx : Nat) (m : CollMember) : Dev :=
  let d := d.collStatus c m i.k (collRecord i.tick c.collId i.k csOk i.flags i.count i.firstNf 0xFFFF)
  let d := if d.memberRuns m then d.ctrInc m.perch m.doneCtr else d
  let done := i.done ++ [idx]
  if (d.collMine c).all (fun m => done.contains m.2) then
    let d := d.updColl c.collId (fun s => { s with insts := s.insts.filter (fun y => y.k ≠ i.k), peers := KMap.set [] s.peers i.k [] })
    (((d.collCount c i.tick csOk i.flags 0xFFFF).collShow c).collSettle c).collAdvanceAll
  else d.updInst c i.k (fun y => { y with done := done })

/-- Bytes of a member's result are on their way to another package. -/
def Dev.collWriting (d : Dev) (c : CollDef) (k idx : Nat) : Bool := d.remote.any (fun o => !o.isRead && (match o.agent with
  | .coll _ id n m _ => id = c.collId && n = k && m = idx
  | _ => false))

/-- A write of an instance's result has been acknowledged or is lost (R305, R312). -/
def Dev.collWritten (d : Dev) (id k idx : Nat) : Dev :=
  match d.collDef id with
  | none => d
  | some c =>
    match (d.coll id).insts.find? (fun i => i.k = k && i.wrote.contains idx && !i.done.contains idx && i.verdict.isNone), (d.collMembers c)[idx]? with
    | some i, some m => if d.collWriting c k idx then d else d.collLanded c i idx m
    | _, _ => d

/-- The buffers that a member's completion writes are translated again (R337): false where one faults. -/
def Dev.collTargets (d : Dev) (c : CollDef) (i : CollInst) (idx : Nat) (m : CollMember) : Bool × Dev :=
  let x := collXq (perchDie m.perch) c.partition
  let (so, dst) := ((i.offs.find? (fun o => o.1 = idx)).map (·.2)).getD (0, 0)
  let (a, d) := if d.memberRuns m then d.collBuffer x (m.dstDva + dst) i.result.length axWrite else (true, d)
  match i.residues.find? (fun r => r.1 = idx) with
  | some r => if a then d.collBuffer x (m.resDva + so) r.2.length axWrite else (false, d)
  | none => (a, d)

/-- One member's result is written (R361): its DST bytes and its residue; its record follows once they have landed. A fault that is met now ends the instance (R338). -/
def Dev.collComplete (d : Dev) (c : CollDef) (i : CollInst) (idx : Nat) (m : CollMember) : Dev :=
  let die := perchDie m.perch
  let x := collXq die c.partition
  let q := x.rq false false
  let (so, dst) := ((i.offs.find? (fun o => o.1 = idx)).map (·.2)).getD (0, 0)
  let agent := Agent.coll die c.collId i.k idx 2
  let (ok, d) := d.collTargets c i idx m
  if !ok then d.collFail c i.k csFault idx true
  else
    let d := if d.memberRuns m then (d.dvaWrite x agent q none (m.dstDva + dst) i.result).2 else d
    let d := match i.residues.find? (fun r => r.1 = idx) with
      | some r => (d.dvaWrite x agent q none (m.resDva + so) r.2).2
      | none => d
    if d.collWriting c i.k idx then d.updInst c i.k (fun y => { y with wrote := y.wrote ++ [idx] }) else d.collLanded c i idx m

/-- Ends what is left of the collectives as a tick ends (R359, R374, R376): with a lost member, or where a degraded plan takes effect, PEER_LOST; else instances in
progress and postings that wait for room with TIMEOUT, and invocations that some members have not posted with MISSING. Then the postings are discarded. -/
def Dev.collBoundary (d : Dev) : Dev :=
  let newPlan : Bool := match d.league.change with
    | some (p, t) => decide (t ≤ d.tick + 1) && p ≠ d.rd 0 Reg.RAS_PKG.PLAN
    | none => false
  let d := d.sched.collDefs.foldl (fun d c =>
    let lost := match d.collLost c with
      | some m => some m
      | none => if newPlan then ((d.collMine c).head?).map (·.2) else none
    let s := d.coll c.collId
    let top := s.posted.foldl (fun n e => max n e.2) (s.peers.foldl (fun n e => max n e.1) 0)
    let ends := fun (d : Dev) (k : Nat) (whole counted : Bool) => match lost with
      | some m => d.collDecide c k { status := csPeerLost, member := m, counted := counted }
      | none => d.collDecide c k (if whole then { status := csTimeout, counted := counted } else { status := csMissing, member := d.collMissing c s k })
    let d := s.insts.foldl (fun d i => ends d i.k true true) d
    ((List.range (top - s.begun)).map (fun i => s.begun + 1 + i)).foldl (fun d k =>
      if d.collAnyPosted c s k then ends d k (d.collAllPosted c s k) false else d) d) d
  let defs := d.sched.collDefs
  let d := { d with colls := [], noPlane := [] }.collDetach (fun a => match a with
    | .coll .. => true
    | _ => false)
  defs.foldl (fun d c => d.collShow c) d

end Sys2Proof.Machine
end

