-- ==== Sys2Proof/Machine/DmaBuf.lean ====
section
/-! DEFINITION. The DMA contexts of a perch and its write-combining buffer (R104, R108, R109, R313, R314). -/

namespace Sys2Proof.Machine

/-- A DMA context of a perch. -/
def Dev.ctxOf (d : Dev) (p c : Nat) : DmaCtx := KMap.get {} (d.perch p).ctx c

/-- Changes a DMA context of a perch. -/
def Dev.updCtx (d : Dev) (p c : Nat) (f : DmaCtx → DmaCtx) : Dev := d.updPerch p (fun v => { v with ctx := KMap.upd {} v.ctx c f })

/-- A descriptor of a context by its ticket. -/
def Dev.descOf (d : Dev) (p c t : Nat) : Option DmaDesc := (d.ctxOf p c).queue.find? (fun x => x.ticket = t)

/-- Changes a descriptor of a context. -/
def Dev.updDesc (d : Dev) (p c t : Nat) (f : DmaDesc → DmaDesc) : Dev :=
  d.updCtx p c (fun y => { y with queue := y.queue.map (fun x => if x.ticket = t then f x else x) })

/-- A context holds a queued, active or in-flight descriptor (R109). -/
def DmaCtx.busy (c : DmaCtx) : Bool := !c.queue.isEmpty

/-- Records lines of remote writes of a span that are lost (R314). -/
def addLost (m n : Nat) : Nat := (if n = 0 then m else (m ||| 2 ^ 31)) / 2 ^ 16 * 2 ^ 16 + satAdd 16 (m % 2 ^ 16) n

/-- Lines of a descriptor's remote writes are lost (R313, R314). -/
def Dev.descLost (d : Dev) (p c t lines : Nat) : Dev :=
  if lines = 0 then d
  else (d.updPerch p (fun v => { v with memloss := addLost v.memloss lines })).updDesc p c t (fun x => { x with lost := true })

/-- The runs of written bytes of a line: offset and bytes. -/
def patchRuns (l : List (Option PByte)) : List (Nat × List PByte) :=
  l.zipIdx.foldr (fun x acc =>
    match x.1, acc with
    | none, _ => acc
    | some b, (o, v) :: t => if o = x.2 + 1 then (x.2, b :: v) :: t else (x.2, [b]) :: acc
    | some b, [] => [(x.2, [b])]) []

/-- Sends the written bytes of a line to another package (R108, R398): one WRITE, masked where they are no single run. The lines lost at once (R404). -/
def Dev.remoteLine (d : Dev) (agent : Agent) (part line : Nat) (l : List (Option PByte)) : Nat × Dev :=
  let pkg := line * 128 / 2 ^ 48
  if !d.remoteUp pkg then (1, d.dropWrite agent.die pkg)
  else
    let (tag, d) := d.takeTag
    match patchRuns l with
    | [] => (0, d)
    | [(o, v)] =>
      (0, d.issueRemote agent { d.packetTo 2 pkg part tag (line * 128 + o) v.length with poison := anyPoison v, payload := plain v } v.length false [])
    | (o, v) :: t =>
      let stop := t.foldl (fun n r => max n (r.1 + r.2.length)) (o + v.length)
      let span := (l.drop o).take (stop - o)
      let body := span.map (fun b => b.getD (0#8, false))
      let p : Packet := { d.packetTo 2 pkg part tag (line * 128 + o) span.length with
        masked := true, mask := patchMask span, poison := anyPoison body, payload := plain body }
      (0, d.issueRemote agent p (popcount (patchMask span) 128) false [])

/-- A home holds a line of the buffer back (R264). -/
def Dev.dmaLineHeld (d : Dev) (p : Nat) (l : DmaLine) : Bool := d.homeFull ((d.perchXq p l.ctx).rq false false) (fun _ => false) (l.line * 128) 128

/-- The 64 KiB page of a descriptor's destination in which a league address stands, by its leaves (R123, R337). -/
def Dev.writePage (d : Dev) (p c t a : Nat) : Nat :=
  match (d.descOf p c t).bind (·.leaves) with
  | none => 0
  | some ls =>
    match ls.2.find? (fun l => l.target ≤ a && a < l.target + 2 ^ l.size) with
    | some l => alignDown (l.dva + (a - l.target)) 65536
    | none => 0

/-- Issues a line of the buffer (R104, R108, R215): its bytes land at their home, or leave for their package. The page of a write that met an access error. -/
def Dev.dmaIssue (d : Dev) (p : Nat) (l : DmaLine) : Option Nat × Dev :=
  let q := (d.perchXq p l.ctx).rq false false
  let first := (l.parts.head?.map (·.1)).getD 0
  let d := d.updPerch p (fun v => { v with wcb := v.wcb.filter (fun x => !(x.ctx = l.ctx && x.line = l.line)) })
  let page := d.writePage p l.ctx first (l.line * 128)
  let land := fun (d : Dev) => l.parts.foldl (fun (d : Dev) w => d.updDesc p l.ctx w.1 (fun x => { x with landed := x.landed + w.2 })) d
  match d.localOf (l.line * 128) with
  | none =>
    let (n, d) := d.remoteLine (.dma p l.ctx first) q.part l.line l.bytes
    (none, d.descLost p l.ctx first n)
  | some pa =>
    match d.region pa with
    | .host iova =>
      if d.hostOk then (none, land ((patchRuns l.bytes).foldl (fun d r => d.emit (.pcieWrite (iova + r.1) (plain r.2))) d))
      else (some page, d.accErr q.die 3 q pa)
    | .stacked | .fathom =>
      (match d.chainWriteLine q (perchDie p) (perchChain p) (pa / 128) l.bytes with
        | (true, d) => (some page, d)
        | (false, d) => (none, land d))
    | _ => (some page, d.accErr q.die 3 q pa)

/-- The line that leaves the buffer to make room for a new line of a context (R108): the context's oldest where it holds 4, the oldest of all where 16 are in
use. -/
def Dev.dmaVictim (d : Dev) (p c : Nat) : Option DmaLine :=
  let w := (d.perch p).wcb
  let mine := w.filter (fun l => l.ctx = c)
  if 4 ≤ mine.length then mine.head? else if 16 ≤ w.length then w.head? else none

/-- Overlays gathered bytes. -/
def overPatch (old new : List (Option PByte)) : List (Option PByte) := (old.zip new).map (fun z => z.2.or z.1)

/-- Counts bytes of a writer of a line. -/
def addPart (t n : Nat) (l : List (Nat × Nat)) : List (Nat × Nat) :=
  if l.any (fun w => w.1 = t) then l.map (fun w => if w.1 = t then (t, w.2 + n) else w) else l ++ [(t, n)]

/-- Gathers bytes of a descriptor into a line of the buffer, which has room for it (R108). -/
def Dev.dmaGather (d : Dev) (p c t line off : Nat) (v : List PByte) : Dev :=
  let new := linePatch off v
  let same := fun (l : DmaLine) => decide (l.ctx = c ∧ l.line = line)
  let add := fun (w : List DmaLine) =>
    if w.any same then
      w.map (fun l => if same l then { l with bytes := overPatch l.bytes new, parts := addPart t v.length l.parts } else l)
    else w ++ [{ ctx := c, line := line, bytes := new, parts := [(t, v.length)] }]
  d.updPerch p (fun x => { x with wcb := add x.wcb })

/-- What the remote accesses of a perch belong to once no context of it waits for them: writes go on for nobody, reads are forgotten (R109). -/
def Dev.disown (d : Dev) (mine : Agent → Bool) : Dev :=
  { d with remote := (d.remote.filter (fun o => !(mine o.agent && o.isRead))).map (fun o =>
      if mine o.agent then { o with agent := Agent.dma 0 8 0 } else o) }

/-- The agent is a DMA context of a perch. -/
def Agent.ofPerch (p : Nat) : Agent → Bool
  | .dma q _ _ => p = q
  | _ => false

/-- The agent is a suspended context of a continuation. -/
def Agent.ofCont (id : Nat) : Agent → Bool
  | .susp k _ _ _ => id = k
  | _ => false

/-- The agent is a context of a perch. -/
def Agent.ofCtx (p c : Nat) : Agent → Bool
  | .dma q k _ => p = q && c = k
  | _ => false

/-- A context that stops for a suspension (R60, R115): a descriptor goes back to the first byte whose data has been asked for and has not come, and is
translated anew when it resumes (R117). -/
def Dev.dmaStop (d : Dev) (p c : Nat) : Dev :=
  let reads := d.remote.filter (fun o => o.agent.ofCtx p c && o.isRead)
  let d := { d with remote := d.remote.filter (fun o => !(o.agent.ofCtx p c && o.isRead)) }
  d.updCtx p c (fun y => { y with queue := y.queue.map (fun x =>
    let n := (reads.filter (fun o => o.agent = Agent.dma p c x.ticket)).foldl (fun n o => min n o.pos) x.pos
    { x with pos := n, landed := min x.landed n, leaves := none }) })

/-- The write-combining buffer is written out at a suspension (R60): the context and the page of the first write that met an access error. -/
def Dev.dmaWriteOut (d : Dev) (p : Nat) : Option (Nat × Nat) × Dev :=
  (d.perch p).wcb.foldl (fun r l =>
    let (e, d) := r.2.dmaIssue p l
    (r.1.or (e.map (fun a => (l.ctx, a))), d)) (none, d)

end Sys2Proof.Machine
end

