-- ==== Sys2Proof/Machine/PerchSpan.lean ====
section
/-! DEFINITION. Perches, part 2: endpoints (R110 to R114), array planes (R147), DMA aborts (R109), the ways a span ends (R58 to R63), the perch
context (R117, R160), span start and resumption (R56, R84, R659), status records (R51). -/

namespace Sys2Proof.Machine

/-- Fields of an endpoint word (R128). -/
def epRole (w : Nat) : Nat := bits w 62 2
def epPeerEp (w : Nat) : Nat := bits w 57 5
def epPeer (w : Nat) : Nat := bits w 45 12
def epCtr (w : Nat) : Nat := bits w 39 6
def epRingKib (w : Nat) : Nat := bits w 30 9
def epRingBase (w : Nat) : Nat := bits w 19 11

/-- An endpoint of a perch. -/
def Dev.endp (d : Dev) (p e : Nat) : Endpoint := KMap.get {} (d.perch p).ep e

/-- Changes an endpoint of a perch. -/
def Dev.updEndp (d : Dev) (p e : Nat) (f : Endpoint → Endpoint) : Dev := d.updPerch p (fun v => { v with ep := KMap.upd {} v.ep e f })

/-- The span of a perch may go on: its timer has not reached zero, and its displacement has not come (R58, R59). -/
def Dev.inTime (d : Dev) (p : Nat) : Bool := decide (0 < (d.perch p).remaining) && !d.displaced p

/-- A perch is IDLE or runs a span that may go on, so its engines work (R58, R88). -/
def Dev.powered (d : Dev) (p : Nat) : Bool :=
  (decide ((d.perch p).pstate = 2) || (decide ((d.perch p).pstate = 3) && d.inTime p)) && !d.dieFailed (perchDie p)

/-- A write of ring bytes at a position that wraps from the ring's end to its base (R112). -/
def Dev.ringWrite (d : Dev) (p : Nat) (cfg pos : Nat) (v : List PByte) : Dev :=
  let base := epRingBase cfg * 1024
  let size := epRingKib cfg * 1024
  let first := min v.length (size - pos)
  (d.spadWrite p (base + pos) (v.take first)).spadWrite p base (v.drop first)

/-- What has left the sender arrives in a receiver's ring, up to the end of the oldest message; the receiver's counter is incremented where the whole message is
there (R112). -/
def Dev.messageArrive (d : Dev) (p e : Nat) : Dev :=
  let ep := d.endp p e
  let n := match ep.transit.findIdx? (·.2) with
    | some i => i + 1
    | none => ep.transit.length
  let m := (ep.transit.take n).flatMap (·.1)
  let whole := (ep.transit.take n).any (·.2)
  if n = 0 then d
  else
    let d := d.ringWrite p ep.cfg ep.wpos m
    let size := max 1 (epRingKib ep.cfg * 1024)
    let d := d.updEndp p e (fun x => { x with transit := x.transit.drop n, wpos := (x.wpos + m.length) % size, credits := x.credits + m.length / 32,
                                              bytes := (x.bytes + m.length) % 2 ^ 32 })
    if whole then d.ctrInc p (epCtr ep.cfg) else d

/-- Everything on its way to a perch arrives. -/
def Dev.deliverAll (d : Dev) (p : Nat) : Dev :=
  (List.range 32).foldl (fun d e => (d.endp p e).transit.foldl (fun d _ => d.messageArrive p e) d) d

/-- Bytes on their way to a receiver. -/
def Endpoint.moving (x : Endpoint) : Nat := x.transit.foldl (fun n m => n + m.1.length) 0

/-- The partner of an endpoint, where its perch works and the partner names this endpoint back in the other role (R110). -/
def Dev.partner (d : Dev) (p e : Nat) : Option (Nat × Nat) :=
  let w := (d.endp p e).cfg
  let q := epPeer w
  let f := epPeerEp w
  let back := (d.endp q f).cfg
  if d.powered q ∧ epPeer back = p ∧ epPeerEp back = e ∧ epRole w + epRole back = 3 ∧ (epRole w = 1 ∨ epRole w = 2) then some (q, f) else none

/-- Sends credit (32 B units) back from a receiver to its sender (R111, R113). -/
def Dev.returnCredit (d : Dev) (p e units : Nat) : Dev :=
  match d.partner p e with
  | some (q, f) => if units = 0 then d else d.updEndp q f (fun x => { x with creditIn := x.creditIn + units })
  | none => d

/-- The credit that is due to a sender whose receiver runs: what its ring has free beyond the credit held, so that the ring never overflows (R111). -/
def Dev.creditDue (d : Dev) (sp se rp re : Nat) : Nat :=
  let r := d.endp rp re
  let s := d.endp sp se
  epRingKib r.cfg * 32 - r.credits - r.moving / 32 - s.credits - s.creditIn

/-- The span of a perch begins or resumes: a receiver grants what its ring has free, its whole ring where its span begins (R111). -/
def Dev.grantCredit (d : Dev) (p : Nat) : Dev :=
  (List.range 32).foldl (fun d e =>
    match d.partner p e with
    | none => d
    | some (q, f) =>
      if epRole (d.endp p e).cfg = 2 then
        let n := d.creditDue q f p e
        d.updEndp q f (fun x => { x with creditIn := x.creditIn + n })
      else if d.runs? q then
        let n := d.creditDue p e q f
        d.updEndp p e (fun x => { x with creditIn := x.creditIn + n })
      else d) d

/-- Step 6 of R59: endpoints discard what is not consumed and return all credit. -/
def Dev.endpointsEnd (d : Dev) (p : Nat) : Dev :=
  (List.range 32).foldl (fun d e =>
    let ep := d.endp p e
    let d := if epRole ep.cfg = 2 then d.returnCredit p e (ep.credits + ep.moving / 32) else d
    d.updEndp p e (fun x => { x with pending := [], transit := [], credits := 0, creditIn := 0 })) d

/-- Reads a tile and its column scales from the scratchpad into a plane (R133, R134, R148): the plane, or the offset of a poisoned word (R161). -/
def Dev.loadPlane (d : Dev) (p : Nat) (pl : Plane) : Except Nat Plane :=
  let t := d.spadRead p pl.tileOff (fmtTileBytes pl.fmt)
  let s := if pl.wscaled then d.spadRead p pl.scaleOff (fmtK pl.fmt) else []
  match t.findIdx? (·.2), s.findIdx? (·.2) with
  | some i, _ => .error ((pl.tileOff + i) / 8 * 8)
  | none, some i => .error ((pl.scaleOff + i) / 8 * 8)
  | none, none => .ok { pl with tile := leNat (plain t), scales := leNat (plain s), loaded := true, pending := false }

/-- Abort of a context that holds work (R109, R126): log cause 1 shed, 2 DMACTL, 3 fault, 4 queue abort. Its unissued lines are discarded, its reads from other
packages are forgotten, and its writes go on. -/
def Dev.dmaAbort (d : Dev) (p c cause : Nat) : Dev :=
  if !(d.ctxOf p c).busy then d
  else
    let span := (d.perch p).spanId
    let d : Dev := { d with remote := d.remote.filter (fun o => !(o.agent.ofCtx p c && o.isRead)) }
    (d.updPerch p (fun v => { v with wcb := v.wcb.filter (fun l => l.ctx ≠ c) })).updCtx p c (fun x =>
      let n := (x.queue.head?.map (·.landed)).getD 0
      { x with state := 0, queue := [], landed := n, logSpan := span, logCause := cause, logLanded := n })

/-- Every context of a perch that holds work aborts. -/
def Dev.dmaAbortAll (d : Dev) (p cause : Nat) : Dev := (List.range 8).foldl (fun d c => d.dmaAbort p c cause) d

/-- Outcome codes (R51). -/
def ocCompleted : Nat := 0
def ocBudget : Nat := 1
def ocDisplaced : Nat := 2
def ocSuspended : Nat := 3
def ocSkipped : Nat := 4
def ocFault : Nat := 5
def ocCarry : Nat := 6
def ocDiscarded : Nat := 7

/-- OUTCOME of a dispatch from the outcomes of its perches (R51). -/
def SpanInfo.summary (i : SpanInfo) : Nat :=
  if bit i.seen ocFault then ocFault
  else if i.aborted then ocDiscarded
  else if bit i.seen ocCarry then ocCarry
  else if bit i.seen ocDisplaced then ocDisplaced
  else if bit i.seen ocBudget then ocBudget
  else if bit i.seen ocSuspended then ocSuspended
  else ocCompleted

/-- What the tick unit knows of a span. -/
def Dev.span (d : Dev) (id : Nat) : SpanInfo := KMap.get {} d.spans id

/-- Replaces it. -/
def Dev.setSpan (d : Dev) (id : Nat) (i : SpanInfo) : Dev := { d with spans := KMap.set {} d.spans id i }

/-- A continuation. -/
def Dev.cont (d : Dev) (id : Nat) : Cont := KMap.get {} d.conts id

/-- Changes a continuation. -/
def Dev.updCont (d : Dev) (id : Nat) (f : Cont → Cont) : Dev := { d with conts := KMap.upd {} d.conts id f }

/-- The schedule entry of a span wherever it stands in the schedule in force. -/
def Dev.anyEntry (d : Dev) (span : Nat) : Option SpanEntry := d.sched.spans.find? (fun e => e.spanId = span)

/-- A perch reports the end of its span to the tick unit (R59 step 7): the last one makes the record due (R51), ends or keeps the continuation (R62, R659)
and tells the run group (R504). A group perch on a die that has stopped never starts, so the record of its dispatch is never due (DESIGN CHOICE, assumption 80).
-/
def Dev.report (d : Dev) (p outcome : Nat) : Dev :=
  let v := d.perch p
  let i := d.span v.spanId
  let i := { i with running := i.running - 1, cyclesMax := max i.cyclesMax (v.budget - v.remaining), seen := i.seen ||| 2 ^ outcome,
                    ended := if outcome = ocCompleted then i.ended else i.ended + 1,
                    firstPerch := if outcome ≠ ocCompleted ∧ i.firstPerch = 0xFFFF then p else i.firstPerch }
  let last := i.running = 0 ∧ i.perches ≤ i.started
  let i := if last then { i with outcome := i.summary, recordDue := true } else i
  let d := d.setSpan v.spanId i
  match d.anyEntry v.spanId with
  | none => d
  | some e =>
    let d := if e.kind = 0 then d
      else if outcome = ocSuspended then d
      else if outcome = ocCompleted then d.updCont e.contId (fun c => { c with saved := KMap.set 0 c.saved p 0 })
      else d.updCont e.contId (fun c => { c with dead := true })
    let d := if last ∧ e.kind ≠ 0 ∧ i.summary ≠ ocSuspended then d.updCont e.contId (fun c => { c with saved := [], memloss := [], dead := false }) else d
    if last ∧ e.kind = 2 ∧ i.summary ≠ ocSuspended then
      { d with runs := KMap.upd {} d.runs e.contId (fun g => if g.queue.isSome then { g with outcome := i.summary } else g) }
    else d

/-- Counts of the tick unit for a shed (R66, R75, R78) and its part in the tick-overrun event (R67). -/
def Dev.countShed (d : Dev) (p outcome : Nat) : Dev :=
  let die := perchDie p
  let v := d.perch p
  let d := d.inc die Reg.TICK_SHED_CNT.SHEDS 1
  let d := (((d.wr die Reg.TICK_LAST_SHED.SPAN_ID v.spanId).wr die Reg.TICK_LAST_SHED.OUTCOME outcome).wr die Reg.TICK_LAST_SHED.PERCH p).wr die
    Reg.TICK_LAST_SHED.TICK_LO d.tick
  let irq : Bool := match d.anyEntry v.spanId with
    | some e => bit e.flags 1
    | none => false
  if irq ∧ d.rd die Reg.TICK_IRQ.SHED_EN = 1 then { d with overrunDue := true } else d

/-- The array of a perch is cleared (R59, R157): its queue, its planes and what was in flight. -/
def Dev.arrayClear (d : Dev) (p : Nat) : Dev := d.updArr p (fun a => { a.stop with plane0 := {}, plane1 := {}, queue := [] })

/-- A shed on one perch (R59, R157): the array is cleared, the DMA contexts abort, the stores drain, the channels end, counters are cleared. -/
def Dev.shed (d : Dev) (p outcome logCause : Nat) : Dev :=
  let d := d.arrayClear p
  let d := d.dmaAbortAll p logCause
  let d := d.drainStores p
  let d := d.endpointsEnd p
  let d := d.updPerch p (fun v => { v with ctr := [] })
  let d := d.countShed p outcome
  (d.report p outcome).perchIdle p

/-- Records a fault of a perch (R122, R123): of an instruction with its pc, of an engine with the pc of the last retired instruction. -/
def Dev.setFault (d : Dev) (p cause detail ctx addr : Nat) : Dev :=
  d.updPerch p (fun v => { v with faultCause := cause, faultDetail := detail % 256, faultCtx := ctx, faultAddr := addr % 2 ^ 48,
                                  faultPc := if cause = 1 ∨ cause = 5 ∨ cause = 6 then v.core.pc else v.lastPc })

/-- A fault that ends the span at once (R58): recorded, then shed with outcome FAULT. -/
def Dev.perchFault (d : Dev) (p cause detail ctx addr : Nat) : Dev :=
  (d.setFault p cause detail ctx addr).shed p ocFault 3

/-- A fault of an engine of a perch (R58, R102, R161): the span that runs is shed; where none runs any more, the work of the perch ends with the fault's record. -/
def Dev.engineFault (d : Dev) (p cause ctx addr : Nat) : Dev :=
  if d.runs? p then d.perchFault p cause 0 ctx addr else ((d.setFault p cause 0 ctx addr).arrayClear p).dmaAbortAll p 3

/-- Words of 4 bytes. -/
def words4 (l : List Nat) : List Byte := l.flatMap (leBytes 4)

/-- Pads or cuts a byte list to a length. -/
def fitTo (n : Nat) (l : List Byte) : List Byte := (l ++ List.replicate (n - l.length) 0#8).take n

/-- The DMA region of a context (R117): the queued descriptors, then where they stopped, the ticket count and DONE. The encoding is the model's own. -/
def DmaCtx.save (c : DmaCtx) : List Byte :=
  let flags := c.queue.zipIdx.foldl (fun n x => n + b2n x.1.started * 2 ^ x.2 + b2n x.1.lost * 2 ^ (4 + x.2)) 0
  fitTo 256 (c.queue.flatMap (fun x => fitTo 64 x.raw))
    ++ leBytes 3 (c.done + c.queue.length * 2 ^ 20) ++ leBytes 1 flags ++ leBytes 4 c.tickets
    ++ fitTo 20 (c.queue.flatMap (fun x => leBytes 5 x.landed)) ++ fitTo 28 (c.queue.flatMap (fun x => leBytes 7 x.pos))
    ++ fitTo 8 (c.queue.flatMap (fun x => leBytes 2 (x.off / 32)))

/-- A DMA context from its saved region; the abort log stays. -/
def DmaCtx.restore (c : DmaCtx) (l : List Byte) : DmaCtx :=
  let n := min 4 (fld l 256 3 / 2 ^ 20)
  let t := fld l 260 4
  { c with state := if n = 0 then 0 else 1,
           queue := (List.range n).map (fun i =>
             { raw := (l.drop (64 * i)).take 64, off := fld l (312 + 2 * i) 2 * 32, ticket := (t + 2 ^ 32 + i + 1 - n) % 2 ^ 32,
               started := bit (fld l 259 1) i, lost := bit (fld l 259 1) (4 + i), pos := fld l (284 + 7 * i) 7, landed := fld l (264 + 5 * i) 5 }),
           tickets := t, done := fld l 256 3 % 2 ^ 20 }

/-- The endpoint region of the context (R117), 32 bytes each. The encoding is the model's own. -/
def Endpoint.save (e : Endpoint) : List Byte :=
  fitTo 32 (leBytes 4 e.bytes ++ leBytes 2 e.credits ++ leBytes 2 e.creditIn ++ leBytes 3 e.wpos ++ leBytes 1 e.pending.length
    ++ e.pending.flatMap (fun m => leBytes 5 (m.1 / 32 + m.2.1 / 32 * 2 ^ 16 + m.2.2 / 32 * 2 ^ 28)))

/-- An endpoint from its saved region and its configuration. -/
def Endpoint.restore (cfg : Nat) (l : List Byte) : Endpoint :=
  { cfg := cfg, bytes := fld l 0 4, credits := fld l 4 2, creditIn := fld l 6 2, wpos := fld l 8 3,
    pending := (List.range (min 4 (fld l 11 1))).map (fun i =>
      let w := fld l (12 + 5 * i) 5
      (bits w 0 16 * 32, bits w 16 12 * 32, bits w 28 12 * 32)) }

/-- A plane record (R160). -/
def Plane.record (p : Plane) : Nat :=
  p.tileOff % 2 ^ 21 + p.scaleOff % 2 ^ 21 * 2 ^ 21 + p.fmt % 16 * 2 ^ 42 + b2n p.wscaled * 2 ^ 46 + b2n p.loaded * 2 ^ 47 + b2n p.pending * 2 ^ 48

/-- A plane from its record, its tile not yet read back. -/
def Plane.ofRec (n : Nat) : Plane :=
  { tileOff := bits n 0 21, scaleOff := bits n 21 21, fmt := bits n 42 4, wscaled := bit n 46, loaded := bit n 47, pending := bit n 48 }

/-- A queue entry (R160): instruction word, row count, next row, next zero row, ticket, reserved, descriptor; the plane and offsets of a load in the
reserved words. -/
def ArrCmd.save (c : ArrCmd) : List Byte :=
  words4 [c.word, c.rows, c.next, c.zero, c.ticket, c.tileOff, c.scaleOff, c.plane] ++ fitTo 32 c.desc

/-- A queue entry from its saved bytes. -/
def ArrCmd.restore (l : List Byte) : ArrCmd :=
  let w := fld l 0 4
  { isLoad := w % 128 = 0x2B, word := w, fmt := bits w 28 4, acc := bit w 27, zfill := bit w 26, scaled := if w % 128 = 0x2B then bit w 27 else bit w 25,
    rows := fld l 4 4, next := fld l 8 4, zero := fld l 12 4, ticket := fld l 16 4, desc := (l.drop 32).take 32, tileOff := fld l 20 4, scaleOff := fld l 24 4, plane := fld l 28 4 }

/-- The 16 KiB context of a perch (R117, R160). -/
def Perch.context (v : Perch) : List Byte :=
  let k := v.core
  let a := v.arr
  fitTo 0x80 (words4 (k.pc :: (List.range 31).map (fun i => k.gx (i + 1))))
    ++ fitTo 0x80 (words4 ((List.range 32).map k.gf))
    ++ fitTo 0x20 (words4 [k.fcsr, if k.vill then 2 ^ 31 else k.vtype, k.vl, k.vstart, k.vxrm, k.vxsat, k.vxrm * 2 + k.vxsat, 0])
    ++ fitTo 0x40 (words4 [v.mstatusRead, v.mie, v.mip, v.mtvec, v.mepc, v.mcause, v.mtval, v.mscratch, v.warn, b2n v.inTrap])
    ++ fitTo 0xA0 []
    ++ words4 ((List.range 64).map (KMap.get 0 v.ctr))
    ++ fitTo 0x100 []
    ++ (List.range 8).flatMap (fun c => (KMap.get {} v.ctx c).save)
    ++ (List.range 32).flatMap (fun e => (KMap.get {} v.ep e).save)
    ++ leBytes 8 a.plane0.record ++ leBytes 8 a.plane1.record
    ++ words4 [a.stat, a.rows % 2 ^ 32, a.stall % 2 ^ 32, a.lastPlane]
    ++ fitTo 0x20 []
    ++ fitTo 0x100 (a.queue.flatMap ArrCmd.save)
    ++ fitTo 0xCC0 []
    ++ (List.range 32).flatMap (fun r => leBytes 256 (k.gv r))

/-- The perch from its context (R117); what the context does not hold comes from `v`. -/
def Perch.ofContext (v : Perch) (cfg : Nat → Nat) (l : List Byte) : Perch :=
  let w := fun o => fld l o 4
  let vt := w 0x104
  let q := (List.range 4).map (fun i => (l.drop (0x1240 + 64 * i)).take 64)
  let queue := (q.filter (fun e => fld e 0 4 ≠ 0)).map ArrCmd.restore
  let core : RvCore :=
    { pc := w 0, x := KMap.setList 0 [] 1 ((List.range 31).map (fun i => w (4 * (i + 1)))), f := KMap.setList 0 [] 0 ((List.range 32).map (fun i => w (0x80 + 4 * i))),
      v := KMap.setList 0 [] 0 ((List.range 32).map (fun r => fld l (0x2000 + 256 * r) 256)), fcsr := w 0x100 % 256, vtype := if bit vt 31 then 0 else vt,
      vill := bit vt 31, vl := w 0x108, vstart := w 0x10C, vxrm := w 0x110 % 4, vxsat := w 0x114 % 2 }
  let st := w 0x1210
  { v with core := core, mstatus := w 0x120 &&& 0x88, mie := w 0x124, mip := w 0x128, mtvec := w 0x12C, mepc := w 0x130, mcause := w 0x134, mtval := w 0x138,
           mscratch := w 0x13C, warn := w 0x140, inTrap := w 0x144 ≠ 0,
           ctr := KMap.setList 0 [] 0 ((List.range 64).map (fun i => w (0x200 + 4 * i))),
           ctx := KMap.setList {} [] 0 ((List.range 8).map (fun c => (KMap.get {} v.ctx c).restore ((l.drop (0x400 + 320 * c)).take 320))),
           ep := KMap.setList {} [] 0 ((List.range 32).map (fun e => Endpoint.restore (cfg e) ((l.drop (0xE00 + 32 * e)).take 32))),
           arr := { plane0 := Plane.ofRec (fld l 0x1200 8), plane1 := Plane.ofRec (fld l 0x1208 8), queue := queue, passes := st / 2 ^ 16, iovf := bit st 10, rows := w 0x1214, stall := w 0x1218,
                    lastPlane := w 0x121C % 2, activity := 4, window := true } }

/-- Where a perch of a carry or host span saves (R52). -/
def saveBase (e : SpanEntry) (ordinal : Nat) : Nat := e.saveDva + ordinal * alignUp (0x4000 + e.saveBytes) 4096

/-- The accesses of a perch's contexts go on in the name of the continuation that is suspended (R60, R314). -/
def Dev.suspendRemote (d : Dev) (cont p : Nat) : Dev :=
  let away := fun (o : RemoteOp) => match o.agent with
    | .dma q c t => if q = p ∧ c < 8 then { o with agent := Agent.susp cont q c t } else o
    | _ => o
  { d with remote := d.remote.map away }

/-- The accesses of a resumed continuation are its contexts' again, and what ended in the meantime is counted (R313). -/
def Dev.resumeRemote (d : Dev) (cont p : Nat) : Dev :=
  let back := fun (o : RemoteOp) => match o.agent with
    | .susp k q c t => if k = cont ∧ q = p then { o with agent := Agent.dma q c t } else o
    | _ => o
  let d := { d with remote := d.remote.map back }
  let mine := (d.cont cont).settled.filter (fun w => w.1 = p)
  let d := mine.foldl (fun (d : Dev) (w : Nat × Nat × Nat × Nat × Bool) =>
    let (_, c, t, n, lost) := w
    d.updDesc p c t (fun x => if lost then { x with lost := true } else { x with landed := x.landed + n })) d
  d.updCont cont (fun k => { k with settled := k.settled.filter (fun w => w.1 ≠ p) })

/-- A suspension (R60, R158, R659): work in flight stops, and the context and the scratchpad image are written to the save area. -/
def Dev.suspend (d : Dev) (p : Nat) (e : SpanEntry) : Dev :=
  let d := (d.drainStores p).deliverAll p
  let d := Dev.arrayDrain p ((d.perch p).arr.inflight.length) d
  let trail := (d.perch p).arr.inflight
  let d := d.updArr p (fun a => { a.stop with queue := a.queue.map (fun c => { c with started := false, fed := 0, mask := [] }) })
  match d.dmaWriteOut p with
  | (some (c, a), d) => d.perchFault p 3 0 c a
  | (none, d) =>
    let d := (List.range 8).foldl (fun d c => d.dmaStop p c) d
    let v := d.perch p
    let x := d.perchXq p 0
    let image := d.spadRead p 0 e.saveBytes
    match d.dvaWrite x (.dma p 8 0) (x.rq false false) (some (perchDie p, perchChain p)) (saveBase e v.ordinal) (clean v.context ++ image) with
    | (some a, d) => d.perchFault p 8 0 0 a
    | (none, d) =>
      let d := (List.range 8).foldl (fun d c => d.updCtx p c (fun y => if y.busy then { y with state := 3 } else y)) d
      let d := d.suspendRemote e.contId p
      let code := v.arr.issued * 4 + b2n v.arr.mldSince * 2 + v.arr.mldPlane % 2
      let d := d.updCont e.contId (fun c => { c with saved := KMap.set 0 c.saved p 1, memloss := KMap.set 0 c.memloss p v.memloss,
                                                     array := KMap.set 0 c.array p code, trail := KMap.set [] c.trail p trail })
      let d := d.inc (perchDie p) Reg.TICK_SHED_CNT.SUSPENDS 1
      (d.report p ocSuspended).perchIdle p

/-- Budget expiry or displacement of a running perch (R58, R61). -/
def Dev.spanOut (d : Dev) (p outcome : Nat) : Dev :=
  let v := d.perch p
  let d := if outcome = ocDisplaced then
      let d := d.inc (perchDie p) Reg.TICK_OVERRUN_CNT.DISPLACED 1
      if d.rd (perchDie p) Reg.TICK_IRQ.DISPLACED_EN = 1 then { d with overrunDue := true } else d
    else d
  match d.anyEntry v.spanId with
  | none => d.shed p outcome 1
  | some e =>
    if e.kind = 0 then d.shed p outcome 1
    else if e.kind = 1 ∧ e.carryLimit ≤ v.dispatch then d.shed p ocCarry 1
    else d.suspend p e

/-- The span of a running perch ends without SPANEND (R58): at its budget's expiry, or at its displacement where that comes first (R63). -/
def Dev.spanEnds (d : Dev) (p : Nat) : Dev :=
  let left := (d.perch p).remaining
  let expiry := d.elapsed + d.cyclesNs left
  match d.displaceAt p with
  | some t =>
    if left = 0 ∨ expiry ≤ t then ((d.toTime expiry).updPerch p (fun v => { v with remaining := 0 })).spanOut p ocBudget
    else (d.toTime t).spanOut p ocDisplaced
  | none => ((d.toTime expiry).updPerch p (fun v => { v with remaining := 0 })).spanOut p ocBudget

/-- Completion by SPANEND (R58): the store buffer drains and the perch is idle. -/
def Dev.complete (d : Dev) (p : Nat) : Dev := ((d.drainStores p).report p ocCompleted).perchIdle p

/-- The endpoint words of a perch from its kernel's channel table (R110, R551). -/
def Dev.channelRow (d : Dev) (k ordinal e : Nat) : Nat := ((d.kernel k).chanRows.getD ordinal []).getD e 0

/-- A perch at the start of a span that is not a resumption (R84, R92, R110, R147, R170). The vector registers, vstart, vxrm, vxsat and the trap registers that
R84 does not name are zero too (DESIGN CHOICE, assumption 84), and CTR_SAT is clear, as it is at a resumption (DESIGN CHOICE, assumption 88). -/
def Dev.freshPerch (d : Dev) (e : SpanEntry) (ordinal size : Nat) (v : Perch) : Perch :=
  let core : RvCore :=
    { pc := 0x80000000 + (d.kernel e.kernel).entry,
      x := KMap.set 0 (KMap.set 0 (KMap.set 0 (KMap.set 0 (KMap.set 0 [] 2 0x180000) 10 (e.argDva % 2 ^ 32)) 11 (e.argDva / 2 ^ 32)) 12 ordinal) 13 size }
  let eps := (List.range 32).map (fun i =>
    ({ cfg := d.channelRow e.kernel ordinal i } : Endpoint))
  { v with core := core, mstatus := 0, mie := 0, mip := 0, mtvec := 0, mepc := 0, mcause := 0, mtval := 0, mscratch := 0, warn := 0, inTrap := false,
           stall := .none, storeBuf := [], ctr := [], ctrSat := false, memloss := 0, wcb := [],
           ctx := KMap.setList {} [] 0 ((List.range 8).map (fun c => { (KMap.get {} v.ctx c) with state := 0, queue := [], tickets := 0, done := 0 })),
           ep := KMap.setList {} [] 0 eps, arr := { activity := 4, window := true } }

/-- Reads back a perch's save area and resumes it (R60, R158, R659): the scratchpad image, then the context. -/
def Dev.resume (d : Dev) (p : Nat) (e : SpanEntry) (ordinal : Nat) (src : PerchStart) : Dev :=
  let x := d.perchXq p 0
  let at_ := saveBase e ordinal
  let q := x.rq false false
  let (image, bad, d) := d.dvaRead x q (some (perchChainKey p 0)) src.image (at_ + 0x4000) e.saveBytes
  match bad with
  | some a => d.perchFault p 8 1 0 a
  | none =>
    let d := d.spadWrite p 0 image
    let (ctx, bad, d) := d.dvaRead x q (some (perchChainKey p 0)) src.context at_ 0x4000
    match bad, ctx.findIdx? (·.2) with
    | some a, _ => d.perchFault p 8 1 0 a
    | none, some i => d.perchFault p 8 1 0 (at_ + i)
    | none, none =>
      let d := d.updPerch p (fun v => v.ofContext (d.channelRow e.kernel ordinal) (plain ctx))
      let d := d.resumeRemote e.contId p
      let code := KMap.get 0 (d.cont e.contId).array p
      let trail := KMap.get [] (d.cont e.contId).trail p
      let d := d.updArr p (fun a =>
        { a with issued := code / 4, anyMxm := decide (4 ≤ code), mldSince := bit code 1, mldPlane := code % 2, inflight := trail,
                 passes := (code / 4 + 2 ^ 32 - trail.length - (a.queue.filter (fun c => !c.isLoad)).length) % 2 ^ 32 })
      let a := (d.perch p).arr
      let load := fun (pl : Plane) => if pl.loaded || pl.pending then (d.loadPlane p pl).map (fun q => { q with pending := pl.pending }) else .ok pl
      match load a.plane0, load a.plane1 with
      | .ok p0, .ok p1 => (d.updArr p (fun a => { a with plane0 := p0, plane1 := p1 })).grantCredit p
      | .error o, _ => d.perchFault p 7 0 0 o
      | _, .error o => d.perchFault p 7 0 0 o

/-- The first perch of a dispatch makes the tick unit's record of it; the dispatch number counts from 1 (R51, R62). -/
def Dev.beginDispatch (d : Dev) (e : SpanEntry) (g : Nat) : Dev :=
  let i := d.span e.spanId
  if i.dispatched ∧ i.tick = d.tick then d
  else
    let d := if (d.cont e.contId).dead then d.updCont e.contId (fun c => { c with saved := [], dead := false }) else d
    let c := d.cont e.contId
    let d := if e.kind ≠ 0 ∧ c.saved.isEmpty then
        (d.disown (Agent.ofCont e.contId)).updCont e.contId (fun c => { c with settled := [], trail := [] })
      else d
    let n := if c.saved.isEmpty then 1 else c.dispatch + 1
    let d := if e.kind = 0 then d
      else d.updCont e.contId (fun c => { c with dispatch := n, lastTick := d.tick, entry := e.spanId, memloss := if c.saved.isEmpty then [] else c.memloss })
    d.setSpan e.spanId { dispatched := true, tick := d.tick, dispatch := if e.kind = 0 then 0 else n, perches := groupSizeOf g, opp := d.opp, entry := e.spanId }

/-- An entry that runs nothing (R55, R504). -/
def Dev.skips (d : Dev) (e : SpanEntry) (g : Nat) : Bool :=
  e.budget = 0 || g = 0 || (e.kind = 2 && ((KMap.get {} d.runs e.contId).queue.isNone || (KMap.get {} d.runs e.contId).outcome ≠ 0xFF))

/-- Starts a span on a perch that is free (R56, R60, R84, R115): its instruction cache is empty. PERCH_STATUS shows dispatch number 0 for a hard span (DESIGN
CHOICE, assumption 87). -/
def Dev.startSpan (d : Dev) (p : Nat) (e : SpanEntry) (g : Nat) (src : PerchStart) : Dev :=
  let d := d.beginDispatch e g
  let i := d.span e.spanId
  let d := d.setSpan e.spanId { i with started := i.started + 1, running := i.running + 1 }
  let c := d.cont e.contId
  let resumes := e.kind ≠ 0 ∧ KMap.get 0 c.saved p = 1
  let ordinal := ordinalOf g p
  let d := d.updPerch p (fun v => { v with pstate := 3, spanId := e.spanId, dispatch := if e.kind = 0 then 0 else i.dispatch, kernel := e.kernel, part := e.partition, kind := e.kind,
                                           budget := e.budget, remaining := e.budget, expired := false, ordinal := ordinal, groupSize := groupSizeOf g,
                                           icache := [] })
  let d := (d.disown (Agent.ofPerch p)).updPerch p (d.freshPerch e ordinal (groupSizeOf g))
  if resumes then
    (d.updPerch p (fun v => { v with memloss := KMap.get 0 c.memloss p })).resume p e ordinal src
  else d.grantCredit p

/-- The 32-byte status record of a dispatch (R51). -/
def SpanInfo.record (i : SpanInfo) (span : Nat) : List Byte :=
  leBytes 8 i.tick ++ leBytes 2 span ++ leBytes 1 i.outcome ++ leBytes 1 i.opp ++ leBytes 2 i.perches ++ leBytes 2 i.ended ++ leBytes 4 i.cyclesMax
    ++ leBytes 2 i.dispatch ++ leBytes 2 i.firstPerch ++ leBytes 8 0

/-- The tick unit of S0 as a requester (R626 UNIT 37). It translates through the host interface's MMU of S0 (assumption 21). -/
def tickXq (part span : Nat) : Xq := { mmu := mmuHif, part := part, unit := 37, req := span, die := 0 }

/-- Writes a status record; a write that fails is lost and counted (R51, R66). One that is dropped or lost on its way to another package is not counted here
(DESIGN CHOICE, assumption 82). -/
def Dev.writeStatus (d : Dev) (e : SpanEntry) (bytes : List Byte) : Dev :=
  let x := tickXq e.partition e.spanId
  match d.dvaWrite x (.hif 0xFFFF) (x.rq false true) none e.statusDva (clean bytes) with
  | (none, d) => d
  | (some _, d) => d.inc 0 Reg.TICK_OVERRUN_CNT.STATUS_LOST 1

/-- Discards a suspended continuation (R62): no saved state, and its last record again with OUTCOME DISCARDED and the tick of the change. -/
def Dev.discardCont (d : Dev) (id : Nat) : Dev :=
  let c := d.cont id
  if c.saved.isEmpty || c.dead then d
  else
    let d := d.updCont id (fun c => { c with saved := [], memloss := [] })
    let d := { d with runs := KMap.upd {} d.runs id (fun g => if g.queue.isSome then { g with outcome := ocDiscarded } else g) }
    match (d.charter.sched.spans ++ d.charter.plans.flatMap (fun p => p.sched.spans)).find? (fun e => e.spanId = c.entry && e.contId = id) with
    | none => d
    | some e =>
      if bit e.flags 0 then
        let bytes := leBytes 8 d.tick ++ (c.record.drop 8).take 2 ++ leBytes 1 ocDiscarded ++ c.record.drop 11
        d.writeStatus e bytes
      else d

/-- Writes the due status record of a span (R51) and keeps it with the continuation as its last record, unless it is SKIPPED (R62; DESIGN CHOICE, assumption
81). -/
def Dev.statusRecord (d : Dev) (span : Nat) : Dev :=
  let i := d.span span
  if !i.recordDue then d
  else
    let d := d.setSpan span { i with recordDue := false }
    match d.anyEntry span with
    | none => d
    | some e =>
      let bytes := i.record span
      let d := if e.kind = 0 ∨ i.outcome = ocSkipped then d else d.updCont e.contId (fun c => { c with record := bytes })
      if bit e.flags 0 then d.writeStatus e bytes else d

end Sys2Proof.Machine
end

