-- ==== Sys2Proof/Machine/DmaOps.lean ====
section
/-! DEFINITION. DMA descriptors (R100 to R109): enqueueing, checks, translation, movement, completion and arrival. -/

namespace Sys2Proof.Machine

/-- Fields of a descriptor's 64 bytes (R101). -/
def dmaType (r : List Byte) : Nat := fld r 0 1
def dmaFlags (r : List Byte) : Nat := fld r 1 1
def dmaCtr (r : List Byte) : Nat := fld r 2 1
def dmaArrCtr (r : List Byte) : Nat := fld r 3 1
def dmaArrPerch (r : List Byte) : Nat := fld r 4 2
def dmaSrc (r : List Byte) : Nat := fld r 8 8
def dmaDst (r : List Byte) : Nat := fld r 16 8
def dmaLen (r : List Byte) : Nat := fld r 24 4
def dmaRows (r : List Byte) : Nat := if dmaType r = 2 ∨ dmaType r = 3 then fld r 32 4 else 1
def dmaPlanes (r : List Byte) : Nat := if dmaType r = 3 then fld r 48 4 else 1
def dmaSrcLocal (r : List Byte) : Bool := bit (dmaFlags r) 0
def dmaDstLocal (r : List Byte) : Bool := bit (dmaFlags r) 1
def dmaArrive (r : List Byte) : Bool := bit (dmaFlags r) 2
def dmaFence (r : List Byte) : Bool := bit (dmaFlags r) 3
def dmaZfill (r : List Byte) : Bool := bit (dmaFlags r) 4
def dmaNoAlloc (r : List Byte) : Bool := bit (dmaFlags r) 5

/-- Bytes of a descriptor by its type (R101). -/
def dmaSize (type : Nat) : Nat := if type = 2 then 48 else if type = 3 then 64 else 32

/-- The descriptor moves nothing (R107). -/
def dmaEmpty (r : List Byte) : Bool := dmaLen r = 0 || dmaRows r = 0 || dmaPlanes r = 0

/-- Start of row `row` of plane `pl` on a side (R101), modulo 2^64. -/
def dmaRowAddr (base : Nat) (r : List Byte) (strideOff pstrideOff pl row : Nat) : Nat :=
  let st : Int := if dmaType r = 2 ∨ dmaType r = 3 then toSigned 32 (fld r strideOff 4) else 0
  let ps : Int := if dmaType r = 3 then toSigned 32 (fld r pstrideOff 4) else 0
  ofSigned 64 ((base : Int) + (pl : Int) * ps + (row : Int) * st)

/-- Source starts of the rows in the order plane, row. -/
def dmaSrcRows (r : List Byte) : List Nat :=
  (List.range (dmaPlanes r)).flatMap (fun pl => (List.range (dmaRows r)).map (dmaRowAddr (dmaSrc r) r 40 56 pl))

/-- Destination starts of the rows. -/
def dmaDstRows (r : List Byte) : List Nat :=
  (List.range (dmaPlanes r)).flatMap (fun pl => (List.range (dmaRows r)).map (dmaRowAddr (dmaDst r) r 44 60 pl))

/-- The operation reads a source side in memory that is translated. -/
def dmaReadsMem (r : List Byte) : Bool := dmaType r = 4 || (!dmaSrcLocal r && !dmaZfill r)

/-- A perch that a descriptor may signal without a destination (R101): of this package, in the partition's scratchpad bitmap (R259). -/
def Dev.arriveOk (d : Dev) (part arr : Nat) : Bool := arr < d.perchCount && bit (d.scratchMap part) arr

/-- The checks of R102 that need no translation. The DST code of MAINT is one of R101's three, and any other is a descriptor error (DESIGN CHOICE,
assumption 86). A descriptor without bytes that is no MAINT completes whatever perch it signals (R107). -/
def Dev.dmaChecks (d : Dev) (p : Nat) (r : List Byte) : Bool :=
  let t := dmaType r
  let inSpad := fun (rows : List Nat) => rows.all (fun a => a + dmaLen r ≤ spadSize)
  let maint := t = 4
  1 ≤ t && t ≤ 4 && dmaFlags r < 64 && fld r 6 2 = 0 && fld r 28 4 = 0
    && (t ≠ 2 && t ≠ 3 || fld r 36 4 = 0) && (t ≠ 3 || fld r 52 4 = 0)
    && (dmaCtr r < 64 || dmaCtr r = 0xFF) && dmaLen r ≤ 0x4000000 && dmaRows r ≤ 0x100000 && dmaPlanes r ≤ 0x100000
    && (if dmaArrive r then decide (dmaArrCtr r < 64) else dmaArrCtr r = 0 && dmaArrPerch r = 0)
    && (!maint || (!dmaSrcLocal r && !dmaDstLocal r && !dmaZfill r && !dmaNoAlloc r && 1 ≤ dmaDst r && dmaDst r ≤ 3))
    && (dmaEmpty r || maint || dmaZfill r || !dmaSrcLocal r || inSpad (dmaSrcRows r))
    && (dmaEmpty r || maint || !dmaDstLocal r || inSpad (dmaDstRows r))
    && (!dmaArrive r || !maint || d.arriveOk (d.perch p).part (dmaArrPerch r))
    && (!dmaArrive r || maint || dmaEmpty r || !dmaDstLocal r || dmaArrPerch r = p)

/-- The 64 KiB pages of rows of `n` bytes, rising, each once. -/
def pagesOf (rows : List Nat) (n : Nat) : List Nat :=
  rows.foldl (fun acc a => (pageSegs a n).foldl (fun acc s =>
    let pg := alignDown s.1 65536
    if acc.contains pg then acc else insertBy id pg acc) acc) []

/-- The leaf holds an address. -/
def Leaf.has (l : Leaf) (a : Nat) : Bool := l.dva ≤ a && a < l.dva + 2 ^ l.size

/-- What stops the translation of a side: a fault, or a seventeenth leaf; with the page named (R337). -/
inductive SideErr where
  | fault (page : Nat)
  | footprint (page : Nat)
  deriving DecidableEq, Repr

/-- The page is inside a leaf of the list. -/
def covered (ls : List Leaf) (a : Nat) : Bool := ls.any (fun l => l.has a)

/-- A piece touches a range. -/
def touches (t : Nat × Nat) (a n : Nat) : Bool := t.1 < a + n && a < t.1 + t.2

/-- The 4 KiB parts of a 64 KiB page that rows of `n` bytes touch, rising. -/
def partsOf (rows : List Nat) (n pg : Nat) : List Nat :=
  ((List.range 16).map (fun i => pg + 4096 * i)).filter (fun a => rows.any (fun r => touches (a, 4096) r n))

/-- Leaves of a side, the parts of a page whose entries differ as one (R337). -/
def leafCount (ls : List Leaf) : Nat := (ls.map (fun l => alignDown l.dva 65536)).eraseDups.length

/-- Translates the pages of one side in ascending order, at most 16 leaves (R102, R337); where the entries of a 64 KiB page differ, each part by its own (R328). -/
def Dev.translateSide (d : Dev) (x : Xq) (access : Nat) (rows : List Nat) (n : Nat) : Except SideErr (List Leaf) × Dev :=
  (pagesOf rows n).foldl (fun r pg =>
    match r with
    | (.error e, d) => (.error e, d)
    | (.ok ls, d) =>
      let parts := partsOf rows n pg
      if covered ls pg then (.ok ls, d)
      else if 16 ≤ leafCount ls then (.error (.footprint pg), d.mmuFault x ftFootprint access (pg % 2 ^ 47))
      else match d.leafFor x (parts.headD pg) access with
        | (.error _, d) => (.error (.fault pg), d)
        | (.ok e, d) =>
          if e.part4k = 16 then (.ok (ls ++ [{ dva := e.dva, size := e.size, target := e.target }]), d)
          else parts.foldl (fun r a =>
            match r with
            | (.error e, d) => (.error e, d)
            | (.ok ls, d) => match d.translate x a access with
              | (.error _, d) => (.error (.fault pg), d)
              | (.ok t, d) => (.ok (ls ++ [{ dva := a, size := 12, target := t }]), d)) (.ok ls, d)) (.ok [], d)

/-- The target of an address by the leaves of its side. -/
def targetBy (ls : List Leaf) (a : Nat) : Nat :=
  match ls.find? (fun l => l.has a) with
  | some l => l.target + (a - l.dva)
  | none => 0

/-- Pieces (address, length) of a range by 4 KiB. -/
def partSegs (a n : Nat) : List (Nat × Nat) :=
  let first := min n (4096 - a % 4096)
  (a, first) :: (List.range ((n - first + 4095) / 4096)).map (fun i => (a + first + 4096 * i, min 4096 (n - first - 4096 * i)))

/-- Pieces (target, length) of a row on a translated side. -/
def rowTargets (ls : List Leaf) (a n : Nat) : List (Nat × Nat) :=
  (pageSegs a n).flatMap (fun s =>
    if ls.any (fun l => l.size = 12 && l.has s.1) then (partSegs s.1 s.2).map (fun t => (targetBy ls t.1, t.2)) else [(targetBy ls s.1, s.2)])

/-- Pieces of a row on a side: in the perch's own scratchpad, or by its leaves. A local piece has its league system address. -/
def Dev.sideRow (d : Dev) (p : Nat) (isLocal : Bool) (ls : List Leaf) (a n : Nat) : List (Nat × Nat) :=
  if isLocal then [(d.pkgId * 2 ^ 48 + spadBase p + a, n)] else rowTargets ls a n

/-- An address lies in one of the pieces. -/
def inPieces (ps : List (Nat × Nat)) (a : Nat) : Bool := ps.any (fun t => t.1 ≤ a && a < t.1 + t.2)

/-- A context halts (R58, R102): causes 2 translation fault, 3 access error, 4 descriptor error. A span that runs is shed. -/
def Dev.dmaHalt (d : Dev) (p c cause addr : Nat) : Dev := (d.updCtx p c (fun x => { x with state := 2 })).engineFault p cause c addr

/-- MAINT (R219, R220): operation 2 and 3 drop the chain's copies of the lines of the range, and keep out the fills into a set that they visit: every set
for a range of 512 KiB or more. Writes are accepted at their homes as they are issued. -/
def Dev.maint (d : Dev) (p op : Nat) (pieces : List (Nat × Nat)) : Dev :=
  if op = 1 then d
  else
    let own := pieces.filterMap (fun t => (d.localOf t.1).map (fun a => (a, t.2)))
    let inRange := fun (line : Nat) => own.any (fun t => t.1 < line * 128 + 128 && line * 128 < t.1 + t.2)
    let all := decide (0x80000 ≤ (pieces.map (·.2)).sum)
    d.chainDrop (perchDie p) (perchChain p) (fun line _ => inRange line) (fun f =>
      inRange f.line || (!f.side && (all || own.any (fun t => (lineSegs t.1 t.2).any (fun s => chainSet (s.1 * 128) = chainSet (f.line * 128))))))

/-- Bytes that a descriptor moves (R101): an empty one and MAINT move none (R107, R219). -/
def dmaTotal (r : List Byte) : Nat := if dmaType r = 4 then 0 else dmaLen r * dmaRows r * dmaPlanes r

/-- A descriptor has started and has no more bytes to move. -/
def DmaDesc.issued (x : DmaDesc) : Bool := x.started && decide (dmaTotal x.raw ≤ x.pos)

/-- A read from another package for a descriptor has not come. -/
def Dev.dmaAwaits (d : Dev) (p c t : Nat) : Bool := d.remote.any (fun o => o.isRead && o.agent = Agent.dma p c t)

/-- A line of the buffer may leave (R108): it is full, or a descriptor that writes into it has put its last byte into the buffer. -/
def Dev.dmaRipe (d : Dev) (p : Nat) (l : DmaLine) : Bool :=
  l.bytes.all Option.isSome || l.parts.any (fun w => !d.dmaAwaits p l.ctx w.1 && ((d.descOf p l.ctx w.1).map (·.issued)).getD true)

/-- The lines that may leave do so, but for those whose home holds the partition's requests (R108, R264). -/
def Dev.dmaDrain (d : Dev) (p : Nat) : Dev :=
  (d.perch p).wcb.foldl (fun d l =>
    if (d.perch p).wcb.contains l && d.dmaRipe p l && !d.dmaLineHeld p l then
      match d.dmaIssue p l with
      | (some pg, d) => d.dmaHalt p l.ctx 3 pg
      | (none, d) => d
    else d) d

/-- An address of a package inside its scratchpad windows (R22). -/
def inScratch (la : Nat) : Bool := decide (scratchBase ≤ la) && decide (la < spadBase 2112)

/-- Writes one destination piece, which lies in one line (R104, R108): a scratchpad at once, memory and the host window through the buffer. It must wait, and false is
answered, where no line is free and the home of the line that must leave holds the partition's requests (R264); data that come from another package do not
wait, and their line stands in the buffer beside the others (DESIGN CHOICE, assumption 91). -/
def Dev.dmaPut (d : Dev) (p c t : Nat) (force : Bool) (target : Nat) (v : List PByte) : Bool × Dev :=
  let q := (d.perchXq p c).rq false false
  if inScratch (target % 2 ^ 48) then
    match d.localOf target with
    | none =>
      let (n, d) := d.remoteLine (.dma p c t) q.part (target / 128) (linePatch (target % 128) v)
      (true, d.descLost p c t n)
    | some pa =>
      let (e, d) := d.writeLocal q none pa v
      if e then (true, d.dmaHalt p c 3 (d.writePage p c t target))
      else (true, d.updDesc p c t (fun x => { x with landed := x.landed + v.length }))
  else
    let put := fun (d : Dev) => d.dmaGather p c t (target / 128) (target % 128) v
    let mine := (d.perch p).wcb.any (fun l => l.ctx = c && l.line = target / 128)
    match if mine then none else d.dmaVictim p c with
    | none => (true, put d)
    | some l =>
      if d.dmaLineHeld p l then (force, if force then put d else d)
      else match d.dmaIssue p l with
        | (some pg, d) => (true, d.dmaHalt p l.ctx 3 pg)
        | (none, d) => (true, put d)

/-- Source and destination of the byte of a descriptor at a position in the order plane, row, byte, and the bytes from it to its row's end. -/
def dmaAt (r : List Byte) (pos : Nat) : Nat × Nat × Nat :=
  let row := pos / dmaLen r
  let off := pos % dmaLen r
  (dmaRowAddr (dmaSrc r) r 40 56 (row / dmaRows r) (row % dmaRows r) + off,
    dmaRowAddr (dmaDst r) r 44 60 (row / dmaRows r) (row % dmaRows r) + off, dmaLen r - off)

/-- The league address of an address of a side. -/
def Dev.sideAt (d : Dev) (p : Nat) (isLocal : Bool) (ls : List Leaf) (a : Nat) : Nat :=
  if isLocal then d.pkgId * 2 ^ 48 + spadBase p + a else targetBy ls a

/-- Which bytes of a piece stand in the source range and the destination range of their descriptor both, at either end (R106). -/
def Dev.dmaOverlap (d : Dev) (p : Nat) (r : List Byte) (ls : List Leaf × List Leaf) (src dst n : Nat) : Nat → Bool :=
  let near := fun (isLocal : Bool) (l : List Leaf) (rows : List Nat) (at_ : Nat) =>
    (rows.flatMap (fun a => d.sideRow p isLocal l a (dmaLen r))).filter (fun t => touches t at_ n)
  let ins := near (dmaSrcLocal r) ls.1 (dmaSrcRows r) dst
  let outs := near (dmaDstLocal r) ls.2 (dmaDstRows r) src
  fun i => inPieces ins (dst + i) || inPieces outs (src + i)

/-- Asks another package for data of a descriptor (R99, R308): where they go, and their first byte in the descriptor. -/
def Dev.dmaFetch (d : Dev) (p c t pos target n : Nat) (dest : List (Nat × Nat)) : Dev :=
  let tag := d.nextTag
  let d := d.remoteReadOne (.dma p c t) (d.perch p).part target n dest
  let mine := fun (o : RemoteOp) => if o.tag = tag ∧ o.isRead ∧ o.agent = Agent.dma p c t then { o with pos := pos } else o
  { d with remote := d.remote.map mine }

/-- The next piece of a descriptor (R101, R104): as much of its row as one line of each side holds, one granule of a source in another package. None where it
must wait: for data on their way to the same bytes (R106, R293), for a home that holds the partition's requests (R264), or for a read of the host window,
whose bytes a DMA_DESCRIPTOR_START brings. -/
def Dev.dmaStep (d : Dev) (p c : Nat) (x : DmaDesc) (ls : List Leaf × List Leaf) (ext : Option Ext) (used : Nat) : Option (Nat × Dev) :=
  let r := x.raw
  let q := (d.perchXq p c).rq (dmaNoAlloc r) false
  let (sa, da, left) := dmaAt r x.pos
  let src := d.sideAt p (dmaSrcLocal r) ls.1 sa
  let dst := d.sideAt p (dmaDstLocal r) ls.2 da
  let clash := fun (a n : Nat) => d.remote.any (fun o => o.isRead && o.agent.ofCtx p c && o.dest.any (fun t => touches t a n))
  let on := fun (n : Nat) (d : Dev) => d.updDesc p c x.ticket (fun y => { y with pos := y.pos + n })
  if !dmaZfill r && (d.localOf src).isNone && d.remoteUp (src / 2 ^ 48) then
    let n := min left (256 - src % 256)
    let dest := (lineSegs da n).map (fun s => (d.sideAt p (dmaDstLocal r) ls.2 (s.1 * 128 + s.2.1), s.2.2))
    if dest.any (fun t => clash t.1 t.2) then none else some (used, on n (d.dmaFetch p c x.ticket x.pos src n dest))
  else
    let n := min left (min (128 - dst % 128) (if dmaZfill r then 128 else 128 - src % 128))
    let inChain := fun (line : Nat) => d.chainEn (perchDie p) (perchChain p) && (d.chain (perchDie p) (perchChain p)).holds line
    let (host, pa) : Bool × Nat := match d.localOf src with
      | some pa => ((match d.region pa with
          | .host _ => true
          | _ => false), pa)
      | none => (false, 0)
    if clash dst n || (!dmaZfill r && (d.homeFull q inChain src n || (host && ext.isNone))) then none
    else
      let (b, e, d) : List PByte × Bool × Dev :=
        if dmaZfill r then (clean (List.replicate n 0#8), false, d)
        else if (d.localOf src).isNone then
          (let whole : Bool := decide (n = left) || decide ((src + n) % 256 = 0)
           let (b, d) := ((if whole then d.inc 0 Reg.LINK_LOSS.POISON_RD 1 else d).updPerch p (fun v => { v with memloss := v.memloss ||| 2 ^ 29 })).poisonBytes n
           (b, false, d))
        else
          let ext := ext.getD ⟨[], false⟩
          d.readLocal q (some (perchChainKey p c)) { ext with bytes := ext.bytes.drop used } pa n
      if e then some (used, d.dmaHalt p c 3 (alignDown sa 65536))
      else
        let (f, d) := d.freeBytes n
        let shared := if dmaZfill r then fun _ => false else d.dmaOverlap p r ls src dst n
        let b := (b.zip f).zipIdx.map (fun z => if shared z.2 then (z.1.2, z.1.1.2) else z.1.1)
        match d.dmaPut p c x.ticket false dst b with
        | (false, _) => none
        | (true, d) => some (if host then used + n else used, on n d)

/-- Moves the descriptors of a context in queue order as far as they can go (R103, R104); `fuel` bounds the pieces. -/
def Dev.dmaLoop (p c : Nat) (ext : Option Ext) : Nat → Nat → Dev → Dev
  | 0, _, d => d
  | f + 1, used, d =>
    match ((d.ctxOf p c).queue.find? (fun x => !x.issued)).bind (fun x => x.leaves.bind (fun ls => d.dmaStep p c x ls ext used)) with
    | none => d
    | some (u, d) => dmaLoop p c ext f u (d.dmaDrain p)

/-- A context goes on: the bytes of its started descriptors move and the lines of the buffer leave, where nothing holds them. -/
def Dev.dmaAdvance (d : Dev) (p c : Nat) (ext : Option Ext) : Dev :=
  let x := d.ctxOf p c
  if !d.powered p || decide (2 ≤ x.state) then d
  else Dev.dmaLoop p c ext ((x.queue.map (fun y => dmaRows y.raw * dmaPlanes y.raw * (dmaLen y.raw / 64 + 4))).sum + 1) 0 (d.dmaDrain p)

/-- Checks and translates a descriptor (R102, R107, R219, R337): its leaves, or the context halts. An error that names no page names the offset that the
descriptor was queued from (DESIGN CHOICE, assumption 90). -/
def Dev.dmaAdmit (d : Dev) (p c : Nat) (z : DmaDesc) : Dev :=
  let x := d.perchXq p c
  let r := z.raw
  let go := fun (d : Dev) (ls : List Leaf × List Leaf) => d.updDesc p c z.ticket (fun y => { y with started := true, leaves := some ls })
  if !d.dmaChecks p r then d.dmaHalt p c 4 z.off
  else if dmaEmpty r then go d ([], [])
  else
    let err := fun (d : Dev) (e : SideErr) => match e with
      | .fault pg => d.dmaHalt p c 2 pg
      | .footprint pg => d.dmaHalt p c 4 pg
    match d.translateSide x axRead (if dmaReadsMem r then dmaSrcRows r else []) (dmaLen r) with
    | (.error e, d) => err d e
    | (.ok sl, d) =>
      if dmaType r = 4 then go (d.maint p (dmaDst r) (rowTargets sl (dmaSrc r) (dmaLen r))) (sl, [])
      else
        match d.translateSide x axWrite (if dmaDstLocal r then [] else dmaDstRows r) (dmaLen r) with
        | (.error e, d) => err d e
        | (.ok dl, d) =>
          let inTarget := (dmaDstRows r).all (fun a => (d.sideRow p (dmaDstLocal r) dl a (dmaLen r)).all (fun t =>
            match d.localOf t.1 with
            | some pa => spadBase (dmaArrPerch r) ≤ pa && pa + t.2 ≤ spadBase (dmaArrPerch r) + spadSize
            | none => false))
          if dmaArrive r ∧ !inTarget then d.dmaHalt p c 4 z.off else go d (sl, dl)

/-- DMA_DESCRIPTOR_START: the first descriptor of the context that has bytes to move is checked, translated and moved, unless it must wait for those before it
(R103). `ext` brings what its reads of the host window answer. -/
def Dev.descriptorStart (d : Dev) (p c : Nat) (ext : Ext) : Dev :=
  let q := (d.ctxOf p c).queue
  if !d.powered p || decide (2 ≤ (d.ctxOf p c).state) then d
  else match q.find? (fun x => !x.issued) with
    | none => d
    | some x =>
      if x.leaves.isSome then d.dmaAdvance p c (some ext)
      else if !x.started && dmaFence x.raw && q.head? ≠ some x then d
      else (d.dmaAdmit p c x).dmaAdvance p c (some ext)

/-- A byte of a descriptor has not landed: it has not moved, stands in the buffer, or is on its way to or from another package (R104, R313). -/
def Dev.dmaOpen (d : Dev) (p c : Nat) (x : DmaDesc) : Bool :=
  !x.issued || d.remote.any (fun o => o.agent = Agent.dma p c x.ticket) || (d.perch p).wcb.any (fun l => l.ctx = c && l.parts.any (fun w => w.1 = x.ticket))

/-- DMA_DESCRIPTOR_COMPLETE (R104, R105, R313): the oldest descriptor has landed; its increments are applied. -/
def Dev.descriptorComplete (d : Dev) (p c : Nat) : Dev :=
  match (d.ctxOf p c).queue with
  | [] => d
  | x :: t =>
    if d.dmaOpen p c x || !d.powered p || decide (2 ≤ (d.ctxOf p c).state) then d
    else
      let d := d.updCtx p c (fun y => { y with queue := t, done := satAdd 18 y.done 1, state := if t.isEmpty then 0 else 1 })
      let fenced : Bool := match (d.perch p).stall with
        | .fence _ => true
        | _ => false
      let d := if x.lost ∧ fenced then d.updPerch p (fun v => { v with memloss := v.memloss ||| 2 ^ 30 }) else d
      let d := d.ctrInc p (dmaCtr x.raw)
      if dmaArrive x.raw then d.updPerch p (fun v => { v with arrivals := v.arrivals ++ [(c, dmaArrPerch x.raw, dmaArrCtr x.raw)] }) else d

/-- The contexts of the perches go on at a boundary, where homes take requests again (R264). -/
def Dev.dmaBoundary (d : Dev) : Dev :=
  d.perches.foldl (fun d v => (List.range 8).foldl (fun d c => if (d.ctxOf v.1 c).busy then d.dmaAdvance v.1 c none else d) d) d

/-- ARRIVAL_INCREMENT (R105): the oldest arrival that a context sent reaches its target, whatever span the target runs. -/
def Dev.arrivalIncrement (d : Dev) (p c : Nat) : Dev :=
  match (d.perch p).arrivals.find? (fun a => a.1 = c) with
  | none => d
  | some a =>
    let d := d.updPerch p (fun v => { v with arrivals := v.arrivals.erase a })
    if a.2.1 < d.perchCount then d.ctrInc a.2.1 a.2.2 else d

end Sys2Proof.Machine
end

