-- ==== Sys2Proof/Machine/ArrayOps.lean ====
section
/-! DEFINITION. The matrix array (R130 to R171): MLD and MXM at issue, loads, passes, completion, the keeper's ramp. -/

namespace Sys2Proof.Machine

/-- The plane that an MLD writes (R147). -/
def Arr.loadTarget (a : Arr) : Nat := if a.anyMxm then 1 - a.lastPlane % 2 else 1

/-- The plane that an MXM streams on (R147). -/
def Arr.streamPlane (a : Arr) : Nat := if a.mldSince then a.mldPlane else if a.anyMxm then a.lastPlane else 0

/-- A plane by number. -/
def Arr.plane (a : Arr) (n : Nat) : Plane := if n = 0 then a.plane0 else a.plane1

/-- Replaces a plane. -/
def Arr.setPlane (a : Arr) (n : Nat) (p : Plane) : Arr := if n = 0 then { a with plane0 := p } else { a with plane1 := p }

/-- The format of the tile that a plane holds or will hold after the loads in the queue. -/
def Arr.tileFmt (a : Arr) (n : Nat) : Option Nat :=
  match (a.queue.filter (fun c => c.isLoad && c.plane = n)).getLast? with
  | some c => some c.fmt
  | none => if (a.plane n).loaded then some (a.plane n).fmt else none

/-- Result of an array instruction at issue: a trap, a stall, or the array with the value for rd. -/
inductive IssueRes where
  | trap (cause tval : Nat)
  | stall
  | ok (a : Arr) (rd : Nat)

/-- MLD at issue (R139, R140, R147). -/
def Arr.issueMld (a : Arr) (word fmt : Nat) (ws : Bool) (off1 off2 : Nat) : IssueRes :=
  if 8 < fmt ∨ (ws ∧ !fmtScalable fmt) ∨ spadSize < off1 + fmtTileBytes fmt ∨ (ws ∧ spadSize < off2 + fmtK fmt) then .trap 2 word
  else if off1 % 32 ≠ 0 then .trap 4 off1
  else if ws ∧ off2 % 32 ≠ 0 then .trap 4 off2
  else if 4 ≤ a.queue.length then .stall
  else
    let n := a.loadTarget
    let pl := a.plane n
    let pl := if pl.loaded then { pl with pending := true }
      else { pl with pending := true, tileOff := off1, scaleOff := if ws then off2 else 0, fmt := fmt, wscaled := ws }
    let c : ArrCmd := { isLoad := true, word := word, fmt := fmt, scaled := ws, tileOff := off1, scaleOff := if ws then off2 else 0, plane := n }
    .ok { (a.setPlane n pl) with queue := a.queue ++ [c], mldSince := true, mldPlane := n } 0

/-- Row `i` of `n` bytes lies in the scratchpad. -/
def rowInSpad (base : Nat) (stride : Int) (n i : Nat) : Bool :=
  let a : Int := (base : Int) + (i : Int) * stride
  0 ≤ a && a + (n : Int) ≤ (spadSize : Int)

/-- Every row of a side lies in the scratchpad: the first and the last do. -/
def sideInSpad (base : Nat) (stride : Int) (n rows : Nat) : Bool := rows = 0 || (rowInSpad base stride n 0 && rowInSpad base stride n (rows - 1))

/-- The descriptor and the ranges of a pass keep the rules of R140 and R141. -/
def passOk (l : List Byte) (fmt : Nat) (scaled : Bool) (rows : Nat) : Bool :=
  pdABase l % 8 = 0 && pdAStride l % 8 = 0 && pdDBase l % 128 = 0 && pdDStride l % 128 = 0 && (rows ≤ 1 || pdDStride l ≠ 0)
    && (pdMask l = 0xFFFFFFFF || (pdMask l % 32 = 0 && pdMask l + ceilDiv rows 8 ≤ spadSize))
    && (pdCtr l < 64 || pdCtr l = 0xFF) && fld l 29 3 = 0
    && sideInSpad (pdABase l) (pdAStride l) (fmtRowBytes fmt) rows && sideInSpad (pdDBase l) (pdDStride l) 128 rows
    && (!scaled || sideInSpad (pdSaBase l) (pdSaStride l) (fmtK fmt / 32) rows)

/-- MXM at issue (R132, R140 to R143, R147). `desc` is what the scratchpad holds at the descriptor's offset; none where it is poisoned. -/
def Arr.issueMxm (a : Arr) (word fmt : Nat) (acc zf sc : Bool) (off : Nat) (count : Nat) (desc : Option (List Byte)) : IssueRes :=
  let plane := a.streamPlane
  let classOk := match a.tileFmt plane with
    | some f => fmtClass f = fmtClass fmt
    | none => true
  if 8 < fmt ∨ !classOk ∨ (sc ∧ !fmtScalable fmt) ∨ 2 ^ 24 ≤ count ∨ spadSize < off + 32 then .trap 2 word
  else if off % 32 ≠ 0 then .trap 4 off
  else match desc with
    | none => .trap 5 off
    | some l =>
      if !passOk l fmt sc count then .trap 2 word
      else if 4 ≤ a.queue.length then .stall
      else
        let t := (a.issued + 1) % 2 ^ 32
        let c : ArrCmd := { word := word, fmt := fmt, acc := acc, zfill := zf, scaled := sc, rows := count, ticket := t, desc := l, plane := plane }
        .ok { a with queue := a.queue ++ [c], issued := t, lastPlane := plane, anyMxm := true, mldSince := false } t

/-- Commands of the queue before the first that satisfies `p`, and that command. -/
def splitFirst (p : ArrCmd → Bool) : List ArrCmd → Option (List ArrCmd × ArrCmd × List ArrCmd)
  | [] => none
  | c :: t => if p c then some ([], c, t) else (splitFirst p t).map (fun r => (c :: r.1, r.2.1, r.2.2))

/-- ARRAY_LOAD_START (R148, R161): the oldest load runs, unless an earlier pass has still to stream on its plane. -/
def Dev.arrayLoad (d : Dev) (p : Nat) : Dev :=
  let a := (d.perch p).arr
  match splitFirst (·.isLoad) a.queue with
  | none => d
  | some (before, c, after) =>
    if !d.powered p ∨ before.any (fun x => x.plane = c.plane) then d
    else
      let pl : Plane := { tileOff := c.tileOff, scaleOff := c.scaleOff, fmt := c.fmt, wscaled := c.scaled }
      match d.loadPlane p pl with
      | .error o => d.engineFault p 7 0 o
      | .ok pl =>
        let pl := { pl with pending := after.any (fun x => x.isLoad && x.plane = c.plane) }
        d.updPerch p (fun v => { v with arr := { (v.arr.setPlane c.plane pl) with queue := before ++ after } })

/-- One row of a pass: its 128 result bytes and whether an integer sum left its range (R135, R136). -/
def passRow (c : ArrCmd) (pl : Plane) (row init scales : List Byte) : List Byte × Bool :=
  let fa := c.fmt
  let fw := if pl.loaded then pl.fmt else c.fmt
  let a := leNat row
  let ae := (List.range (fmtK fa)).map (packedElem (fmtBits fa) a)
  let sa := if c.scaled then scales.map (·.toNat) else []
  let cols := (List.range 32).map (fun n =>
    let we := (List.range (fmtK fa)).map (fun k => packedElem (fmtBits fw) pl.tile (k * 32 + n))
    let sw := if pl.wscaled then (List.range (fmtK fa / 32)).map (fun b => bits pl.scales (8 * (32 * b + n)) 8) else []
    let s := if c.acc then fld init (4 * n) 4 else 0
    if fmtIsInt fa then arrayDotI s fa fw ae we else (arrayDotF s fa fw ae we sa sw, false))
  (words4 (cols.map (·.1)), cols.any (·.2))

/-- Keeper mode (R165, R588). -/
def Dev.keeper (d : Dev) : Bool :=
  d.rd 0 Reg.PWR_CTRL.POLICY = 2 || (d.rd 0 Reg.PWR_CTRL.POLICY = 0 && !d.sh4)

/-- Streams a row of a pass (R132, R135, R144): its result is written, or the offset of a poisoned word is answered (R161). -/
def Dev.passStep (d : Dev) (p : Nat) (c : ArrCmd) : Option Nat × Dev :=
  let a := rowOff (pdABase c.desc) (pdAStride c.desc) c.next
  let s := rowOff (pdSaBase c.desc) (pdSaStride c.desc) c.next
  let o := rowOff (pdDBase c.desc) (pdDStride c.desc) c.next
  let (row, d) := d.readEither p a (fmtRowBytes c.fmt)
  let (scales, d) := if c.scaled then d.readEither p s (fmtK c.fmt / 32) else ([], d)
  let (init, d) := if c.acc then d.readEither p o 128 else ([], d)
  match ((poisonAt o init).or (poisonAt a row)).or (poisonAt s scales) with
  | some x => (some x, d)
  | none =>
    let (v, ovf) := passRow c ((d.perch p).arr.plane c.plane) (plain row) (plain init) (plain scales)
    (none, (d.passWrite p o v).updArr p (fun x => { x with rows := (x.rows + 1) % 2 ^ 32, iovf := x.iovf || ovf }))

/-- The feed goes on with at most `n` unmasked rows (R149 to R151): it takes no row of a group before the group's mask word has been read, and begins to read
the next word at the group's first unmasked row. The offset of a poisoned word ends it (R161). `fuel` bounds the rows looked at. -/
def Dev.feedRows (p : Nat) : Nat → Nat → ArrCmd → Dev → Option Nat × ArrCmd × Dev
  | 0, _, c, d => (none, c, d)
  | f + 1, n, c, d =>
    if c.fedAll then (none, c, d)
    else match d.readMask p c (c.next / 256) with
      | .error o => (some o, c, d)
      | .ok c =>
        if c.masked c.next then Dev.feedRows p f n { c with next := c.next + 1 } d
        else if n = 0 then (none, c, d)
        else match d.readMask p c (c.next / 256 + 1) with
          | .error o => (some o, c, d)
          | .ok c =>
            match d.passStep p c with
            | (some o, d) => (some o, c, d)
            | (none, d) => Dev.feedRows p f (n - 1) { c with next := c.next + 1, fed := c.fed + 1 } d

/-- The oldest pass of the queue may be fed (R149): the load of its plane is complete, and in keeper mode the activity stands at 100 % (R168). -/
def Dev.feedable (d : Dev) (p : Nat) : Option (List ArrCmd × ArrCmd × List ArrCmd) :=
  let a := (d.perch p).arr
  match splitFirst (fun c => !c.isLoad) a.queue with
  | none => none
  | some (before, c, after) =>
    if before.any (fun x => x.plane = c.plane) || (d.keeper && decide (a.activity < 4) && decide (c.fed = 0)) then none else some (before, c, after)

/-- Feeds the oldest pass of the queue, which leaves it with its last row (R142, R149, R152). -/
def Dev.passFeed (d : Dev) (p : Nat) (feed : PassFeed) : Dev :=
  match d.feedable p with
  | none => d
  | some (before, c, after) =>
    match Dev.feedRows p (c.rows + 1) feed.rows { c with started := true } d with
    | (some o, _, d) => d.engineFault p 7 0 o
    | (none, c, d) =>
      let (c, d) := Dev.zeroRows p (c.rows + 1) feed.zeros c d
      d.updArr p (fun a =>
        let a := { a with stall := (a.stall + feed.stall) % 2 ^ 32, window := a.window && decide (c.fed = 0), ramp := a.ramp && decide (c.fed = 0),
                          activity := if c.fed = 0 then a.activity else 4 }
        if c.fedAll then { a with queue := before ++ after, inflight := a.inflight ++ [c] } else { a with queue := before ++ c :: after })

/-- ARRAY_PASS_START (R149): the oldest pass of the queue starts, or its feed goes on. -/
def Dev.arrayPass (d : Dev) (p : Nat) (feed : PassFeed) : Dev := if d.powered p then d.passFeed p feed else d

/-- ARRAY_PASS_COMPLETE (R143, R145): the oldest pass that has not completed does so, its feed first going on to its last row where it has begun. -/
def Dev.passComplete (d : Dev) (p : Nat) : Dev :=
  if !d.powered p then d
  else
    let a := (d.perch p).arr
    let begun := match a.queue.find? (fun c => !c.isLoad) with
      | some c => c.started && a.nextDone.isNone
      | none => false
    let d := if begun then d.passFeed p { stall := 0, rows := 2 ^ 24, zeros := 2 ^ 24 } else d
    match (d.perch p).arr.nextDone with
    | none => d
    | some c =>
      match d.finishPass p c with
      | .ok d => d
      | .error o => d.engineFault p 7 0 o

/-- KEEPER_WINDOW_EXPIRY (R166, R167): the ramp-down begins with its first step. -/
def Arr.windowEnd (a : Arr) : Arr :=
  if a.window && a.inGap then { a with window := false, ramp := decide (a.activity ≠ 0), activity := min a.activity 3 } else a

/-- ARRAY_RAMP_DOWN_STEP (R167), while no row is fed and no pass is ready. -/
def Arr.rampDown (a : Arr) : Arr :=
  if a.ramp && !a.window && a.activity ≠ 0 && a.inGap && !a.ready then { a with activity := a.activity - 1, ramp := decide (2 ≤ a.activity) } else a

/-- ARRAY_RAMP_UP_STEP (R168, R169): 128 cycles, which pmxstall counts where a pass waits for them; between spans the tick unit brings the array up. -/
def Arr.rampUp (idle : Bool) (a : Arr) : Arr :=
  if a.activity < 4 && (idle || a.ready) then
    { a with activity := a.activity + 1, ramp := decide (a.activity < 3), stall := if idle then a.stall else (a.stall + 128) % 2 ^ 32, window := false }
  else a

end Sys2Proof.Machine
end

