-- ==== Sys2Proof/Machine/SeqOps.lean ====
section
/-! DEFINITION. The perch sequencer (R81 to R91): fetch, traps, the Xperch instructions, one instruction executed. -/

namespace Sys2Proof.Machine

/-- A trap of the sequencer (R85): taken through mtvec, or a fault of the span where it is unhandled. A load of poison is recorded (R99, R626). -/
def Dev.seqTrap (d : Dev) (p cause tval : Nat) : Dev :=
  let d := if cause = 5 then d.loadFault p tval 4 else d
  if (d.perch p).unhandled then d.perchFault p 1 cause 0 tval
  else d.updPerch p (fun v => v.trapEntry cause tval)

/-- Writes rd and moves past a 4-byte instruction. -/
def Perch.retire (v : Perch) (rd x : Nat) : Perch :=
  let k := v.core.sx 32 rd x
  { v with core := { k with pc := (k.pc + 4) % 2 ^ 32 }, stall := .none, minstret := v.minstret + 1, lastPc := v.core.pc }

/-- The same for a perch by number. -/
def Dev.seqRetire (d : Dev) (p rd x : Nat) : Dev := d.updPerch p (fun v => v.retire rd x)

/-- The sequencer stalls at the instruction. -/
def Dev.seqStall (d : Dev) (p : Nat) (s : Stall) : Dev := d.updPerch p (fun v => { v with stall := s })

/-- x register of a perch. -/
def Dev.seqX (d : Dev) (p r : Nat) : Nat := (d.perch p).core.gx r

/-- A partition is fence-managed (R299, R547). -/
def Dev.fenceManaged (d : Dev) (part : Nat) : Bool := !bit (d.charter.parts.getD part {}).flags 1

/-- Every DMA context of a perch is idle. -/
def Dev.dmaIdle (d : Dev) (p : Nat) : Bool := (List.range 8).all (fun c => !(d.ctxOf p c).busy)

/-- FENCE.SC (R297, R300). -/
def Dev.xFence (d : Dev) (p scope : Nat) : Dev :=
  let d := d.drainStores p
  if 1 ≤ scope ∧ !d.dmaIdle p then d.seqStall p (.fence scope)
  else
    let part := (d.perch p).part
    let d := if 2 ≤ scope ∧ d.fenceManaged part then d.chainDrop (perchDie p) (perchChain p) (fun _ q => q = part) (fun f => f.part = part) else d
    d.seqRetire p 0 0

/-- A counter's value. -/
def Dev.ctr (d : Dev) (p n : Nat) : Nat := KMap.get 0 (d.perch p).ctr n

/-- CWAIT with its threshold (R95). -/
def Dev.xCwait (d : Dev) (p ctr threshold rd : Nat) : Dev :=
  if threshold ≤ d.ctr p ctr then d.seqRetire p rd (d.ctr p ctr) else d.seqStall p (.cwait ctr threshold rd)

/-- COP (R90, R94): op 0 CREAD, 1 CSET, 2 CADD; `inc` hardware increments fall in the same cycle. -/
def Dev.xCop (d : Dev) (p op ctr operand rd inc : Nat) : Dev :=
  let old := d.ctr p ctr
  let d := d.updPerch p (fun v =>
    match op with
    | 0 => v.addCtr ctr inc
    | 1 => ({ v with ctr := KMap.set 0 v.ctr ctr (operand % 2 ^ 32) }).addCtr ctr inc
    | _ =>
      let t : Int := (old : Int) + toSigned 32 operand + (inc : Int)
      let c := if t < 0 then 0 else min t.toNat (2 ^ 32 - 1)
      { v with ctr := KMap.set 0 v.ctr ctr c, ctrSat := v.ctrSat || (0 < inc && decide (2 ^ 32 ≤ t)) })
  d.seqRetire p rd old

/-- DMAQ with its offset (R100, R291). -/
def Dev.xDmaq (d : Dev) (p ctx off rd : Nat) : Dev :=
  let d := d.drainStores p
  if off % 32 ≠ 0 then d.seqTrap p 4 off
  else if spadSize < off + 32 then d.seqTrap p 5 off
  else
    let size := dmaSize ((d.spadByte p off).1.toNat)
    if spadSize < off + size then d.seqTrap p 5 off
    else if anyPoison (d.spadRead p off size) then (d.loadFault p off size).seqTrap p 5 off
    else if 4 ≤ (d.ctxOf p ctx).queue.length then d.seqStall p (.dmaq ctx off rd)
    else
      let raw := fitTo 64 (plain (d.spadRead p off size))
      let t := ((d.ctxOf p ctx).tickets + 1) % 2 ^ 32
      (d.updCtx p ctx (fun x => { x with queue := x.queue ++ [{ raw := raw, off := off, ticket := t }], tickets := t, state := 1 })).seqRetire p rd t

/-- LANDED of a context (R125): of the active descriptor, or of the last that was aborted. -/
def DmaCtx.landedNow (c : DmaCtx) : Nat :=
  match c.queue with
  | x :: _ => if x.started then x.landed else c.landed
  | [] => c.landed

/-- PERCH_DMA_STATUS (R125). -/
def DmaCtx.status (c : DmaCtx) : Nat :=
  c.state * 2 ^ 61 + c.queue.length % 8 * 2 ^ 58 + c.done % 2 ^ 18 * 2 ^ 40 + c.landedNow % 2 ^ 40

/-- DMACTL ABORT (R109): the context aborts in any state and LANDED[31:0] goes to rd. -/
def Dev.xAbort (d : Dev) (p ctx rd : Nat) : Dev :=
  let d := if (d.ctxOf p ctx).busy then d.dmaAbort p ctx 2
    else
      let span := (d.perch p).spanId
      d.updCtx p ctx (fun x => { x with state := 0, landed := 0, logSpan := span, logCause := 2, logLanded := 0 })
  d.seqRetire p rd ((d.ctxOf p ctx).landed % 2 ^ 32)

/-- DMACTL WAITIDLE (R90). -/
def Dev.xWaitIdle (d : Dev) (p ctx rd : Nat) : Dev :=
  if (d.ctxOf p ctx).busy then d.seqStall p (.waitIdle ctx rd) else d.seqRetire p rd (d.ctxOf p ctx).done

/-- DMACTL STATUS (R90). -/
def Dev.xDmaStatus (d : Dev) (p ctx rd : Nat) : Dev := d.seqRetire p rd ((d.ctxOf p ctx).status % 2 ^ 32)

/-- SCOP SEND with its operands (R112). A source that leaves the scratchpad takes the illegal-instruction exception too (DESIGN CHOICE, assumption 85). -/
def Dev.xSend (d : Dev) (p word ep off len rd : Nat) : Dev :=
  let e := d.endp p ep
  if epRole e.cfg ≠ 1 ∨ 65536 < len ∨ len % 32 ≠ 0 ∨ epRingKib e.cfg * 1024 < len ∨ off % 32 ≠ 0 ∨ spadSize < off + len then d.seqTrap p 2 word
  else
    let d := d.drainStores p
    if 4 ≤ e.pending.length then d.seqStall p (.send ep off len rd)
    else (d.updEndp p ep (fun x => { x with pending := x.pending ++ [(off, len, 0)] })).seqRetire p rd 0

/-- The scratchpad offset of the oldest bytes of a receiver's ring that have not been returned. -/
def Endpoint.oldest (e : Endpoint) : Nat :=
  let size := max 1 (epRingKib e.cfg * 1024)
  epRingBase e.cfg * 1024 + (e.wpos + size - e.credits * 32 % size) % size

/-- SCOP ACK (R113). The scratchpad offset that a stream-channel error concerns (R123) is that of the oldest bytes not yet returned (DESIGN CHOICE, assumption
90). -/
def Dev.xAck (d : Dev) (p word ep count : Nat) : Dev :=
  let e := d.endp p ep
  if epRole e.cfg ≠ 2 then d.seqTrap p 2 word
  else if count % 32 ≠ 0 ∨ e.credits * 32 < count then d.perchFault p 5 ep 0 e.oldest
  else ((d.updEndp p ep (fun x => { x with credits := x.credits - count / 32 })).returnCredit p ep (count / 32)).seqRetire p 0 0

/-- PERCH_SCH_STATUS (R129). -/
def Endpoint.status (e : Endpoint) : Nat := e.bytes % 2 ^ 32 * 2 ^ 32 + e.credits % 2 ^ 16 * 2 ^ 16 + e.pending.length % 16 * 16

/-- SCOP STATUS (R113). -/
def Dev.xSchStatus (d : Dev) (p word ep rd : Nat) : Dev :=
  if epRole (d.endp p ep).cfg = 0 ∨ epRole (d.endp p ep).cfg = 3 then d.seqTrap p 2 word
  else d.seqRetire p rd ((d.endp p ep).status % 2 ^ 32)

/-- What an array instruction did at issue. -/
def Dev.applyIssue (d : Dev) (p word rd : Nat) : IssueRes → Dev
  | .trap c t => d.seqTrap p c t
  | .stall => d.seqStall p (.array word)
  | .ok a x => (d.updPerch p (fun v => { v with arr := a })).seqRetire p rd x

/-- MLD (R139, R291). -/
def Dev.xMld (d : Dev) (p fmt : Nat) (ws : Bool) (rs1 rs2 : Nat) : Dev :=
  let d := d.drainStores p
  let word := (XOp.mld fmt ws rs1 rs2).encode
  d.applyIssue p word 0 ((d.perch p).arr.issueMld word fmt ws (d.seqX p rs1) (d.seqX p rs2))

/-- A pass has been issued: the first word of its row mask is read with the descriptor (R151), and a pass without an unmasked row leaves the queue at once
(R142). -/
def Dev.issuedPass (d : Dev) (p rd x : Nat) : Dev :=
  match (d.perch p).arr.queue.getLast? with
  | none => d.seqRetire p rd x
  | some c =>
    match d.readMask p c 0 with
    | .error o => d.perchFault p 7 0 0 o
    | .ok c =>
      let none_ := d.noRow p c
      (d.updArr p (fun a =>
        if none_ then { a with queue := a.queue.dropLast, inflight := a.inflight ++ [{ c with next := c.rows }] }
        else { a with queue := a.queue.dropLast ++ [c] })).seqRetire p rd x

/-- MXM (R139, R291). -/
def Dev.xMxm (d : Dev) (p fmt : Nat) (acc zf sc : Bool) (rs1 rs2 rd : Nat) : Dev :=
  let d := d.drainStores p
  let word := (XOp.mxm fmt acc zf sc rs1 rs2 rd).encode
  let off := d.seqX p rs1
  let b := d.spadRead p off 32
  match (d.perch p).arr.issueMxm word fmt acc zf sc off (d.seqX p rs2) (if anyPoison b then none else some (plain b)) with
  | .ok a x => (d.updPerch p (fun v => { v with arr := a })).issuedPass p rd x
  | r => d.applyIssue p word rd r

/-- MWAIT (R143): every pass, or every load, issued before it has completed. -/
def Dev.xMwait (d : Dev) (p : Nat) (loads : Bool) (rd : Nat) : Dev :=
  let a := (d.perch p).arr
  let busy := if loads then a.queue.any (·.isLoad) else a.queue.any (fun c => !c.isLoad) || !a.inflight.isEmpty
  if busy then d.seqStall p (.mwait loads 0 rd) else d.seqRetire p rd a.stat

/-- A vector conversion (R181 to R188). -/
def Dev.xVx (d : Dev) (p kind : Nat) (f : VxFields) : Dev :=
  match vxExec (d.perch p).core kind f with
  | none => d.seqTrap p 2 (XOp.vx kind f).encode
  | some k => (d.updPerch p (fun v => { v with core := k })).seqRetire p 0 0

/-- Executes an Xperch operation. -/
def Dev.xExec (d : Dev) (p : Nat) (o : XOp) : Dev :=
  match o with
  | .spanend => d.complete p
  | .fenceSc scope => d.xFence p scope
  | .cwait ctr rs1 rd => d.xCwait p ctr (d.seqX p rs1) rd
  | .cop op ctr rs1 rd => d.xCop p op ctr (d.seqX p rs1) rd 0
  | .dmaq ctx rs1 rd => d.xDmaq p ctx (d.seqX p rs1) rd
  | .dmactl op ctx rd => if op = 0 then d.xDmaStatus p ctx rd else if op = 1 then d.xAbort p ctx rd else d.xWaitIdle p ctx rd
  | .scop op ep rs1 rs2 rd =>
    if op = 0 then d.xSend p o.encode ep (d.seqX p rs1) (d.seqX p rs2) rd
    else if op = 1 then d.xAck p o.encode ep (d.seqX p rs2)
    else d.xSchStatus p o.encode ep rd
  | .mld fmt ws rs1 rs2 => d.xMld p fmt ws rs1 rs2
  | .mxm fmt acc zf sc rs1 rs2 rd => d.xMxm p fmt acc zf sc rs1 rs2 rd
  | .mwait loads rd => d.xMwait p loads rd
  | .vx kind f => d.xVx p kind f

/-- What a fetch finds (R83): a trap, a fault of the image bytes, or the word. -/
inductive FetchRes where
  | trap (tval : Nat)
  | bad (addr : Nat)
  | word (w : Nat)
  deriving DecidableEq, Repr

/-- Ways of a set of the instruction cache and its sets: 32 KiB, 4 ways (R79), lines of 128 B (assumption 62). -/
def icWays : Nat := 4

/-- Sets of the instruction cache. -/
def icSets : Nat := 64

/-- Puts a line of the image into the instruction cache; in a full set it takes the place of a line that the spec does not name (assumption 62). -/
def Dev.icInstall (d : Dev) (p line : Nat) (b : List PByte) : Dev :=
  let same := (d.perch p).icache.filter (fun e => e.1 % icSets = line % icSets)
  if same.length < icWays then d.updPerch p (fun v => { v with icache := v.icache ++ [(line, b)] })
  else
    let (w, d) := d.free
    let out := (same.getD (w % icWays) (0, [])).1
    d.updPerch p (fun v => { v with icache := v.icache.filter (fun e => e.1 ≠ out) ++ [(line, b)] })

/-- The line of the image that holds byte `o`, from the instruction cache, or through the chain cache into it (R83): none after an access error. -/
def Dev.icLine (d : Dev) (p o : Nat) : Option (List PByte) × Dev :=
  match (d.perch p).icache.find? (fun e => e.1 = o / 128) with
  | some e => (some e.2, d)
  | none =>
    let at_ := alignDown o 128
    let r := d.imageRead p at_ (min 128 (d.imageSize p - at_))
    if r.2.1 then (none, r.2.2) else (some r.1, r.2.2.icInstall p (o / 128) r.1)

/-- Fetches two bytes of the image: none where they come poisoned or with an access error. -/
def Dev.fetchHalf (d : Dev) (p o : Nat) : Option Nat × Dev :=
  match d.icLine p o with
  | (none, d) => (none, d)
  | (some b, d) =>
    let h := (b.drop (o % 128)).take 2
    (if anyPoison h then none else some (leNat (plain h)), d)

/-- Fetches at the pc of a perch (R83, R332). -/
def Dev.seqFetch (d : Dev) (p : Nat) : FetchRes × Dev :=
  let inside := fun (a : Nat) => 0x80000000 ≤ a && a + 2 ≤ 0x80000000 + d.imageSize p
  let pc := (d.perch p).core.pc
  if !inside pc then (.trap pc, d)
  else match d.fetchHalf p (pc - 0x80000000) with
    | (none, d) => (.bad pc, d)
    | (some lo, d) =>
      if lo % 4 ≠ 3 then (.word lo, d)
      else if !inside (pc + 2) then (.trap (pc + 2), d)
      else match d.fetchHalf p (pc + 2 - 0x80000000) with
        | (none, d) => (.bad (pc + 2), d)
        | (some hi, d) => (.word (lo + 65536 * hi), d)

/-- Executes a RISC-V instruction of the sequencer (R81); system instructions are the sequencer's own. -/
def Dev.seqRv (d : Dev) (p word len : Nat) (i : RvInst) : Dev :=
  let pc := (d.perch p).core.pc
  let count := fun (v : Perch) => { v with minstret := v.minstret + 1, lastPc := pc }
  let step := fun (d : Dev) => d.updPerch p (fun v => count { v with core := { v.core with pc := (v.core.pc + len) % 2 ^ 32 } })
  match (perchBus p).exec d word len i with
  | some (.ok d) => d.updPerch p count
  | some (.trap d c t) => d.seqTrap p c t
  | none =>
    match i with
    | .fence .. => step (d.drainStores p)
    | .wfi => step d
    | .ecall => d.seqTrap p 11 0
    | .ebreak => d.seqTrap p 3 (d.perch p).core.pc
    | .mret => d.updPerch p (fun v => count v.mretExit)
    | .custom _ w =>
      (match xDecode w with
        | some o => d.xExec p o
        | none => d.seqTrap p 2 w)
    | _ => d.seqTrap p 2 word

/-- One instruction from the kernel window (R83, R89): an invalid encoding traps, bytes that come back bad fault the perch. -/
def Dev.seqOne (d : Dev) (p : Nat) : Dev :=
  match d.seqFetch p with
  | (.trap t, d) => d.seqTrap p 1 t
  | (.bad a, d) => d.perchFault p 6 0 0 a
  | (.word w, d) =>
    match rvFetchDecode false w with
    | (some i, len) => d.seqRv p w len i
    | (none, len) => d.seqTrap p 2 (if len = 2 then w % 65536 else w)

/-- The stalled instruction is tried again. -/
def Dev.seqRetry (d : Dev) (p : Nat) : Dev :=
  match (d.perch p).stall with
  | .none => d
  | .cwait ctr t rd => d.xCwait p ctr t rd
  | .dmaq ctx off rd => d.xDmaq p ctx off rd
  | .waitIdle ctx rd => d.xWaitIdle p ctx rd
  | .send ep off len rd => d.xSend p 0 ep off len rd
  | .array w =>
    (match xDecode w with
      | some o => d.xExec p o
      | none => d)
  | .mwait loads _ rd => d.xMwait p loads rd
  | .fence scope => d.xFence p scope

/-- The sequencer of a perch can execute: a span runs and may go on, and no instruction is stalled. -/
def Dev.seqReady (d : Dev) (p : Nat) : Bool := d.runs? p && d.inTime p && decide ((d.perch p).stall = .none)

/-- A span-end instruction retires before the timer reaches zero, or in the cycle in which it does (R58, R63). -/
def Dev.mayEnd (d : Dev) (p : Nat) : Bool :=
  d.seqReady p || (d.runs? p && decide ((d.perch p).stall = .none) && decide ((d.perch p).remaining = 0) && !(d.perch p).expired)

/-- SEQ_INSTRUCTION: one instruction, or the stalled one again. -/
def Dev.seqStep (d : Dev) (p : Nat) : Dev :=
  if !d.runs? p || !d.inTime p then d else if (d.perch p).stall = .none then d.seqOne p else d.seqRetry p

/-- Time in ns until the tick unit must wake a perch: its next START_NS less 20 µs, over the patterns to come; none where no span uses it (R88). -/
def Dev.wakeLeft (d : Dev) (p : Nat) : Option Int :=
  let s := d.sched
  (List.range (s.patterns.length + 1)).foldl (fun acc k =>
    match acc with
    | some _ => acc
    | none =>
      match (s.entriesAt (d.tick + k)).find? (fun e => bit (d.groupMap e) p && (0 < k || d.elapsed < e.startNs)) with
      | some e => some ((k * s.period * 1000 + e.startNs : Nat) - (d.elapsed : Int) - 20000)
      | none => none) none

/-- The four conditions under which a perch may power down (R88). -/
def Dev.perchDrained (d : Dev) (p : Nat) : Bool :=
  let v := d.perch p
  v.storeBuf.isEmpty && d.dmaIdle p && (List.range 32).all (fun e => (d.endp p e).transit.isEmpty && (d.endp p e).pending.isEmpty)
    && v.arr.queue.isEmpty && v.arr.inflight.isEmpty

/-- The scratchpad of a perch loses its contents and reads as zero (R88). -/
def Dev.clearSpad (d : Dev) (p : Nat) : Dev :=
  { d with mem := KMap.dropIf (fun a => spadBase p ≤ a && a < spadSize + spadBase p) d.mem,
           spadPoison := KMap.dropIf (fun w => spadBase p / 8 ≤ w && w < (spadSize + spadBase p) / 8) d.spadPoison }

/-- What a perch keeps while it is OFF: its fault record (R122) and the abort logs of its contexts (R126). -/
def Perch.off (v : Perch) : Perch :=
  { faultCause := v.faultCause, faultDetail := v.faultDetail, faultCtx := v.faultCtx, faultPc := v.faultPc, faultAddr := v.faultAddr,
    ctx := KMap.mapV {} (fun _ (c : DmaCtx) => { landed := c.landed, logSpan := c.logSpan, logCause := c.logCause, logLanded := c.logLanded }) v.ctx }

/-- The schedule in force has the perch in a group of a pattern. -/
def Dev.perchUsed (d : Dev) (p : Nat) : Bool := d.sched.spans.any (fun e => bit (d.groupMap e) p)

/-- A perch that the schedule in force leaves in no group of any pattern is OFF once the four conditions hold (R88). -/
def Dev.perchOff (d : Dev) (p : Nat) : Dev :=
  let s := (d.perch p).pstate
  if (s = 1 ∨ s = 2) ∧ !d.perchUsed p ∧ d.perchDrained p then (d.clearSpad p).updPerch p Perch.off else d

/-- PERCH_GATE (R88, R169). -/
def Dev.perchGate (d : Dev) (p : Nat) : Dev :=
  let us := d.rd 0 Reg.PWR_CTRL.GATE_US
  let long : Bool := match d.wakeLeft p with
    | some t => ((us * 1000 : Nat) : Int) < t
    | none => true
  if !d.perchUsed p then d.perchOff p
  else if (d.perch p).pstate = 2 ∧ us ≠ 0 ∧ d.perchDrained p ∧ long then
    d.updPerch p (fun v => { v with pstate := 1, arr := { v.arr with activity := 0, ramp := false, window := false } })
  else d

/-- PERCH_WAKE (R88): a gated perch, or one that is off, is idle; its array wakes to 0 % activity (R169). The tick unit wakes no perch that no span uses. -/
def Dev.perchWake (d : Dev) (p : Nat) : Dev :=
  let idle := fun (v : Perch) => { v with pstate := 2, arr := { v.arr with activity := 0, ramp := false, window := false } }
  if !d.perchUsed p then d
  else if (d.perch p).pstate = 0 then (d.clearSpad p).updPerch p idle
  else if (d.perch p).pstate = 1 then d.updPerch p idle
  else d

/-- An edge between the dies of two perches carries nothing (R36). -/
def Dev.channelCut (d : Dev) (p q : Nat) : Bool := (d.route (perchDie p) (perchDie q)).any d.edgeCut

/-- Moves as much of a sender's oldest queued message as its credit allows (R112), where its partner's perch works and the way to it is whole; `whole` says whether the end of the message may
move. -/
def Dev.channelMove (d : Dev) (p e : Nat) (whole : Bool) : Dev :=
  let ep := d.endp p e
  match ep.pending, d.partner p e with
  | (off, len, moved) :: t, some (q, f) =>
    let n := min (len - moved) (ep.credits * 32)
    let last := decide (n = len - moved)
    if !d.powered p ∨ d.channelCut p q ∨ epRole ep.cfg ≠ 1 ∨ (last ∧ !whole) ∨ (n = 0 ∧ !last) then d
    else
      let msg := d.spadRead p (off + moved) n
      let d := d.updEndp p e (fun x => { x with pending := if last then t else (off, len, moved + n) :: t, credits := x.credits - n / 32,
                                                bytes := (x.bytes + n) % 2 ^ 32 })
      let d := d.updEndp q f (fun x => { x with transit := x.transit ++ [(msg, last)] })
      if last then d.ctrInc p (epCtr ep.cfg) else d
  | _, _ => d

/-- CHANNEL_SOURCE_RELEASE (R112): the last byte of a sender's oldest queued message leaves its scratchpad where there is credit for it; else what there is credit for. -/
def Dev.sourceRelease (d : Dev) (p e : Nat) : Dev := d.channelMove p e true

/-- CHANNEL_MESSAGE_ARRIVAL (R112). -/
def Dev.messageArrival (d : Dev) (p e : Nat) : Dev := if d.powered p then d.messageArrive p e else d

/-- CHANNEL_CREDIT_ARRIVAL (R111, R112): credit on its way reaches the sender, and queued data moves. -/
def Dev.creditArrival (d : Dev) (p e : Nat) : Dev :=
  if d.channelCut (epPeer (d.endp p e).cfg) p then d
  else (d.updEndp p e (fun x => { x with credits := x.credits + x.creditIn, creditIn := 0 })).channelMove p e false

end Sys2Proof.Machine
end

