-- ==== Sys2Proof/Machine/SpanCmds.lean ====
section
/-! DEFINITION. The commands of the span schedule and of a perch's power states and traps (02 and 03 of the spec). -/

namespace Sys2Proof.Machine

/-- The perch exists on the part and its die has not failed. -/
def Dev.perchOk (d : Dev) (p : Nat) : Bool := p < d.perchCount && !d.dieFailed (perchDie p)

/-- Spans are dispatched (R47, R70). -/
def Dev.dispatching (d : Dev) : Bool := d.rd 0 Reg.TICK_STATUS.DISPATCHING = 1

/-- The perch has started this span in this tick already. -/
def Dev.startedNow (d : Dev) (p : Nat) (e : SpanEntry) : Bool := KMap.get 0 d.spanStarts (p * 65536 + e.spanId) = d.tick + 1

/-- An entry that runs nothing gets its record (R55). -/
def Dev.skipSpan (d : Dev) (e : SpanEntry) (g : Nat) : Dev :=
  let i := d.span e.spanId
  if i.dispatched ∧ i.tick = d.tick ∧ i.outcome = ocSkipped then d
  else
    d.setSpan e.spanId { dispatched := true, tick := d.tick, dispatch := 0, perches := groupSizeOf g, opp := d.opp, entry := e.spanId, outcome := ocSkipped,
                         recordDue := true }

/-- Starts a span on a perch at its START_NS, or skips the entry (R55, R56); `src` brings what a read-back gets from outside the package. -/
def Dev.spanStart (d : Dev) (span : Nat) (src : PerchStart) : Dev :=
  let p := src.perch
  match d.entryOf span with
  | none => d
  | some e =>
    let g := d.groupMap e
    if !d.dispatching then d
    else if d.skips e g then (d.toTime e.startNs).skipSpan e g
    else if !d.perchOk p ∨ !bit g p ∨ (d.perch p).pstate ≠ 2 ∨ d.startedNow p e then d
    else
      let d := { d with spanStarts := KMap.set 0 d.spanStarts (p * 65536 + e.spanId) (d.tick + 1) }
      (d.toTime e.startNs).startSpan p e g src

/-- A late start is counted once per perch and tick (R57, R67). -/
def Dev.countLate (d : Dev) (p : Nat) : Dev :=
  if KMap.get 0 d.lateIn p = d.tick + 1 then d
  else
    let d := { d with lateIn := KMap.set 0 d.lateIn p (d.tick + 1) }
    let d := d.inc (perchDie p) Reg.TICK_OVERRUN_CNT.LATE 1
    if d.rd (perchDie p) Reg.TICK_IRQ.LATE_EN = 1 then { d with overrunDue := true } else d

/-- SPAN_START. -/
def execSpanStart (span : Nat) (perch : PerchStart) (s : State) : Host.Outcome State Fault Refusal := s.onDev (fun d => d.spanStart span perch)

/-- SPAN_LATE_START (R57): the perch is free only after START_NS. -/
def execSpanLateStart (span : Nat) (perch : PerchStart) (s : State) : Host.Outcome State Fault Refusal :=
  s.onDev (fun d =>
    match d.entryOf span with
    | none => d
    | some e =>
      let g := d.groupMap e
      if d.dispatching && !d.skips e g && d.perchOk perch.perch && bit g perch.perch && decide ((d.perch perch.perch).pstate = 2) && !d.startedNow perch.perch e then
        ((d.toTime (e.startNs + 1)).countLate perch.perch).spanStart span perch
      else d)

/-- SPANEND. -/
def execSpanend (perch : Nat) (s : State) : Host.Outcome State Fault Refusal :=
  s.onDev (fun d => if d.mayEnd perch then d.xExec perch .spanend else d)

/-- BUDGET_EXPIRY (R58, R59, R60, R61): the span of a perch that still runs ends at the time of its expiry, unless its displacement comes first. -/
def execBudgetExpiry (perch : Nat) (s : State) : Host.Outcome State Fault Refusal :=
  s.onDev (fun d => if d.runs? perch then d.spanEnds perch else d)

/-- DISPLACEMENT (R58, R63): the span ends at the time of its displacement, unless its budget expires no later. -/
def execDisplacement (perch : Nat) (s : State) : Host.Outcome State Fault Refusal :=
  s.onDev (fun d => if d.runs? perch then d.spanEnds perch else d)

/-- SPAN_STATUS_RECORD. -/
def execSpanStatusRecord (span : Nat) (s : State) : Host.Outcome State Fault Refusal := s.onDev (fun d => d.statusRecord span)

/-- SPAN_WARNING (R116): the remaining count falls to pspanwarn. -/
def execSpanWarning (perch : Nat) (s : State) : Host.Outcome State Fault Refusal :=
  s.onDev (fun d =>
    let v := d.perch perch
    let d' := d.passNs (d.cyclesNs (v.remaining - v.warn))
    if d.runs? perch ∧ v.warn ≠ 0 ∧ v.warn < v.remaining ∧ !d'.displaced perch then
      d'.updPerch perch (fun w => { w with remaining := v.warn, expired := v.expired, mip := w.mip ||| mipWarn })
    else d)

/-- PERCH_GATE. -/
def execPerchGate (perch : Nat) (s : State) : Host.Outcome State Fault Refusal := s.onDev (fun d => if d.perchOk perch then d.perchGate perch else d)

/-- PERCH_WAKE. -/
def execPerchWake (perch : Nat) (s : State) : Host.Outcome State Fault Refusal := s.onDev (fun d => if d.perchOk perch then d.perchWake perch else d)

/-- The ECC findings of what a running perch reads (R99, R222): its scratchpad, and memory through its chain cache. -/
def Dev.perchFound (d : Dev) (p : Nat) (ecc : Ecc) : Dev := if d.runs? p then d.found (some (perchDie p, perchChain p)) ecc else d

/-- SEQ_INSTRUCTION; `ecc` says what the ECC finds in what the instruction reads. -/
def execSeqInstruction (perch : Nat) (ecc : Ecc) (s : State) : Host.Outcome State Fault Refusal :=
  s.onDev (fun d => (d.perchFound perch ecc).seqStep perch)

/-- PERCH_TRAP (R85, R91): an exception, or the warning interrupt where it is pending and enabled. -/
def execPerchTrap (perch : Nat) (cause tval : W32) (s : State) : Host.Outcome State Fault Refusal :=
  s.onDev (fun d =>
    let v := d.perch perch
    let taken := if 2 ^ 31 ≤ cause.toNat then bit v.mstatus 3 && bit v.mie 16 && bit v.mip 16 && decide (cause.toNat = 0x80000010) else true
    if d.runs? perch && d.inTime perch && taken then d.seqTrap perch cause.toNat tval.toNat else d)

/-- PERCH_MRET (R85). -/
def execPerchMret (perch : Nat) (s : State) : Host.Outcome State Fault Refusal :=
  s.onDev (fun d => if d.seqReady perch then d.updPerch perch (fun v => { v.mretExit with minstret := v.minstret + 1, lastPc := v.core.pc }) else d)

/-- PSPANWARN_WRITE (R116). -/
def execPspanwarnWrite (perch : Nat) (value : W32) (s : State) : Host.Outcome State Fault Refusal :=
  s.onDev (fun d => if d.runs? perch && d.inTime perch then d.updPerch perch (fun v => v.setWarn value.toNat) else d)

end Sys2Proof.Machine
end

