-- ==== Sys2Proof/Machine/XperchCmds.lean ====
section
/-! DEFINITION. The commands of Xperch instructions, counters, DMA contexts and stream channels (03 of the spec). -/

namespace Sys2Proof.Machine

/-- Executes an Xperch operation on a perch whose sequencer can execute; its operands fit their fields. -/
def Dev.issueX (d : Dev) (p : Nat) (o : XOp) : Dev := if d.seqReady p && o.wf then d.xExec p o else d

/-- PERCH_FENCE_SC (R297). -/
def execPerchFenceSc (perch scope : Nat) (s : State) : Host.Outcome State Fault Refusal := s.onDev (fun d => d.issueX perch (.fenceSc scope))

/-- CWAIT (R95). -/
def execCwait (perch ctr rs1 rd : Nat) (s : State) : Host.Outcome State Fault Refusal := s.onDev (fun d => d.issueX perch (.cwait ctr rs1 rd))

/-- CWAIT_SATISFIED (R95): the counter has reached the threshold. -/
def execCwaitSatisfied (perch : Nat) (s : State) : Host.Outcome State Fault Refusal :=
  s.onDev (fun d =>
    match (d.perch perch).stall with
    | .cwait ctr t rd => if d.runs? perch && d.inTime perch && decide (t ≤ d.ctr perch ctr) then d.xCwait perch ctr t rd else d
    | _ => d)

/-- A COP with hardware increments in the same cycle (R94). -/
def Dev.issueCop (d : Dev) (p op ctr rs1 rd inc : Nat) : Dev :=
  if d.seqReady p && (XOp.cop op ctr rs1 rd).wf then d.xCop p op ctr (d.seqX p rs1) rd inc else d

/-- CREAD. -/
def execCread (perch ctr rd inc : Nat) (s : State) : Host.Outcome State Fault Refusal := s.onDev (fun d => d.issueCop perch 0 ctr 0 rd inc)

/-- CSET. -/
def execCset (perch ctr rs1 rd inc : Nat) (s : State) : Host.Outcome State Fault Refusal := s.onDev (fun d => d.issueCop perch 1 ctr rs1 rd inc)

/-- CADD. -/
def execCadd (perch ctr rs1 rd inc : Nat) (s : State) : Host.Outcome State Fault Refusal := s.onDev (fun d => d.issueCop perch 2 ctr rs1 rd inc)

/-- DMAQ. -/
def execDmaq (perch ctx rs1 rd : Nat) (s : State) : Host.Outcome State Fault Refusal := s.onDev (fun d => d.issueX perch (.dmaq ctx rs1 rd))

/-- DMACTL STATUS. -/
def execDmactlStatus (perch ctx rd : Nat) (s : State) : Host.Outcome State Fault Refusal := s.onDev (fun d => d.issueX perch (.dmactl 0 ctx rd))

/-- DMACTL ABORT. -/
def execDmactlAbort (perch ctx rd : Nat) (s : State) : Host.Outcome State Fault Refusal := s.onDev (fun d => d.issueX perch (.dmactl 1 ctx rd))

/-- DMACTL WAITIDLE. -/
def execDmactlWaitidle (perch ctx rd : Nat) (s : State) : Host.Outcome State Fault Refusal := s.onDev (fun d => d.issueX perch (.dmactl 2 ctx rd))

/-- DMA_DESCRIPTOR_START; `ecc` says what the ECC finds in the source. -/
def execDmaDescriptorStart (perch ctx : Nat) (ext : Ext) (ecc : Ecc) (s : State) : Host.Outcome State Fault Refusal :=
  s.onDev (fun d => (d.perchFound perch ecc).descriptorStart perch ctx ext)

/-- DMA_DESCRIPTOR_COMPLETE. -/
def execDmaDescriptorComplete (perch ctx : Nat) (s : State) : Host.Outcome State Fault Refusal := s.onDev (fun d => d.descriptorComplete perch ctx)

/-- ARRIVAL_INCREMENT. -/
def execArrivalIncrement (perch ctx : Nat) (s : State) : Host.Outcome State Fault Refusal := s.onDev (fun d => d.arrivalIncrement perch ctx)

/-- SCOP SEND. -/
def execScopSend (perch ep rs1 rs2 rd : Nat) (s : State) : Host.Outcome State Fault Refusal := s.onDev (fun d => d.issueX perch (.scop 0 ep rs1 rs2 rd))

/-- SCOP ACK. -/
def execScopAck (perch ep rs2 rd : Nat) (s : State) : Host.Outcome State Fault Refusal := s.onDev (fun d => d.issueX perch (.scop 1 ep 0 rs2 rd))

/-- SCOP STATUS. -/
def execScopStatus (perch ep rd : Nat) (s : State) : Host.Outcome State Fault Refusal := s.onDev (fun d => d.issueX perch (.scop 2 ep 0 0 rd))

/-- CHANNEL_MESSAGE_ARRIVAL. -/
def execChannelMessageArrival (perch ep : Nat) (s : State) : Host.Outcome State Fault Refusal := s.onDev (fun d => d.messageArrival perch ep)

/-- CHANNEL_SOURCE_RELEASE. -/
def execChannelSourceRelease (perch ep : Nat) (s : State) : Host.Outcome State Fault Refusal := s.onDev (fun d => d.sourceRelease perch ep)

/-- CHANNEL_CREDIT_ARRIVAL. -/
def execChannelCreditArrival (perch ep : Nat) (s : State) : Host.Outcome State Fault Refusal := s.onDev (fun d => d.creditArrival perch ep)

end Sys2Proof.Machine
end

