-- ==== Sys2Proof/Machine/ArrayCmds.lean ====
section
/-! DEFINITION. The commands of the matrix array (04 of the spec) and of the vector conversions (05). -/

namespace Sys2Proof.Machine

/-- MLD. -/
def execMld (perch fmt : Nat) (wscaled : Bool) (rs1 rs2 : Nat) (s : State) : Host.Outcome State Fault Refusal :=
  s.onDev (fun d => d.issueX perch (.mld fmt wscaled rs1 rs2))

/-- MXM. -/
def execMxm (perch fmt : Nat) (acc zfill scaled : Bool) (rs1 rs2 rd : Nat) (s : State) : Host.Outcome State Fault Refusal :=
  s.onDev (fun d => d.issueX perch (.mxm fmt acc zfill scaled rs1 rs2 rd))

/-- MWAIT 0. -/
def execMwaitPasses (perch rd : Nat) (s : State) : Host.Outcome State Fault Refusal := s.onDev (fun d => d.issueX perch (.mwait false rd))

/-- MWAIT 1. -/
def execMwaitLoads (perch rd : Nat) (s : State) : Host.Outcome State Fault Refusal := s.onDev (fun d => d.issueX perch (.mwait true rd))

/-- ARRAY_LOAD_START. -/
def execArrayLoadStart (perch : Nat) (s : State) : Host.Outcome State Fault Refusal := s.onDev (fun d => d.arrayLoad perch)

/-- ARRAY_PASS_START. -/
def execArrayPassStart (perch : Nat) (stallCycles : PassFeed) (s : State) : Host.Outcome State Fault Refusal := s.onDev (fun d => d.arrayPass perch stallCycles)

/-- ARRAY_PASS_COMPLETE. -/
def execArrayPassComplete (perch : Nat) (s : State) : Host.Outcome State Fault Refusal := s.onDev (fun d => d.passComplete perch)

/-- A change of a perch's array under the keeper policy, while the perch has power. -/
def Dev.keeperStep (d : Dev) (p : Nat) (f : Arr → Arr) : Dev :=
  if d.keeper && decide (2 ≤ (d.perch p).pstate) then d.updPerch p (fun v => { v with arr := f v.arr }) else d

/-- KEEPER_WINDOW_EXPIRY. -/
def execKeeperWindowExpiry (perch : Nat) (s : State) : Host.Outcome State Fault Refusal := s.onDev (fun d => d.keeperStep perch Arr.windowEnd)

/-- ARRAY_RAMP_DOWN_STEP. -/
def execArrayRampDownStep (perch : Nat) (s : State) : Host.Outcome State Fault Refusal := s.onDev (fun d => d.keeperStep perch Arr.rampDown)

/-- ARRAY_RAMP_UP_STEP. -/
def execArrayRampUpStep (perch : Nat) (s : State) : Host.Outcome State Fault Refusal := s.onDev (fun d => d.keeperStep perch (Arr.rampUp (decide ((d.perch perch).pstate = 2))))

/-- VXNCVT. -/
def execVxncvt (perch : Nat) (f : VxFields) (s : State) : Host.Outcome State Fault Refusal := s.onDev (fun d => d.issueX perch (.vx 0 f))

/-- VXNCVTS. -/
def execVxncvts (perch : Nat) (f : VxFields) (s : State) : Host.Outcome State Fault Refusal := s.onDev (fun d => d.issueX perch (.vx 1 f))

/-- VXWCVT. -/
def execVxwcvt (perch : Nat) (f : VxFields) (s : State) : Host.Outcome State Fault Refusal := s.onDev (fun d => d.issueX perch (.vx 2 f))

/-- VXWCVTS. -/
def execVxwcvts (perch : Nat) (f : VxFields) (s : State) : Host.Outcome State Fault Refusal := s.onDev (fun d => d.issueX perch (.vx 3 f))

/-- VXMAXSC. -/
def execVxmaxsc (perch : Nat) (f : VxFields) (s : State) : Host.Outcome State Fault Refusal := s.onDev (fun d => d.issueX perch (.vx 4 f))

end Sys2Proof.Machine
end

