-- ==== Sys2Proof/Machine/StewCache.lean ====
section
/-! DEFINITION. The caches of the steward dies (R211, R212, R241, R306, R470): the system cache of each die and the L1 and L2 caches of its cores say which
lines the die holds, and one coherent copy of each line holds its data. -/

namespace Sys2Proof.Machine

/-- A line that has left a cache of a steward die leaves the die where no other cache of it holds the line: a modified copy goes to its home (R306). -/
def Dev.stewLeave (d : Dev) (die line : Nat) : Dev :=
  if d.stewHas die line then d
  else
    let l := d.stewLine die line
    let d := { d with stew := KMap.set {} d.stew (stewKey die line) {} }
    if l.valid && l.dirty then (d.stewBack line l).settle else d

/-- A line enters a steward die's system cache where the partition may allocate (R213); the line that it replaces may leave the die. -/
def Dev.stewFill (d : Dev) (die line part : Nat) : Dev :=
  match (d.sysc die).fill (stewSet line) (d.sysElig die part) { valid := true, tag := line, part := part } with
  | none => d
  | some (old, c) =>
    let d := d.setSysc die c
    if old.valid then d.stewLeave die old.tag else d

/-- A line that L2 of a core gives up leaves its L1s too; a modified one goes on to the system cache of the die where its partition may allocate there, else to its
home (DESIGN CHOICE, assumption 51). -/
def Dev.coreLeave (d : Dev) (h line : Nat) : Dev :=
  let d := d.coreDrop (fun k => k = h) line
  let l := d.stewLine (h / 64) line
  (if l.dirty && !d.stewHas (h / 64) line then d.stewFill (h / 64) line l.part else d).stewLeave (h / 64) line

/-- L1 and L2 of a core are written back and invalidated (R479). -/
def Dev.coreOff (d : Dev) (h : Nat) : Dev := ((d.core h 2).lines.map (·.2)).foldl (fun (d : Dev) c => if c.valid then d.coreLeave h c.tag else d) d

/-- A line enters a cache of a core; L2 holds every line of both L1s (R470). -/
def Dev.coreFill (d : Dev) (h kind line : Nat) : Dev :=
  match (d.core h kind).fill (coreSet kind line) (coreWays kind) { valid := true, tag := line } with
  | none => d
  | some (old, c) =>
    let d := d.setCore h kind c
    if old.valid ∧ kind = 2 then d.coreLeave h old.tag else d

/-- A core's access to a line that its die holds passes its L1, its L2 and the system cache, as far as it misses (R221, R470). `kind` is the L1: 0 instruction,
1 data. -/
def Dev.coreTouch (d : Dev) (h kind line part : Nat) : Dev :=
  let die := h / 64
  let l1 := d.core h kind
  match l1.find (coreSet kind line) line with
  | some w => d.setCore h kind (l1.touch (coreSet kind line) w)
  | none =>
    let l2 := d.core h 2
    let d := match l2.find (coreSet 2 line) line with
      | some w => d.setCore h 2 (l2.touch (coreSet 2 line) w)
      | none =>
        let s := d.sysc die
        let d := match s.find (stewSet line) line with
          | some w => d.setSysc die (s.touch (stewSet line) w)
          | none => d.stewFill die line part
        d.coreFill h 2 line
    d.coreFill h kind line

/-- The directory set of a stacked line at its home (R211): 16,384 entries of a slice, taken as 64 for each set of the slice's cache (DESIGN CHOICE, assumption
51). None for a fathom line, whose directory has no stated size (R241). -/
def Dev.dirSet (d : Dev) (line : Nat) : Option (Nat × Nat) :=
  match d.region (line * 128) with
  | .stacked => let (idx, da) := d.stackedPlace (line * 128); some (idx, sysSet da)
  | _ => none

/-- The directory of a line's home makes room for an entry (R211): where its set is full, the copies that one entry names are invalidated first. Which entry goes
is not stated; the model takes that of the lowest line (DESIGN CHOICE, assumption 51). -/
def Dev.dirRoom (d : Dev) (line : Nat) : Dev :=
  match d.dirSet line with
  | none => d
  | some s =>
    let mine := (d.stew.map (fun e => e.1 % 2 ^ 48)).filter (fun l => l ≠ line && d.dirSet l = some s)
    let once := mine.foldl (fun (l : List Nat) x => if l.contains x then l else l ++ [x]) []
    match once with
    | x :: _ => if 64 ≤ once.length then (d.recallDrop x).settle else d
    | [] => d

/-- The die's copy of a line, brought from its home where the die has none (R211, R306), for an access of a core. `kind` is the L1 that it goes through. -/
def Dev.stewFetch (d : Dev) (h kind : Nat) (q : Rq) (line : Nat) : StewardLine × Dev :=
  let l := d.stewLine (h / 64) line
  if l.valid then (l, d.coreTouch h kind line q.part)
  else
    let (v, d) := (d.dirRoom line).homeReadSeg q line 0 128
    let l : StewardLine := { valid := true, data := lineOf (v.map (·.1)), dirty := false, poison := viewPoison v, part := q.part }
    (l, { d with stew := KMap.set {} d.stew (stewKey (h / 64) line) l }.coreTouch h kind line q.part)

/-- Clears the reservations of the other cores on a line (R310). -/
def Dev.clearResvOf (d : Dev) (h line : Nat) : Dev :=
  { d with harts := KMap.mapV {} (fun k t => if k ≠ h ∧ t.resv = some line then { t with resv := none, deferring := false } else t) d.harts }

/-- A core holds a line with ownership (R306, R310): the die's copy, and no other die's or core's. -/
def Dev.stewOwn (d : Dev) (h : Nat) (q : Rq) (line : Nat) : StewardLine × Dev :=
  let (l, d) := d.stewFetch h 1 q line
  (l, (d.stewDrop (1 - h / 64) line).coreDrop (fun k => k ≠ h) line)

/-- A store in the die's copy of a line, which no other core holds then (R306). -/
def Dev.stewStore (d : Dev) (h : Nat) (q : Rq) (line off : Nat) (v : List PByte) : Dev :=
  let (l, d) := d.stewOwn h q line
  let w := overlayLine (lineView l.data l.poison) (linePatch off v)
  let d := d.clearResvOf h line
  { d with stew := KMap.set {} d.stew (stewKey (h / 64) line)
                    { valid := true, data := lineOf (w.map (·.1)), dirty := true, poison := viewPoison w, part := q.part } }

end Sys2Proof.Machine
end

