-- ==== Sys2Proof/Machine/HomeCmds.lean ====
section
/-! DEFINITION. The commands at the homes of memory: writes, reads, atomics, the write-combining buffers, fills, ways and the scrub (06, 07, 17). -/

namespace Sys2Proof.Machine

/-- The requester of a home command. -/
def Dev.homeRq (d : Dev) (r : HomeReq) : Rq :=
  { part := r.part, unit := r.unit, req := r.req, die := d.unitDie r.unit r.die, noAlloc := r.noAlloc, exempt := r.exempt }

/-- A stacked or fathom address: these have homes with budgets (R263). -/
def Dev.hasHome (d : Dev) (pa : Nat) : Bool :=
  match d.region pa with
  | .stacked | .fathom => true
  | _ => false

/-- A home admits a request of a partition now (R264, R658): its charge is below the budget, or the request is exempt or to a device page. -/
def Dev.admits (d : Dev) (r : HomeReq) : Bool :=
  r.exempt || d.ownerOf (d.pageIndex r.pa) = 0xFE || d.charged (d.homeDie r.pa) r.part < d.budget (d.homeDie r.pa) r.part * 4096

/-- Serves a request at its home. -/
def Dev.homeServe (d : Dev) (r : HomeReq) (op : HeldOp) : Dev :=
  let q := d.homeRq r
  match op with
  | .write data poison => (d.writePa q r.pa (marked poison data)).2
  | .read n =>
    let (b, _, d) := d.readPa q r.pa n
    d.emit (.homeData (plain b) (anyPoison b))
  | .atomic op width operand compare =>
    let (b, d) := d.homeAmo q r.pa width (amoOfNat op) operand compare
    d.emit (.homeData (plain b) (anyPoison b))

/-- A request reaches its home: refused (R26, R266), held until the next boundary (R264) or until a core yields the line (R310), or served. -/
def Dev.homeRequest (d : Dev) (r : HomeReq) (op : HeldOp) : Dev :=
  let q := d.homeRq r
  if !d.hasHome r.pa then
    let d := d.accErr q.die 3 q r.pa
    (match op with
      | .write .. => d
      | _ => d.emit .readError)
  else match d.accFault q r.pa with
    | some kind =>
      let d := d.accErr q.die kind q r.pa
      (match op with
        | .write .. => d
        | _ => d.emit .readError)
    | none =>
      if d.admits r ∧ !d.recallDeferred (r.pa / 128) then d.homeServe r op
      else { d with held := d.held ++ [{ home := d.homeDie r.pa, die := r.die, part := r.part, pa := r.pa, unit := r.unit, req := r.req, noAlloc := r.noAlloc, exempt := r.exempt, op := op }] }

/-- A request that was held. -/
def Held.request (x : Held) : HomeReq := { die := x.die, pa := x.pa, part := x.part, unit := x.unit, req := x.req, noAlloc := x.noAlloc, exempt := x.exempt }

/-- Held requests that a predicate names are made again, oldest first. -/
def Dev.releaseHomes (d : Dev) (p : Held → Bool) : Dev :=
  let go := d.held.filter p
  let d : Dev := { d with held := d.held.filter (fun x => !p x) }
  go.foldl (fun (d : Dev) (x : Held) => d.homeRequest x.request x.op) d

/-- HOME_WRITE (R205, R206, R210). -/
def execHomeWrite (r : HomeReq) (data : List Byte) (poison : Bool) (s : State) : Host.Outcome State Fault Refusal :=
  s.onDev (fun d => d.homeRequest r (.write data poison))

/-- HOME_READ (R204, R207, R210). The errors that it brings stand in the store until a read meets them. -/
def execHomeRead (r : HomeReq) (len : Nat) (ecc : Ecc) (s : State) : Host.Outcome State Fault Refusal :=
  s.onDev (fun d => (d.found .none ecc).homeRequest r (.read len))

/-- HOME_ATOMIC (R210, R309): the word is naturally aligned. -/
def execHomeAtomic (r : HomeReq) (op : AmoOp) (width : Nat) (operand compare : W64) (s : State) : Host.Outcome State Fault Refusal :=
  s.onDev (fun d =>
    if (width = 4 ∨ width = 8) ∧ r.pa % width = 0 then
      d.homeRequest r (.atomic (amoToNat op) width operand.toNat compare.toNat)
    else d)

/-- WCB_ENTRY_TIMEOUT (R206): no write has merged into the entry for 256 controller cycles. -/
def execWcbEntryTimeout (die channel line : Nat) (s : State) : Host.Outcome State Fault Refusal :=
  s.onDev (fun d => match d.wcbFind die channel line with
    | some e => (d.wcbIssue e).settle
    | none => d)

/-- WCB_ENTRY_ISSUE (R206, R208): where 56 or more entries are occupied, the entry least recently merged into. -/
def execWcbEntryIssue (die channel line : Nat) (s : State) : Host.Outcome State Fault Refusal :=
  s.onDev (fun d =>
    let l := d.wcb.filter (fun e => e.die = die && e.channel = channel)
    match l.head? with
    | some e => if 56 ≤ l.length ∧ e.line = line then (d.wcbIssue e).settle else d
    | none => d)

/-- CHAIN_CACHE_FILL (R220). -/
def execChainCacheFill (die chain line : Nat) (s : State) : Host.Outcome State Fault Refusal := s.onDev (fun d => d.chainFill die chain line)

/-- Writes back the dirty lines of a way of a system cache and invalidates the way (R223). -/
def Dev.syscDropWay (d : Dev) (die way : Nat) : Dev :=
  let lines := (d.sysc die).lines.filter (fun e => e.1 % 16 = way)
  let d := lines.foldl (fun d e =>
    let l := e.2
    if l.valid && l.dirty ≠ 0 then
      let (_, da) := d.stackedPlace (l.tag * 128)
      d.wcbPut die (channelOf da) l.tag l.dirtyPatch
    else d) d
  d.setSysc die { d.sysc die with lines := KMap.dropIf (fun k => k % 16 = way) (d.sysc die).lines }

/-- The same for a steward die: a line that no core holds leaves the die. -/
def Dev.stewDropWay (d : Dev) (die way : Nat) : Dev :=
  let lines := (d.sysc die).lines.filter (fun e => e.1 % 16 = way)
  let d := d.setSysc die { d.sysc die with lines := KMap.dropIf (fun k => k % 16 = way) (d.sysc die).lines }
  lines.foldl (fun d e => d.stewLeave die e.2.tag) (d.setSysc die { d.sysc die with gone := (d.sysc die).gone ||| 2 ^ way })

/-- Marks a way disabled in its fields (R222, R223): the mask and the count. -/
def Dev.markWay (d : Dev) (die : Nat) (mask count : Fld) (way : Nat) : Dev :=
  ({ (d.wr die mask (d.rd die mask ||| 2 ^ way)).wr die count (popcount (d.rd die mask ||| 2 ^ way) 16) with healthDue := true }).raiseErr die 3

/-- WAY_DISABLE (R222, R223): a way that has qualified leaves service. -/
def execWayDisable (c : CacheId) (way : Nat) (s : State) : Host.Outcome State Fault Refusal :=
  s.onDev (fun d =>
    match c with
    | .system die =>
      if !bit (d.sysc die).off way then d
      else if d.stewardDies.contains die then
        if bit (d.sysc die).gone way then d else { (d.stewDropWay die way).settle with healthDue := true }.raiseErr die 3
      else if d.computeDies.contains die && !bit (d.rd die Reg.MEMC_SC_WAYS.DISABLED) way then
        (d.syscDropWay die way).settle.markWay die Reg.MEMC_SC_WAYS.DISABLED Reg.MEMC_SC_WAYS.COUNT way
      else d
    | .chain die chain =>
      let mask := chainFld Reg.CHAIN_WAYS.DISABLED chain
      if d.computeDies.contains die && decide (chain < 22) && bit (d.chain die chain).cache.off way && !bit (d.rd die mask) way then
        let k := d.chain die chain
        let d := d.setChain die chain { k with cache := { k.cache with lines := KMap.dropIf (fun i => i % 16 = way) k.cache.lines } }
        d.markWay die mask (chainFld Reg.CHAIN_WAYS.COUNT chain) way
      else d)

/-- Sectors that the scrub of a die covers (R601). -/
def Dev.scrubSectors (d : Dev) (die : Nat) : Nat := if die < 2 then d.fathomSize / d.stewardDies.length / 32 else 2 ^ 31

/-- Local physical address of sector `i` of a die's memory, in address order. -/
def Dev.scrubPa (d : Dev) (die i : Nat) : Nat :=
  if 2 ≤ die then d.stackedPa (die - 2) (i * 32)
  else if d.sh4 then fathomBase + i * 32
  else
    let b := i / 64
    let h := (die + parity (b &&& 0x888) 12) % 2
    fathomBase + b * 4096 + h * 2048 + i % 64 * 32

/-- SCRUB_READ (R601, R602, R629): the sector is read from its memory, and rewritten where its error is corrected. -/
def execScrubRead (die : Nat) (ecc : Ecc) (s : State) : Host.Outcome State Fault Refusal :=
  s.onDev (fun d =>
    let n := d.scrubSectors die
    if d.charter.ras.scrubH = 0 || !d.dies.contains die || d.dieFailed die || n = 0 then d
    else
      let i := KMap.get 0 d.scrub die
      let pa := d.scrubPa die i
      let mine := fun (l : List Nat) => l.any (fun a => d.flawKey a = d.flawKey pa)
      let d := if mine ecc.corrected then d.setFlaw false pa else d
      let d := if mine ecc.uncorrectable then d.setFlaw true pa else d
      let fixed := decide (KMap.get 0 d.flaws (d.flawKey pa) = 1)
      let d := (d.dramRead (pa / 128) (2 ^ (pa % 128 / 32))).settle
      let d := if fixed then
          let d : Dev := { d with flaws := KMap.set 0 d.flaws (d.flawKey pa) 0 }
          if die < 2 then d else d.incMod die Reg.MEMC_WR_BYTES.BYTES 32
        else d
      let j := if i + 1 < n then i + 1 else 0
      let d := if j = 0 then d.inc die Reg.RAS_SCRUB.PASSES 1 else d
      { d with scrub := KMap.set 0 d.scrub die j }.wr die Reg.RAS_SCRUB.PROGRESS (j * 2 ^ 32 / n))

end Sys2Proof.Machine
end

