-- ==== Sys2Proof/Machine/Irq.lean ====
section
/-! DEFINITION. Interrupts to the steward cores: the interrupt files (R473) and the APLICs (R474). -/

namespace Sys2Proof.Machine

/-- The core exists on the part (R462). -/
def Dev.hartOk (d : Dev) (h : Nat) : Bool := h % 64 < 48 && d.stewardDies.contains (h / 64)

/-- Makes an identity pending in a core's machine (false) or supervisor (true) file (R473, R475). -/
def Dev.setIdentity (d : Dev) (h : Nat) (supervisor : Bool) (identity : Nat) : Dev :=
  if !d.hartOk h ∨ identity = 0 ∨ 255 < identity then d
  else d.updHart h (fun t =>
    if supervisor then { t with imsicS := { t.imsicS with pending := t.imsicS.pending ||| 2 ^ identity } }
    else { t with imsicM := { t.imsicM with pending := t.imsicM.pending ||| 2 ^ identity } })

/-- The APLIC of a steward die raises a source: every partition's route of it is delivered (R474). -/
def Dev.aplic (d : Dev) (die source : Nat) : Dev :=
  if !d.stewardDies.contains die then d
  else d.charter.parts.foldl (fun d p =>
    match p.routes[source - 1]? with
    | some r => d.setIdentity r.hart (r.file = 1) r.identity
    | none => d) d

end Sys2Proof.Machine
end

