-- ==== Sys2Proof/Machine/Events.lean ====
section
/-! DEFINITION. Device events and MSI-X messages (R490 to R492). -/

namespace Sys2Proof.Machine

/-- Changes the host interface. -/
def Dev.updHif (d : Dev) (f : Hif → Hif) : Dev := { d with hif := f d.hif }

/-- Interrupts and writes reach the host: link up, bus master, not lost (R513). -/
def Dev.hostReach (d : Dev) : Bool := d.hif.linkUp && d.hif.bme && d.rd 0 Reg.HIF_ATTACH.STATE ≠ 2

/-- The MSI-X entry of a vector; the mask bit is set at first. -/
def Dev.msixEntry (d : Dev) (v : Nat) : Nat := KMap.get (2 ^ 96) d.hif.msix v

/-- Sends the message of an MSI-X vector, or sets its pending bit where it is masked (R492). -/
def Dev.sendVector (d : Dev) (v : Nat) : Dev :=
  let e := d.msixEntry v
  if !d.hif.msixEnable ∨ !d.hostReach then d
  else if bit e 96 then d.updHif (fun h => { h with pba := KMap.set 0 h.pba v 1 })
  else d.emit (.msix v (e % 2 ^ 64) (e / 2 ^ 64 % 2 ^ 32))

/-- Raises a device event (R491, R520), for the sideband too (R652). -/
def Dev.raiseEvent (d : Dev) (v : Nat) : Dev :=
  let d := { d with alerts := d.alerts ||| 2 ^ v }
  (d.wr 0 Reg.HIF_EVENT.RAISED (d.rd 0 Reg.HIF_EVENT.RAISED ||| 2 ^ v)).sendVector v

end Sys2Proof.Machine
end

