-- ==== Sys2Proof/Machine/RegRead.lean ====
section
/-! DEFINITION. Reads of the control space (R7, R8, R28, R29) and of the die views (R489). -/

namespace Sys2Proof.Machine

/-- A die carries the registers of a selection (R28). -/
def Dev.carries (d : Dev) (die : Nat) : DieSel → Bool
  | .all => d.dies.contains die
  | .s0 => die = 0
  | .steward => d.stewardDies.contains die
  | .compute => d.computeDies.contains die
  | .coll => die = 0 || d.computeDies.contains die
  | .sio => die = d.sioDie

/-- Offset of a CHAIN register within chain 0, and the distance to its chain; other offsets as they are (R28). -/
def chainBase (off : Nat) : Nat × Nat :=
  if 0x100000 ≤ off ∧ off < 0x100000 + 22 * 0x10000 then (0x100000 + (off - 0x100000) % 0x10000, (off - 0x100000) / 0x10000 * 0x10000) else (off, 0)

/-- The register at an 8-byte offset: its fields as they stand there, and whether other dies mirror S0. -/
def Dev.regAt (d : Dev) (die off : Nat) : Option (List Fld × Bool) :=
  let (o, shift) := chainBase off
  (Reg.table.find? (fun r => r.off ≤ o && o < r.off + r.count * r.stride && (o - r.off) % r.stride = 0 && d.carries die r.dies)).map
    (fun r => (r.fields.map (fun f => f.shift (o - r.off + shift)), r.mirror))

/-- A register's value from its fields; write-only fields read as zero (R8). -/
def Dev.regValue (d : Dev) (die : Nat) (fs : List Fld) : Nat :=
  fs.foldl (fun n f => if f.acc = .wo then n else n + d.rd die f * 2 ^ f.lo) 0

/-- The scratchpad error register of a perch (R124). -/
def SpadErr.value (e : SpadErr) : Nat := e.corr * 2 ^ 32 + e.uncorr * 2 ^ 16 + e.bank * 2 ^ 11 + e.row

/-- The sequencer waits in CWAIT, DMAQ, DMACTL or SEND (R119). -/
def Stall.waiting : Stall → Bool
  | .cwait .. | .dmaq .. | .waitIdle .. | .send .. => true
  | _ => false

/-- A register of a PERCH block (R118 to R129). -/
def Dev.perchReg (d : Dev) (p off : Nat) : Option Nat :=
  let v := d.perch p
  let lit := fun (n : Nat) => some (if v.pstate = 0 then 0 else n)
  if off = 0x000 then
    some (if v.pstate = 0 then 0 else v.spanId * 2 ^ 48 + v.dispatch % 2 ^ 16 * 2 ^ 32 + v.kernel * 2 ^ 16 + v.part % 16 * 2 ^ 12 + b2n v.ctrSat * 2 ^ 11
      + b2n v.stall.waiting * 2 ^ 10 + b2n v.inTrap * 2 ^ 9 + v.pstate)
  else if off = 0x008 then lit (v.budget % 2 ^ 32)
  else if off = 0x010 then lit (v.warn % 2 ^ 32 * 2 ^ 32 + v.remaining % 2 ^ 32)
  else if off = 0x018 then lit (v.faultCause * 2 ^ 56 + v.faultDetail * 2 ^ 48 + v.faultCtx % 8 * 2 ^ 45 + v.faultPc % 2 ^ 32)
  else if off = 0x020 then lit (v.faultAddr % 2 ^ 48)
  else if off = 0x028 then some (KMap.get {} d.spadErr p).value
  else if 0x100 ≤ off ∧ off < 0x140 then lit (d.ctxOf p ((off - 0x100) / 8)).status
  else if 0x140 ≤ off ∧ off < 0x180 then
    let c := d.ctxOf p ((off - 0x140) / 8)
    lit (c.logSpan * 2 ^ 48 + c.logCause * 2 ^ 44 + c.logLanded % 2 ^ 40)
  else if 0x200 ≤ off ∧ off < 0x400 then lit (KMap.get 0 v.ctr ((off - 0x200) / 8))
  else if 0x400 ≤ off ∧ off < 0x500 then lit ((d.endp p ((off - 0x400) / 8)).cfg / 2 ^ 19 * 2 ^ 19)
  else if 0x500 ≤ off ∧ off < 0x600 then
    let e := d.endp p ((off - 0x500) / 8)
    lit (e.bytes % 2 ^ 32 * 2 ^ 32 + e.credits % 2 ^ 16 * 2 ^ 16 + e.pending.length % 16 * 2 ^ 4)
  else none

/-- The OR of RAS_ERR over every die (R609). -/
def Dev.pkgErr (d : Dev) : Nat := d.dies.foldl (fun n die => n ||| d.rd die Reg.RAS_ERR.CLASS) 0

/-- Offset of RAS_PKG_ERR (R625). -/
def rasPkgErrOff : Nat := 0x30100

/-- A word of RAS_DUMP_WIN (R623): of chunk CHUNK while READY is 1, else zero. -/
def Dev.dumpWindow (d : Dev) (o : Nat) : Nat :=
  if d.rd 0 Reg.RAS_DUMP_READ.READY = 0 then 0
  else leNat (plain (d.peek (d.rd 0 Reg.RAS_DUMP_BASE.BASE + d.rd 0 Reg.RAS_DUMP_READ.CHUNK * 32768 + o) 8))

/-- ms from PWR_GOOD, frozen at seal and at a halt (R567). -/
def Dev.bootMs (d : Dev) : Nat :=
  let st := d.rd 0 Reg.BOOT_STATE.STAGE
  if st = 8 ∨ st = 9 then d.rd 0 Reg.BOOT_STATE.ELAPSED_MS else (d.timeNs + d.elapsed) / 1000000

/-- A 64-bit register of a die; none where the die carries none there (R29). -/
def Dev.reg64 (d : Dev) (die off : Nat) : Option Nat :=
  if 0x1000000 ≤ off ∧ off < 0x1000000 + 352 * 0x4000 then
    if d.computeDies.contains die then d.perchReg ((die - 2) * 352 + (off - 0x1000000) / 0x4000) ((off - 0x1000000) % 0x4000) else none
  else if off = rasPkgErrOff then (if die = 0 then some d.pkgErr else none)
  else if die = 0 ∧ 0x38000 ≤ off ∧ off < 0x40000 then some (d.dumpWindow (off - 0x38000))
  else match d.regAt die off with
    | none => none
    | some (fs, mirror) =>
      let src := if mirror then 0 else die
      let v := d.regValue src fs
      if off = Reg.TICK_TIME.ELAPSED_NS.off then
        some (d.rd 0 Reg.TICK_TIME.PHASE_ERR * 2 ^ Reg.TICK_TIME.PHASE_ERR.lo + d.elapsed % 2 ^ 32 * 2 ^ Reg.TICK_TIME.ELAPSED_NS.lo)
      else if off = Reg.BOOT_STATE.ELAPSED_MS.off then some (v - d.rd 0 Reg.BOOT_STATE.ELAPSED_MS + d.bootMs % 2 ^ 28)
      else some v

/-- The access is 64-bit or 32-bit and naturally aligned (R7). -/
def ctlAligned (off size : Nat) : Bool := (size = 8 || size = 4) && off % size = 0

/-- A requester with its die, its partition and its codes. -/
def Dev.ctlRq (d : Dev) (r : Requester) : Rq := { part := r.part, unit := r.unit, req := r.req, die := d.unitDie r.unit r.die }

/-- Records an access error on the control space of a die (R7, R29): 1 malformed, 2 absent. -/
def Dev.ctlError (d : Dev) (r : Requester) (die off kind : Nat) : Dev := d.accErr die kind (d.ctlRq r) (controlBase + die * 2 ^ 32 + off)

/-- The control space of a die is refused at the requester (R26, R36): its number does not exist on the part, or it has failed or cannot be reached. The kind
of the access error. -/
def Dev.ctlRefused (d : Dev) (r : Requester) (die : Nat) : Option Nat :=
  if !d.dies.contains die then some 3 else if d.unreached (d.ctlRq r).die die then some 4 else none

/-- Records the refusal on the requester's own die (R26). -/
def Dev.ctlRefuse (d : Dev) (r : Requester) (die off kind : Nat) : Dev :=
  d.accErr (d.ctlRq r).die kind (d.ctlRq r) (controlBase + die * 2 ^ 32 + off)

/-- A read of the control space (R7, R8, R26, R29): the value, poisoned where the access is refused (R26), and the device. -/
def Dev.ctlRead (d : Dev) (r : Requester) (die off size : Nat) : Nat × Dev :=
  match d.ctlRefused r die with
  | some k => (d.ctlRefuse r die off k).free
  | none =>
    if !ctlAligned off size then (0, d.ctlError r die off 1)
    else match d.reg64 die (alignDown off 8) with
      | none => (0, d.ctlError r die off 2)
      | some v => (if size = 8 then v else v / 2 ^ (8 * (off % 8)) % 2 ^ 32, d)

/-- Placed by discovery (R34). -/
def Dev.placed (d : Dev) (die : Nat) : Bool := d.rd die Reg.GLB_DIE_ID.PLACED = 1

/-- What a die view shows of a register (R489); none where it shows nothing. -/
def Dev.viewRead (d : Dev) (die off : Nat) : Option Nat :=
  if !d.dies.contains die ∨ d.dieFailed die ∨ 0x4000000 ≤ off ∨ off % 8 ≠ 0 then none
  else if d.sealed then d.reg64 die off
  else if d.placed die ∧ (off = 0 ∨ off = 8 ∨ (0x2700000 ≤ off ∧ off < 0x2710000)) then d.reg64 die off
  else if die = 0 ∧ (off = 0x2500000 ∨ off = 0x2500010) then d.reg64 die off
  else none

/-- A read through a die view by the sideband or the league relay (R516, R626, R652): after seal, one that shows nothing is an access error. -/
def Dev.viewAsk (d : Dev) (r : Requester) (die off : Nat) : Option Nat × Dev :=
  match d.viewRead die off with
  | some v => (some v, d)
  | none =>
    (none, if !d.sealed then d
      else match d.ctlRefused r die with
        | some k => d.ctlRefuse r die off k
        | none => d.ctlError r die off (if off % 8 = 0 then 2 else 1))

end Sys2Proof.Machine
end

