-- ==== Sys2Proof/Machine/MoverOps.lean ====
section
/-! DEFINITION. Copies by engines, and the tier mover (R246 to R257, R267 to R270). -/

namespace Sys2Proof.Machine

/-- A home that an access touches is closed to the partition by a budget of zero (R266). -/
def Dev.budgetClosed (d : Dev) (q : Rq) (target n : Nat) : Bool :=
  match d.localOf target with
  | none => false
  | some pa => (lineSegs pa n).any (fun s => (match d.region (s.1 * 128) with
    | .stacked | .fathom => d.refused q (s.1 * 128)
    | _ => false))

/-- A copy under way: failure (0 none, 3 closed by budget, 4 access fault, 8 held), bytes moved or asked for, how many of them were lost at once, external bytes
not yet used, and whether a source held poison. -/
structure CopyRun where
  fail : Nat := 0
  moved : Nat := 0
  lost : Nat := 0
  ext : Ext := ⟨[], false⟩
  poison : Bool := false

/-- The code of bytes that a home holds (R264, R310): what moves them stops in front of them, and goes on from there when it is tried again. -/
def moveHeld : Nat := 8

/-- Cuts pieces inside the package at the lines they touch: each is a request at a home (R264). -/
def Dev.byLines (d : Dev) (ps : List (Nat × Nat)) : List (Nat × Nat) :=
  ps.flatMap (fun t => if (d.localOf t.1).isSome then (lineSegs t.1 t.2).map (fun s => (s.1 * 128 + s.2.1, s.2.2)) else [t])

/-- Writes bytes at target pieces, one request after the other. -/
def Dev.putPieces (d : Dev) (agent : Agent) (q : Rq) (run : CopyRun) (ds : List (Nat × Nat)) (v : List PByte) : CopyRun × Dev :=
  ((d.byLines ds).foldl (fun (r : CopyRun × List PByte × Dev) t =>
    let (run, v, d) := r
    if run.fail ≠ 0 then r
    else if d.homeFull q (fun _ => false) t.1 t.2 then ({ run with fail := moveHeld }, v, d)
    else
      let closed := d.budgetClosed q t.1 t.2
      let (e, n, d) := d.writeTarget agent q none t.1 (v.take t.2)
      ((if e then { run with fail := if closed then 3 else 4 }
        else { run with moved := run.moved + t.2, lost := run.lost + if n = 0 then 0 else t.2 }), v.drop t.2, d)) (run, v, d))
    |> (fun r => (r.1, r.2.2))

/-- Reads one source piece and writes its bytes at `mine`. A piece in another package is asked for and lands when it is answered (R308). -/
def Dev.copyPiece (d : Dev) (agent : Agent) (q : Rq) (run : CopyRun) (src : Nat × Nat) (mine : List (Nat × Nat)) : CopyRun × Dev :=
  if d.homeFull q (fun _ => false) src.1 src.2 ∨ mine.any (fun t => d.homeFull q (fun _ => false) t.1 t.2) then ({ run with fail := moveHeld }, d)
  else match d.localOf src.1 with
  | none =>
    if d.remoteUp (src.1 / 2 ^ 48) then
      ({ run with moved := run.moved + src.2 }, ((granuleSegs src.1 src.2).foldl (fun (r : List (Nat × Nat) × Dev) g =>
        let (m, t) := splitDest (r.1.length + 1) g.2 r.1
        (t, r.2.remoteReadOne agent q.part g.1 g.2 m)) (mine, d)).2)
    else
      let (b, d) := d.dropRead src.1 src.2
      d.putPieces agent q { run with poison := true } mine b
  | some pa =>
    let closed := d.budgetClosed q src.1 src.2
    let (b, e, d) := d.readLocal { q with noAlloc := false } none run.ext pa src.2
    let run := match d.region pa with
      | .host _ => { run with ext := { run.ext with bytes := run.ext.bytes.drop src.2 } }
      | _ => run
    if e then ({ run with fail := if closed then 3 else 4 }, d) else d.putPieces agent q { run with poison := run.poison || anyPoison b } mine b

/-- Copies source pieces to destination pieces in order, until a failure. -/
def Dev.copyPieces (d : Dev) (agent : Agent) (q : Rq) (run : CopyRun) (src dst : List (Nat × Nat)) : CopyRun × Dev :=
  ((d.byLines src).foldl (fun (r : CopyRun × List (Nat × Nat) × Dev) s =>
    let (run, ds, d) := r
    if run.fail ≠ 0 then r
    else
      let (mine, rest) := splitDest (ds.length + 1) s.2 ds
      let (run, d) := d.copyPiece agent q run s mine
      (run, rest, d)) (run, dst, d)) |> (fun r => (r.1, r.2.2))

/-- The bytes of a read of an engine are asked for at another package, so an answer is still due to the agent. -/
def Dev.awaits (d : Dev) (a : Agent) : Bool := d.remote.any (fun r => r.agent = a)

/-- Reads target pieces whole: the bytes, the failure (0, 3 closed, 4 access, 8 held). -/
def Dev.readTargets (d : Dev) (q : Rq) (ps : List (Nat × Nat)) : List PByte × Nat × Dev :=
  ps.foldl (fun (r : List PByte × Nat × Dev) t =>
    let (acc, f, d) := r
    if f ≠ 0 then r
    else if d.homeFull q (fun _ => false) t.1 t.2 then (acc, moveHeld, d)
    else match d.localOf t.1 with
      | none => (acc, 4, d)
      | some pa =>
        let closed := d.budgetClosed q t.1 t.2
        let (b, e, d) := d.readLocal q none ⟨[], true⟩ pa t.2
        (acc ++ b, (if e then (if closed then 3 else 4) else 0), d)) ([], 0, d)

/-- The move list of the current tick: (first entry, count) (R247). -/
def Dev.moveList (d : Dev) : List MoveEntry :=
  let p := d.sched.patternAt d.tick
  (d.sched.moves.drop p.firstMove).take p.moveCount

/-- A move entry of this tick. -/
def Dev.moveRun (d : Dev) (die entry : Nat) : MoveRun := KMap.get {} d.moves (die * 65536 + entry)

/-- Replaces it. -/
def Dev.setMove (d : Dev) (die entry : Nat) (m : MoveRun) : Dev := { d with moves := KMap.set {} d.moves (die * 65536 + entry) m }

/-- Entries of a unit in progress: their slots. -/
def Dev.moveSlots (d : Dev) (die : Nat) : List Nat :=
  (d.moves.filter (fun e => e.1 / 65536 = die && e.2.state = 1)).map (fun e => e.2.slot)

/-- The tail guard of the tick, ns after the boundary (R253): TICK_PERIOD × 1,000 − 20,000. -/
def Dev.tailGuard (d : Dev) : Nat := 1000 * (d.sched.period - 20)

/-- The unit of a die as a requester for an entry (R348, R626 UNIT 33). -/
def Dev.moverXq (die slot part : Nat) : Xq := { mmu := mmuMover die, part := part, unit := 33, req := slot, die := die }

/-- An entry of a unit stands before another in its order of starts (R251, R292): by START_NS, then by the list. -/
def startsBefore (a b : MoveEntry × Nat) : Bool := a.1.execDie = b.1.execDie && (a.1.startNs < b.1.startNs || (a.1.startNs = b.1.startNs && a.2 < b.2))

/-- Starts an entry of a kind where the unit has room and those before it have started (R251), or goes on with one that a home held: its entry and run. -/
def Dev.moveStart (d : Dev) (die entry kind : Nat) : Option (MoveEntry × MoveRun × Dev) :=
  match d.moveList[entry]? with
  | none => none
  | some e =>
    let slots := d.moveSlots die
    let m := d.moveRun die entry
    if e.kind ≠ kind ∨ e.execDie ≠ die ∨ !d.stewardDies.contains die ∨ d.dieFailed die ∨ d.rd 0 Reg.TICK_STATUS.DISPATCHING ≠ 1
        ∨ d.tailGuard ≤ max d.elapsed e.startNs then none
    else if m.state = 1 ∧ m.held then some (e, { m with held := false }, d.setMove die entry { m with held := false })
    else if m.state = 0 ∧ slots.length < 32 ∧ d.moveList.zipIdx.all (fun o => !startsBefore o (e, entry) || (d.moveRun die o.2).state ≠ 0) then
      let m : MoveRun := { state := 1, slot := ((List.range 32).find? (fun i => !slots.contains i)).getD 0 }
      some (e, m, (d.setMove die entry m).toTime e.startNs)
    else none

/-- Pieces (offset, length) of an entry by 64 KiB (R246), from a byte of it on. -/
def movePieces (n pos : Nat) : List (Nat × Nat) :=
  ((List.range (ceilDiv n 65536)).map (fun i => (i * 65536, min 65536 (n - i * 65536)))).filterMap (fun p =>
    if p.1 + p.2 ≤ pos then none else some (max p.1 pos, p.1 + p.2 - max p.1 pos))

/-- Moves one piece of an entry: translated whole, then moved (R246, R254). -/
def Dev.movePiece (d : Dev) (x : Xq) (agent : Agent) (noAlloc : Bool) (run : CopyRun) (src : Option Nat) (dst n : Nat) : CopyRun × Dev :=
  let q := x.rq noAlloc false
  let s : Except (Nat × Nat) (List (Nat × Nat)) × Dev := match src with
    | some a => d.translateRange x a n axRead
    | none => (.ok [], d)
  match s with
  | (.error _, d) => ({ run with fail := 4 }, d)
  | (.ok sp, d) =>
    match d.translateRange x dst n axWrite with
    | (.error _, d) => ({ run with fail := 4 }, d)
    | (.ok dp, d) =>
      match src with
      | some _ => d.copyPieces agent q run sp dp
      | none => d.putPieces agent q run dp (clean (List.replicate n 0#8))

/-- Moves the pieces of a COPY or ZERO entry until one fails or is held. -/
def Dev.moveWhole (d : Dev) (die entry : Nat) (e : MoveEntry) (m : MoveRun) (ext : Ext) (src : Option Nat) : Dev :=
  let x := Dev.moverXq die m.slot e.partition
  let (run, d) := (movePieces e.amount m.pos).foldl (fun (r : CopyRun × Dev) p =>
    if r.1.fail ≠ 0 then r
    else r.2.movePiece x (.mover die entry) (bit e.flags 1) r.1 (src.map (· + p.1)) (e.dst + p.1) p.2) (({ ext := ext } : CopyRun), d)
  d.setMove die entry { m with done := m.done + run.moved - run.lost, pos := m.pos + run.moved, fail := run.fail % moveHeld, whole := run.fail = 0,
                               held := run.fail = moveHeld }

/-- Reads bytes of a partition's memory as the mover (R254): FAULT where a translation or an access fails, ERROR at a home with a budget of zero and for poison,
which is no KV table. -/
def Dev.moverRead (d : Dev) (x : Xq) (dva n : Nat) : Except Nat (List Byte) × Dev :=
  match d.translateRange x dva n axRead with
  | (.error _, d) => (.error 4, d)
  | (.ok ps, d) =>
    let (b, f, d) := d.readTargets (x.rq false false) ps
    (if f ≠ 0 then .error f else if anyPoison b then .error 3 else .ok (plain b), d)

/-- Writes bytes of a partition's memory as the mover: the failure, or 0. -/
def Dev.moverWrite (d : Dev) (x : Xq) (agent : Agent) (dva : Nat) (v : List Byte) : Nat × Dev :=
  match d.translateRange x dva v.length axWrite with
  | (.error _, d) => (4, d)
  | (.ok ps, d) =>
    let (run, d) := d.putPieces agent (x.rq false false) {} ps (clean v)
    (run.fail, d)

/-- Start of a KV table's entries (R267). -/
def kvEntries (table stage : Nat) : Nat := table + alignUp (64 + 4 * stage) 16

/-- Copies one 64 KiB page of a KV entry: the failure, or 0. -/
def Dev.kvCopy (d : Dev) (x : Xq) (agent : Agent) (noAlloc : Bool) (src dst : Nat) : Nat × Dev :=
  let (run, d) := d.movePiece x agent noAlloc { ext := ⟨[], true⟩ } (some src) dst 65536
  (run.fail, d)

/-- The progress of a KV entry: failure, pages moved, whether it has stopped. -/
structure KvRun where
  fail : Nat := 0
  done : Nat := 0
  stop : Bool := false

/-- Sets bit 0 of a page's STATE_IN (R267). -/
def Dev.kvStaged (d : Dev) (x : Xq) (agent : Agent) (entry : Nat) (v : Bool) : Nat × Dev :=
  match d.moverRead x (entry + 9) 1 with
  | (.error f, d) => (f, d)
  | (.ok b, d) => d.moverWrite x agent (entry + 9) [BitVec.ofNat 8 (leNat b / 2 * 2 + b2n v)]

/-- One step of KV_IN (R269). -/
def Dev.kvInPage (d : Dev) (x : Xq) (agent : Agent) (noAlloc : Bool) (table : Nat) (h : List Byte) (run : KvRun) (k : Nat) : KvRun × Dev :=
  let tail := fld h 0 4
  let recent := fld h 12 2
  let stage := fld h 14 2
  let n := fld h 4 4 + k
  let e := kvEntries table stage + 16 * n
  let fail := fun (f : Nat) (d : Dev) => ({ run with fail := f }, d)
  if run.fail ≠ 0 ∨ run.stop then (run, d)
  else if tail ≤ n + recent ∨ fld h 8 4 ≤ n then ({ run with stop := true }, d)
  else match d.moverRead x e 16 with
    | (.error f, d) => fail f d
    | (.ok ent, d) =>
      if bit (fld ent 9 1) 0 then (run, d)
      else if !bit (fld ent 8 1) 0 then fail 3 d
      else
        let slot := n % stage
        let (f, d) := d.kvCopy x agent noAlloc (fld ent 0 8) (fld h 16 8 + slot * 65536)
        if f ≠ 0 then fail f d
        else match d.moverRead x (table + 64 + 4 * slot) 4 with
          | (.error f, d) => fail f d
          | (.ok t, d) =>
            let old := fld t 0 4
            let (f, d) := if old = 0xFFFFFFFF then (0, d) else d.kvStaged x agent (kvEntries table stage + 16 * old) false
            if f ≠ 0 then fail f d
            else
              let (f, d) := d.moverWrite x agent (table + 64 + 4 * slot) (leBytes 4 n)
              if f ≠ 0 then fail f d
              else
                let (f, d) := d.kvStaged x agent e true
                if f ≠ 0 then fail f d else ({ run with done := run.done + 1 }, d)

/-- One step of KV_OUT (R270). -/
def Dev.kvOutPage (d : Dev) (x : Xq) (agent : Agent) (noAlloc : Bool) (table amount : Nat) (h : List Byte) (run : KvRun) (n : Nat) : KvRun × Dev :=
  let recent := fld h 12 2
  let stage := fld h 14 2
  let e := kvEntries table stage + 16 * n
  let fail := fun (f : Nat) (d : Dev) => ({ run with fail := f }, d)
  if run.fail ≠ 0 ∨ amount ≤ run.done then (run, d)
  else match d.moverRead x e 16 with
    | (.error f, d) => fail f d
    | (.ok ent, d) =>
      if !bit (fld ent 8 1) 1 then (run, d)
      else if fld ent 0 8 = 0 then fail 3 d
      else
        let (f, d) := d.kvCopy x agent noAlloc (fld h 16 8 + (stage + n % recent) * 65536) (fld ent 0 8)
        if f ≠ 0 then fail f d
        else
          let (f, d) := d.moverWrite x agent (e + 8) [BitVec.ofNat 8 (fld ent 8 1 / 4 * 4 + 1)]
          if f ≠ 0 then fail f d else ({ run with done := run.done + 1 }, d)

/-- Runs a KV entry over the numbers `ks` (R269, R270). -/
def Dev.kvRun (d : Dev) (die entry : Nat) (e : MoveEntry) (m : MoveRun) (out : Bool) : Dev :=
  let x := Dev.moverXq die m.slot e.partition
  let agent := Agent.mover die entry
  let close := fun (d : Dev) (r : KvRun) =>
    d.setMove die entry { m with done := r.done, fail := r.fail % moveHeld, whole := r.fail = 0, held := r.fail = moveHeld }
  match d.moverRead x e.src 24 with
    | (.error f, d) => close d { fail := f, done := m.done }
    | (.ok h, d) =>
      let tail := fld h 0 4
      let ks := if out then (List.range (min tail (fld h 12 2))).map (fun i => tail - min tail (fld h 12 2) + i) else List.range (min e.amount (fld h 14 2))
      let (r, d) := ks.foldl (fun (r : KvRun × Dev) k =>
        if out then r.2.kvOutPage x agent (bit e.flags 1) e.src e.amount h r.1 k else r.2.kvInPage x agent (bit e.flags 1) e.src h r.1 k) (({ done := m.done } : KvRun), d)
      close d r

/-- Ends an entry (R252, R253): its done record and its counts. -/
def Dev.moveEnd (d : Dev) (die entry : Nat) (e : MoveEntry) (m : MoveRun) (status : Nat) : Dev :=
  let d := d.setMove die entry { m with state := 2 }
  let x := Dev.moverXq die m.slot e.partition
  let bytes := leBytes 8 d.tick ++ leBytes 1 status ++ leBytes 3 0 ++ leBytes 4 m.done
  let (lost, d) := if bit e.flags 0 then
      (let (r, d) := d.dvaWrite x (.mover die 65535) (x.rq false true) none e.doneDva (clean bytes)
       (r.isSome, d))
    else (false, d)
  let d := if status ≤ 1 then d.inc die Reg.BMC_MOVE_CNT.DONE 1 else d
  let d := if status = 1 then d.inc die Reg.BMC_MOVE_CNT.LATE 1 else d
  let d := if status = 2 then d.inc die Reg.BMC_MOVE_CNT.ABORTED 1 else d
  if status = 3 ∨ status = 4 ∨ lost then d.inc die Reg.BMC_MOVE_CNT.FAILED 1 else d

/-- Starts an entry, or goes on with it, by `f`; one of AMOUNT 0 completes on time at once (R255). -/
def Dev.moveBegin (d : Dev) (die entry kind : Nat) (f : MoveEntry → MoveRun → Dev → Dev) : Dev :=
  match d.moveStart die entry kind with
  | none => d
  | some (e, m, d) => if e.amount = 0 then d.moveEnd die entry e m 0 else f e m d

/-- Ends an entry with a failure at once, where a command of it fails (R254, R449). -/
def Dev.moveFail (d : Dev) (die entry code : Nat) : Dev :=
  let m := d.moveRun die entry
  if m.state = 1 then d.setMove die entry { m with fail := code } else d

/-- Bytes that an entry counted as moved do not land, or not while it runs: DONE of the kinds that count bytes is less by them (R252). -/
def Dev.moveUncount (d : Dev) (die entry n : Nat) : Dev :=
  match d.moveList[entry]? with
  | none => d
  | some e => if e.kind = 3 ∨ e.kind = 4 then d else d.setMove die entry { d.moveRun die entry with done := (d.moveRun die entry).done - n }

/-- Accesses of an entry to other packages go on for nobody, and what they have not landed does not count. -/
def Dev.moverDetach (d : Dev) (die entry : Nat) : Dev :=
  let mine := fun (r : RemoteOp) => r.agent = Agent.mover die entry
  let n := ((d.remote.filter mine).map (·.len)).sum
  { d with remote := (d.remote.filter (fun r => !(mine r && r.isRead))).map (fun r =>
      if mine r then { r with agent := Agent.mover die 65535 } else r) }.moveUncount die entry n

/-- NVMe port of a number. -/
def Dev.nvPort (d : Dev) (port : Nat) : NvmePort := KMap.get {} d.nvme port

/-- Replaces it. -/
def Dev.setNvPort (d : Dev) (port : Nat) (v : NvmePort) : Dev := { d with nvme := KMap.set {} d.nvme port v }

/-- The commands of an entry outlive it (R449): they count as orphans. -/
def Dev.orphanCmds (d : Dev) (die entry port : Nat) : Dev :=
  let v := d.nvPort port
  let mine := fun (c : NvmeCmd) => c.die = die && c.entry = entry && !c.orphan
  let n := (v.cmds.filter mine).length
  let d := d.setNvPort port { v with cmds := v.cmds.map (fun c => if mine c then { c with orphan := true } else c) }
  d.inc d.sioDie (Reg.SIO_NVME_STATUS.ORPHANS.at 8 port) n

/-- An entry ends before all of its bytes have landed (R253, R254): DONE counts those that have. -/
def Dev.moveCut (d : Dev) (die entry : Nat) (e : MoveEntry) (status : Nat) : Dev :=
  let d := (d.moverDetach die entry).orphanCmds die entry e.port
  d.moveEnd die entry e (d.moveRun die entry) status

end Sys2Proof.Machine
end

