-- ==== Sys2Proof/Machine/HifOps.lean ====
section
/-! DEFINITION. Queues of the host interface (R493 to R515): fetch and acceptance, the engine, RUNs, completions, abort. -/

namespace Sys2Proof.Machine

/-- A queue. -/
def Dev.hq (d : Dev) (q : Nat) : HQueue := KMap.get {} d.hif.queues q

/-- Changes a queue. -/
def Dev.updHq (d : Dev) (q : Nat) (f : HQueue → HQueue) : Dev := d.updHif (fun h => { h with queues := KMap.upd {} h.queues q f })

/-- The queue is bound (R493) and its page is live (R490). -/
def Dev.hqLive (d : Dev) (q : Nat) : Bool := q < 2040 && d.sealed && d.rd 0 (Reg.HIF_Q_BIND.VALID.at 8 q) = 1

/-- Partition and run group of a queue (R526). -/
def Dev.hqPart (d : Dev) (q : Nat) : Nat := d.rd 0 (Reg.HIF_Q_BIND.PART.at 8 q)
def Dev.hqGroup (d : Dev) (q : Nat) : Nat := d.rd 0 (Reg.HIF_Q_BIND.GROUP.at 8 q)

/-- Fields of a command's header (R498). -/
def HCmd.opcode (c : HCmd) : Nat := fld c.slots 0 1
def HCmd.fence (c : HCmd) : Bool := bit (fld c.slots 1 1) 0
def HCmd.noIrq (c : HCmd) : Bool := bit (fld c.slots 1 1) 1
def HCmd.ptrs (c : HCmd) : Nat := fld c.slots 3 1
def HCmd.tag (c : HCmd) : Nat := fld c.slots 4 2
def HCmd.len (c : HCmd) : Nat := fld c.slots 12 4
def HCmd.addrA (c : HCmd) : Nat := fld c.slots 16 8
def HCmd.addrB (c : HCmd) : Nat := fld c.slots 24 8
def HCmd.inline (c : HCmd) : List Byte := c.slots.drop 32

/-- An IOVA that cannot be converted (R325, R500). -/
def badIova (a : Nat) : Bool := 2 ^ 46 ≤ a || (0x300000000000 ≤ a && a ≤ 0x3000FFFFFFFF)

/-- A pointer of a command as a DVA (R325). -/
def HCmd.dva (c : HCmd) (i : Nat) : Nat :=
  let a := if i = 0 then c.addrA else c.addrB
  if bit c.ptrs i then 2 ^ 46 + a else a

/-- The command names an IOVA (R513). -/
def HCmd.namesIova (c : HCmd) : Bool := c.ptrs % 4 ≠ 0

/-- The command keeps R498 and R499 (R500): header fields that an opcode does not use are zero. -/
def HCmd.valid (c : HCmd) : Bool :=
  let op := c.opcode
  let cap := c.slots.length - 32
  let flags := fld c.slots 1 1 < 4
  let iova := (!bit c.ptrs 0 || !badIova c.addrA) && (!bit c.ptrs 1 || !badIova c.addrB)
  let noA := c.addrA = 0 && !bit c.ptrs 0
  let noB := c.addrB = 0 && !bit c.ptrs 1
  flags && c.ptrs < 4 && iova &&
    (if op = 0 ∨ op = 1 then c.len = 0 && noA && noB
     else if op = 2 then c.len ≤ cap && noB
     else if op = 3 then c.len ≤ 0x40000000 && c.ptrs ≠ 3
     else if op = 4 then c.len ≤ 0x40000000 && noB
     else if op = 5 then c.len = 8 && c.ptrs = 0 && c.addrA % 8 = 0 && noB && 1 ≤ fld c.slots 32 1 && fld c.slots 32 1 ≤ 3
     else if op = 6 then c.len ≤ 480 && c.len ≤ cap
     else false)

/-- Commands that all queues hold (R506). -/
def Dev.hifAccepted (d : Dev) : Nat := d.hif.queues.foldl (fun n e => n + (e.2.accepted.filter (fun c => !c.torn)).length) 0

/-- The check of R506 on the slots that the device read from the next expected one: the command, or none. -/
def HQueue.check (v : HQueue) (seq crc : Nat) (slots : List (List Byte)) : Option HCmd :=
  match slots with
  | [] => none
  | s :: _ =>
    let n := fld s 2 1
    let left := (2 ^ 32 + seq - v.nextSeq) % 2 ^ 32 + 1
    let body := (slots.take n).flatMap (fun x => fitTo 128 x)
    let zeroed := body.take 6 ++ [0#8, 0#8] ++ body.drop 8
    let newest := fitTo 128 (slots.getD (n - 1) [])
    if 1 ≤ n ∧ n ≤ 4 ∧ n ≤ left ∧ n ≤ slots.length ∧ fld s 8 4 = v.nextSeq ∧ crc16 zeroed = fld s 6 2 ∧ (n < left ∨ crc16 newest = crc) then
      some { slots := body, seq := v.nextSeq }
    else none

/-- Commands not yet fetched lie up to the doorbell's slot. -/
def HQueue.behind (v : HQueue) : Bool :=
  match v.bell with
  | none => false
  | some b => v.nextSeq ≠ (b.1 + 1) % 2 ^ 32

/-- Accepts commands in turn until a limit, the doorbell's slot or a failing check; `fuel` bounds the commands. -/
def Dev.hifFetch (q : Nat) : Nat → List (List Byte) → Dev → Dev × Bool
  | 0, _, d => (d, false)
  | f + 1, slots, d =>
    let v := d.hq q
    match v.bell with
    | none => (d, false)
    | some b =>
      if !v.behind ∨ 64 ≤ (v.accepted.filter (fun c => !c.torn)).length ∨ 16384 ≤ d.hifAccepted then (d, false)
      else if slots.isEmpty then (d, false)
      else match v.check b.1 b.2 slots with
        | none => (d, true)
        | some c =>
          let n := c.slots.length / 128
          let d := d.updHq q (fun v => { v with accepted := v.accepted ++ [{ c with tick := d.tick }], nextSeq := (v.nextSeq + n) % 2 ^ 32, retries := 0 })
          Dev.hifFetch q f (slots.drop n) d

/-- Removes the first accepted command with its completion. -/
def Dev.hifDone (d : Dev) (q : Nat) (c : HCmd) (status done result : Nat) : Dev :=
  let e : HDone := { tag := if c.torn then 0xFFFF else c.tag, status := status, poison := c.poison, seq := c.seq, done := done, result := result,
                     tick := d.tick, fence := !c.torn && (c.fence || c.opcode = 1), noIrq := !c.torn && status ≠ 6 && c.noIrq }
  d.updHq q (fun v => { v with accepted := v.accepted.drop 1, compl := v.compl ++ [e] })

/-- What is under way for a queue's command in other packages is nobody's any longer: its reads are dropped, its writes go on. -/
def Dev.hifDetach (d : Dev) (q : Nat) : Dev :=
  { d with remote := (d.remote.filter (fun r => !(r.agent = Agent.hif q && r.isRead))).map (fun r =>
      if r.agent = Agent.hif q then { r with agent := Agent.hif 0xFFFF } else r) }

/-- Completes what needs no engine at the head of a queue: torn markers (R506), and commands that name the host while it is lost (R513). -/
def Dev.hifFlush (q : Nat) : Nat → Dev → Dev
  | 0, d => d
  | f + 1, d =>
    let v := d.hq q
    match v.accepted with
    | [] => d
    | c :: _ =>
      if c.torn then Dev.hifFlush q f (d.hifDone q c 5 0 0)
      else if v.state = 5 ∧ c.namesIova ∧ !c.handed then Dev.hifFlush q f ((if c.started then d.hifDetach q else d).hifDone q c 6 c.done 0)
      else d

/-- Flushes a queue's head. -/
def Dev.hifSettle (d : Dev) (q : Nat) : Dev := Dev.hifFlush q (d.hq q).accepted.length d

/-- COMMAND_FETCH and COMMAND_REREAD (R506): the fifth failing read makes the queue TORN. -/
def Dev.hifRead (d : Dev) (q : Nat) (slots : List (List Byte)) : Dev :=
  let (d, failed) := Dev.hifFetch q (slots.length + 1) slots d
  if !failed then d
  else
    let d := d.updHq q (fun v => { v with retries := v.retries + 1 })
    let v := d.hq q
    if v.retries < 5 then d
    else
      let d := d.updHq q (fun v => { v with state := 3, retries := 0, tornSeq := v.nextSeq, tornCount := satAdd 16 v.tornCount 1,
                                            accepted := v.accepted ++ [{ torn := true, seq := v.nextSeq }] })
      d.hifSettle q

/-- A doorbell (R505, R506). -/
def Dev.hifBell (d : Dev) (q seq crc : Nat) : Dev :=
  let v := d.hq q
  if !d.hqLive q ∨ (v.state ≠ 2 ∧ v.state ≠ 3) then d
  else if v.bell.map (·.1) = some seq then d
  else
    let dist := (2 ^ 32 + seq - (2 ^ 32 + v.nextSeq - 1) % 2 ^ 32) % 2 ^ 32
    if dist = 0 ∨ v.depth < dist then d.updHq q (fun v => { v with dbErr := satAdd 16 v.dbErr 1 })
    else d.updHq q (fun v => { v with bell := some (seq, crc), state := 2, retries := min v.retries 1 })

/-- Slot end of an entry (R53): the earliest over the perches of its group. -/
def Dev.slotEnd (d : Dev) (e : SpanEntry) : Nat :=
  let g := d.groupMap e
  ((d.sched.entriesAt d.tick).filter (fun f => e.startNs < f.startNs && d.groupMap f &&& g ≠ 0)).foldl (fun n f => min n f.startNs) d.tailGuard

/-- The host spans of a partition in the current pattern. -/
def Dev.hostSpans (d : Dev) (part : Nat) : List SpanEntry := (d.sched.entriesAt d.tick).filter (fun e => e.kind = 2 && e.partition = part)

/-- End of the host window that holds a time, if one does (R502). -/
def Dev.windowEnd (d : Dev) (part t : Nat) : Option Nat :=
  ((d.hostSpans part).filter (fun e => e.startNs ≤ t && t < d.slotEnd e)).foldl (fun m e => some (max (m.getD 0) (d.slotEnd e))) none

/-- The engine's requester for a queue (R348, R626 UNIT 35). -/
def hifXq (part req : Nat) : Xq := { mmu := mmuHif, part := part, unit := 35, req := req, die := 0 }

/-- The completion ring has room for one more entry (R507); a detached queue holds up to DEPTH entries (R513). -/
def HQueue.credit (v : HQueue) : Bool := if v.state = 5 then v.compl.length < v.depth else v.written + v.compl.length - v.cqHead < v.depth

/-- The head of a queue is a command for the engine that may start or go on (R502, R507, R513). -/
def Dev.hifEligible (d : Dev) (q : Nat) : Bool :=
  let v := d.hq q
  match v.accepted with
  | [] => false
  | c :: _ => d.hqLive q && (v.state = 2 || v.state = 3 || v.state = 5) && !c.torn && c.tick < d.tick && !(c.opcode = 6 && c.valid)
      && (c.started || v.credit) && !d.awaits (.hif q)

/-- A queue of the partition has a command under way. -/
def Dev.hifBusy (d : Dev) (part : Nat) : Option Nat :=
  (d.hif.queues.find? (fun e => d.hqPart e.1 = part && (e.2.accepted.head?.map (·.started)).getD false)).map (·.1)

/-- The queue that the engine serves for a partition (R502): the one under way, else the next eligible one in turn. -/
def Dev.hifTurn (d : Dev) (part : Nat) : Option Nat :=
  match d.hifBusy part with
  | some q => some q
  | none =>
    let qs := (d.hif.queues.map (·.1)).filter (fun q => d.hqPart q = part && d.hifEligible q)
    let last := KMap.get 0 d.hif.last part
    match qs.find? (fun q => last ≤ q) with
    | some q => some q
    | none => qs.head?

/-- Changes the command at the head of a queue. -/
def Dev.updHead (d : Dev) (q : Nat) (f : HCmd → HCmd) : Dev :=
  d.updHq q (fun v => { v with accepted := match v.accepted with
    | c :: t => f c :: t
    | [] => [] })

/-- Completes the command under way once its accesses to other packages have ended (R507, R508). -/
def Dev.hifFinish (d : Dev) (q : Nat) : Dev :=
  match (d.hq q).accepted with
  | c :: _ =>
    if !c.started ∨ c.handed ∨ d.awaits (.hif q) ∨ (c.fail = 0 ∧ c.done + c.lost < c.len) then d
    else (d.hifDone q c (if c.fail ≠ 0 then c.fail else if c.lost = 0 then 0 else 8) c.done c.result).hifSettle q
  | [] => d

/-- Bytes the engine can move before the window ends, in whole 4 KiB (R502). -/
def Dev.hifRoom (d : Dev) (part left : Nat) : Nat :=
  match d.windowEnd part d.elapsed with
  | none => 0
  | some e => if left ≤ (e - d.elapsed) * 100 then left else alignDown ((e - d.elapsed) * 100) 4096

/-- Moves the rest of a command's data (R499, R502, R508): from `src`, or zeros, or inline bytes. Where a home holds a piece, it stops there until it is tried
again (R264, R310). -/
def Dev.hifMove (d : Dev) (q : Nat) (c : HCmd) (src : Option Nat) (inline : List Byte) (ext : Ext) : Dev :=
  let part := d.hqPart q
  let x := hifXq part q
  let agent := Agent.hif q
  let pos := c.done + c.lost
  let left := c.len - pos
  let s : Except (Nat × Nat) (List (Nat × Nat)) × Dev := match src with
    | some a => d.translateRange x (a + pos) left axRead
    | none => (.ok [], d)
  match s with
  | (.error _, d) => (d.hifDone q c 2 c.done 0).hifSettle q
  | (.ok sp, d) =>
    match d.translateRange x (c.dva 0 + pos) left axWrite with
    | (.error _, d) => (d.hifDone q c 2 c.done 0).hifSettle q
    | (.ok dp, d) =>
      let n := d.hifRoom part left
      let cut := fun (ps : List (Nat × Nat)) => (splitDest (ps.length + 1) n ps).1
      let (run, d) := match src with
        | some _ => d.copyPieces agent (x.rq false false) ({ ext := ext } : CopyRun) (cut sp) (cut dp)
        | none => d.putPieces agent (x.rq false false) {} (cut dp) (clean (if inline.isEmpty then List.replicate n 0#8 else (inline.drop pos).take n))
      let d := d.passNs (run.moved / 100)
      let c := { c with started := true, done := c.done + run.moved - run.lost, lost := c.lost + run.lost, poison := c.poison || run.poison,
                        fail := if run.fail = moveHeld then 0 else if run.fail = 0 then 0 else 3 }
      (d.updHead q (fun _ => c)).hifFinish q

/-- ATOMIC (R499): an 8-byte AMO at its home, or at another package. -/
def Dev.hifAtomic (d : Dev) (q : Nat) (c : HCmd) : Dev :=
  let x := hifXq (d.hqPart q) q
  let op := fld c.slots 32 1
  let operand := fld c.slots 40 8
  let compare := fld c.slots 48 8
  match d.translate x (c.dva 0) axAtomic with
  | (.error _, d) => (d.hifDone q c 2 0 0).hifSettle q
  | (.ok t, d) =>
    match d.localOf t with
    | some pa =>
      let rq := x.rq false false
      (match d.region pa with
        | .stacked | .fathom =>
          (match d.accFault rq pa with
            | some k => ((d.accErr 0 k rq pa).hifDone q c 3 0 0).hifSettle q
            | none =>
              if d.homeFull rq (fun _ => false) t 8 then d.updHead q (fun c => { c with started := true })
              else
              let (old, d) := d.homeAmo rq pa 8 (if op = 1 then .add else if op = 2 then .swap else .cas) operand compare
              (d.hifDone q { c with poison := anyPoison old } 0 8 (leNat (plain old))).hifSettle q)
        | _ => ((d.accErr 0 3 rq pa).hifDone q c 3 0 0).hifSettle q)
    | none =>
      if d.remoteUp (t / 2 ^ 48) then
        let (tag, d) := d.takeTag
        let p := d.packetTo 3 (t / 2 ^ 48) x.part tag t 8
        let kind : AmoOp := if op = 1 then .add else if op = 2 then .swap else .cas
        let d := d.issueRemote (.hif q) { p with payload := leBytes 8 (amoToNat kind) ++ leBytes 8 operand ++ leBytes 8 compare } 8 true []
        d.updHead q (fun c => { c with started := true })
      else
        let (w, d) := (d.inc 0 Reg.LINK_LOSS.POISON_RD 1).free
        (d.hifDone q { c with poison := true } 0 8 (w % 2 ^ 64)).hifSettle q

/-- Executes the command at the head of a queue where the engine serves it now (R502). -/
def Dev.hifExec (d : Dev) (q : Nat) (ext : Ext) : Dev :=
  let part := d.hqPart q
  match (d.hq q).accepted with
  | [] => d
  | c :: _ =>
    if !d.hifEligible q ∨ d.hifTurn part ≠ some q ∨ !d.hif.windows.contains part ∨ (d.windowEnd part d.elapsed).isNone then d
    else
      let d := d.updHif (fun h => { h with last := KMap.set 0 h.last part (q + 1), worked := q :: h.worked.filter (· ≠ q) })
      if !c.valid then (d.hifDone q c 1 0 0).hifSettle q
      else if c.opcode = 5 then d.hifAtomic q c
      else if c.len = 0 then (d.hifDone q c 0 0 0).hifSettle q
      else if c.opcode = 2 then d.hifMove q c none (c.inline.take c.len) ext
      else if c.opcode = 4 then d.hifMove q c none [] ext
      else d.hifMove q c (some (c.dva 1)) [] ext

/-- The row that serves the head of a queue: its opcode; an undefined opcode, and a RUN that breaks R499, are taken by the NOP row, as no row names them. -/
def Dev.hifHead (d : Dev) (q : Nat) : Option Nat := (d.hq q).accepted.head?.map (fun c => if c.opcode ≤ 5 then c.opcode else 0)

/-- The work record of a RUN (R503). -/
def workRecord (tick q : Nat) (c : HCmd) : List Byte :=
  leBytes 8 tick ++ leBytes 2 q ++ leBytes 2 c.tag ++ leBytes 4 c.len ++ leBytes 8 (c.dva 0) ++ leBytes 8 (c.dva 1) ++ fitTo 480 (c.inline.take c.len)

/-- The host span entry of a run group: in the current pattern, else in the schedule. -/
def Dev.groupEntry (d : Dev) (g : Nat) : Option SpanEntry :=
  match (d.sched.entriesAt d.tick).find? (fun e => e.kind = 2 && e.contId = g) with
  | some e => some e
  | none => d.sched.spans.find? (fun e => e.kind = 2 && e.contId = g)

/-- A queue whose head is an eligible RUN (R502). -/
def Dev.runReady (d : Dev) (q : Nat) : Bool :=
  let v := d.hq q
  match v.accepted with
  | [] => false
  | c :: _ => d.hqLive q && (v.state = 2 || v.state = 3 || v.state = 5) && !c.torn && c.opcode = 6 && c.valid && c.tick < d.tick && !c.handed
      && v.credit

/-- Hands the next RUN to a group at a boundary, in round-robin order (R503); where a home holds its work record (R264), at a later one. -/
def Dev.runHandover (d : Dev) (g : Nat) : Dev :=
  if (KMap.get {} d.runs g).queue.isSome then d
  else
    let qs := (d.hif.queues.map (·.1)).filter (fun q => d.hqGroup q = g && d.runReady q)
    let last := KMap.get 0 d.hif.lastRun g
    let pick := match qs.find? (fun q => last ≤ q) with
      | some q => some q
      | none => qs.head?
    match pick, d.groupEntry g with
    | some q, some e =>
      match (d.hq q).accepted with
      | [] => d
      | c :: _ =>
        let d0 := d
        let d := d.updHif (fun h => { h with lastRun := KMap.set 0 h.lastRun g (q + 1), worked := q :: h.worked.filter (· ≠ q) })
        let x := hifXq e.partition q
        (match d.translateRange x e.argDva 512 axWrite with
          | (.error _, d) => (d.hifDone q c 2 0 0).hifSettle q
          | (.ok ps, d) =>
            if ps.any (fun t => d.homeFull (x.rq false false) (fun _ => false) t.1 t.2) then d0
            else
            let (run, d) := d.putPieces (.hif 0xFFFF) (x.rq false true) {} ps (clean (workRecord d.tick q c))
            if run.fail ≠ 0 then (d.hifDone q c 3 0 0).hifSettle q
            else
              let d := { d with runs := KMap.set {} d.runs g { queue := some q } }
              d.updHead q (fun c => { c with started := true, handed := true }))
    | _, _ => d

/-- Every run group with a bound queue. -/
def Dev.runGroups (d : Dev) : List Nat := d.hif.queues.foldl (fun l e => let g := d.hqGroup e.1; if l.contains g then l else l ++ [g]) []

/-- The RUN of a queue ends (R504), once no home holds the read of its result (R264); `ext` brings RESULT and KSTATUS where they stand outside the package. -/
def Dev.runEnd (d : Dev) (q : Nat) (ext : Ext) : Dev :=
  let g := d.hqGroup q
  let r := KMap.get {} d.runs g
  match (d.hq q).accepted with
  | [] => d
  | c :: _ =>
    if r.queue ≠ some q ∨ r.outcome = 0xFF ∨ !c.handed then d
    else
      let d0 := d
      let d := { d with runs := KMap.set {} d.runs g {} }
      if r.outcome ≠ ocCompleted then (d.hifDone q c 7 0 0).hifSettle q
      else match d.groupEntry g with
        | none => (d.hifDone q c 7 0 0).hifSettle q
        | some e =>
          let x := hifXq e.partition q
          if match (d.translateRange x (e.argDva + 512) 12 axRead).1 with
            | .ok ps => ps.any (fun t => d.homeFull (x.rq false false) (fun _ => false) t.1 t.2)
            | .error _ => false then d0
          else
          (match d.dvaRead x (x.rq false false) none ext (e.argDva + 512) 12 with
            | (b, none, d) =>
              let v := plain b
              (d.hifDone q { c with poison := anyPoison b } (if fld v 8 4 = 0 then 0 else 7) 0 (fld v 0 8)).hifSettle q
            | (_, some _, d) => (d.hifDone q c 7 0 0).hifSettle q)

/-- The 32-byte completion entry (R507). -/
def HQueue.entry (v : HQueue) (e : HDone) : List Byte :=
  let phase := 1 - v.written / max 1 v.depth % 2
  leBytes 2 e.tag ++ leBytes 1 e.status ++ leBytes 1 (phase + 2 * b2n e.poison) ++ leBytes 4 e.seq ++ leBytes 4 v.nextSeq ++ leBytes 4 e.done
    ++ leBytes 8 e.result ++ leBytes 8 e.tick

/-- The vector of a queue is due: sent, or kept for the end of the hold-off (R510). -/
def Dev.hifVector (d : Dev) (q : Nat) : Dev :=
  let v := d.hq q
  if v.holding then d.updHq q (fun v => { v with irqDue := true })
  else (d.updHq q (fun v => { v with holding := decide (0 < v.holdoff) })).sendVector (8 + q)

/-- Writes the oldest completion while the host has credit (R507). -/
def Dev.hifComplete (d : Dev) (q : Nat) : Dev :=
  let v := d.hq q
  match v.compl with
  | [] => d
  | e :: t =>
    if !d.hqLive q ∨ !d.hostOk ∨ (v.state ≠ 2 ∧ v.state ≠ 3 ∧ v.state ≠ 4) ∨ v.depth ≤ v.written - v.cqHead then d
    else
      let d := d.emit (.completion (v.cqBase + 32 * (v.written % max 1 v.depth)) (v.entry e) (!e.fence))
      let d := d.updHq q (fun v => { v with compl := t, written := v.written + 1 })
      if e.noIrq then d else d.hifVector q

/-- The bases of rings are allowed (R496). -/
def ringOk (a : Nat) : Bool := a % 4096 = 0 && !badIova a

/-- ENABLE by the registers of the page (R496). -/
def Dev.hifEnable (d : Dev) (q : Nat) : Dev :=
  if !d.hqLive q then d
  else
    let v := d.hq q
    let n := v.depthReg
    let pow : Bool := (List.range 9).any (fun i => n = 2 ^ (i + 4))
    if v.state = 1 ∧ pow ∧ n ≤ d.rd 0 (Reg.HIF_Q_BIND.MAX_DEPTH.at 8 q) ∧ ringOk v.sqBase ∧ ringOk v.cqBase then
      d.updHq q (fun v => { v with state := 2, depth := n, nextSeq := 0, bell := none, retries := 0, accepted := [], compl := [], written := 0, cqHead := 0,
                                   dbErr := 0, tornCount := 0, tornSeq := 0, holding := false, irqDue := false })
    else d.updHq q (fun v => { v with opRej := true })

/-- DISABLE (R530). -/
def Dev.hifDisable (d : Dev) (q : Nat) : Dev :=
  let v := d.hq q
  if !d.hqLive q then d
  else if (v.state = 2 ∨ v.state = 3) ∧ v.accepted.isEmpty ∧ v.compl.isEmpty then d.updHq q (fun v => { v with state := 1 })
  else d.updHq q (fun v => { v with opRej := true })

/-- RESUME by the registers of the page (R514). -/
def Dev.hifResume (d : Dev) (q : Nat) : Dev :=
  if !d.hqLive q then d
  else
    if (d.hq q).state = 5 ∧ d.hostOk ∧ ringOk (d.hq q).sqBase ∧ ringOk (d.hq q).cqBase then d.updHq q (fun v => { v with state := 2, written := 0, cqHead := 0, bell := none, retries := 0 })
    else d.updHq q (fun v => { v with opRej := true })

/-- A write of HIF_Q_CQ_HEAD (R529). -/
def Dev.hifCqHead (d : Dev) (q h : Nat) : Dev :=
  let v := d.hq q
  if !d.hqLive q then d
  else
    let step := (2 ^ 32 + h % 2 ^ 32 - v.cqHead % 2 ^ 32) % 2 ^ 32
    if step ≤ v.written - v.cqHead then d.updHq q (fun v => { v with cqHead := v.cqHead + step })
    else d.updHq q (fun v => { v with dbErr := satAdd 16 v.dbErr 1 })

/-- Ends the RUN that a queue's abort discards (R511 step 3). -/
def Dev.hifAbortRun (d : Dev) (q : Nat) : Dev :=
  let g := d.hqGroup q
  if (KMap.get {} d.runs g).queue ≠ some q then d
  else
    let d := match d.groupEntry g with
      | none => d
      | some e =>
        let i := d.span e.spanId
        let d := if 0 < i.running then d.setSpan e.spanId { i with aborted := true } else d
        let mine := (List.range d.perchCount).filter (fun p => d.runs? p && (d.perch p).spanId = e.spanId)
        let d := mine.foldl (fun (d : Dev) p => d.shed p ocDiscarded 4) d
        d.discardCont g
    { d with runs := KMap.set {} d.runs g {} }

/-- A write of HIF_Q_ABORT (R511). -/
def Dev.hifAbort (d : Dev) (q : Nat) : Dev :=
  let v := d.hq q
  if !d.hqLive q ∨ (v.state ≠ 2 ∧ v.state ≠ 3 ∧ v.state ≠ 5) then d
  else
    let detached : Bool := decide (v.state = 5)
    let d := d.updHq q (fun v => { v with state := 4, busy := true, bell := none, retries := 0, compl := if detached then [] else v.compl })
    let handed : Bool := (v.accepted.head?.map (·.handed)).getD false
    let d := if handed then d.hifAbortRun q else d
    let d := d.hifDetach q
    let d := v.accepted.foldl (fun d c => d.hifDone q c (if c.torn then 5 else 4) (if c.started then c.done else 0) 0) d
    if detached then d.updHq q (fun v => { v with compl := [] }) else d

/-- The abort ends once its completions are written (R511 step 5). -/
def Dev.hifAbortDone (d : Dev) (q : Nat) : Dev :=
  let v := d.hq q
  if v.state = 4 ∧ v.compl.isEmpty then d.updHq q (fun v => { v with state := 1, busy := false }) else d

/-- The host is lost (R513). -/
def Dev.hostLost (d : Dev) : Dev :=
  let d := d.wr 0 Reg.HIF_ATTACH.STATE 2
  (d.hif.queues.map (·.1)).foldl (fun d q =>
    if (d.hq q).state = 2 ∨ (d.hq q).state = 3 ∨ (d.hq q).state = 4 then
      (d.updHq q (fun v => { v with state := 5, busy := false, retries := 0, holding := false, irqDue := false })).hifSettle q
    else d) d

end Sys2Proof.Machine
end

