-- ==== Sys2Proof/Machine/Remote.lean ====
section
/-! DEFINITION. How accesses to other packages end (R308, R312 to R315): acknowledged, answered, or declared lost. -/

namespace Sys2Proof.Machine

/-- A steward core loses a remote store (R315, R468, R476, R628). -/
def Dev.hartLost (d : Dev) (h addr : Nat) : Dev :=
  let d := d.updHart h (fun t =>
    let v := KMap.get 0 t.csr 0x7C3
    let n := satAdd 16 (v / 2 ^ 48) 1 * 2 ^ 48 + (if v / 2 ^ 48 = 0 then addr % 2 ^ 48 else v % 2 ^ 48)
    { t with csr := KMap.set 0 (KMap.set 0 t.csr 0x7C3 n) 0x344 (KMap.get 0 t.csr 0x344 ||| 2 ^ 35) })
  let die := h / 64
  if d.rd die Reg.RAS_LOST_ADDR.VALID = 1 then d
  else ((d.wr die Reg.RAS_LOST_ADDR.VALID 1).wr die Reg.RAS_LOST_ADDR.HART (h % 64)).wr die Reg.RAS_LOST_ADDR.ADDR addr

/-- The bytes of a remote write that ends count toward what issued it. -/
def Dev.settleWrite (d : Dev) (o : RemoteOp) (lost : Bool) : Dev :=
  let lines := if lost then (lineSegs o.addr o.len).length else 0
  match o.agent with
  | .dma p c t =>
    if 8 ≤ c then d
    else if lost then d.descLost p c t lines
    else d.updDesc p c t (fun x => { x with landed := x.landed + o.len })
  | .susp cont p c t => d.updCont cont (fun k => { k with
      memloss := if lost then KMap.upd 0 k.memloss p (fun m => addLost m lines) else k.memloss, settled := k.settled ++ [(p, c, t, o.len, lost)] })
  | .hart h =>
    let d := d.updHart h (fun t => { t with remote := t.remote.eraseP (fun r => r.tag = o.tag) })
    if lost then d.hartLost h o.addr else d
  | .mover die entry => if lost ∧ entry ≠ 65535 then d.moveUncount die entry o.len else d
  | .hif q =>
    if q = 0xFFFF then d
    else
      let d := if lost then d.updHead q (fun c => { c with done := c.done - o.len, lost := c.lost + o.len }) else d
      d.hifFinish q
  | .coll _ id k member _ => d.collWritten id k member

/-- A remote write has been acknowledged, or is declared lost (R312, R426, R609). -/
def Dev.writeEnds (d : Dev) (o : RemoteOp) (lost : Bool) : Dev :=
  let d : Dev := { d with remote := d.remote.erase o }
  let d := if lost then (d.inc (o.plane / 4) Reg.LINK_LOSS.LOST_WR 1).raiseErr o.agent.die 10 else d
  (d.settleWrite o lost).releaseHeld o.pkg

/-- Writes the data of a read answered where they belong: the lines lost at once where that is another package that cannot be reached. -/
def Dev.landRead (d : Dev) (o : RemoteOp) (q : Rq) (chain : Option (Nat × Nat)) (v : List PByte) : Nat × Dev :=
  (o.dest.foldl (fun (r : List PByte × Nat × Dev) t =>
    let (_, n, d) := r.2.2.writeTarget o.agent q chain t.1 (r.1.take t.2)
    (r.1.drop t.2, r.2.1 + n, d)) (v, 0, d)).2

/-- The data of a read answered go on to the destination of a DMA descriptor, which goes on behind them (R99, R313). -/
def Dev.landDma (d : Dev) (o : RemoteOp) (p c t : Nat) (v : List PByte) : Dev :=
  (o.dest.foldl (fun (r : List PByte × Dev) z => (r.1.drop z.2, (r.2.dmaPut p c t true z.1 (r.1.take z.2)).2)) (v, d)).2.dmaAdvance p c none

/-- A remote read or AMO ends with data (R308, R313, R399). -/
def Dev.settleRead (d : Dev) (o : RemoteOp) (v : List PByte) : Dev :=
  match o.agent with
  | .dma p c t =>
    if 8 ≤ c then d
    else (if anyPoison v then d.updPerch p (fun x => { x with memloss := x.memloss ||| 2 ^ 29 }) else d).landDma o p c t v
  | .susp .. => d
  | .hart h =>
    match (d.hart h).stall with
    | .amo width rd va =>
      let d := d.updHart h (fun t => { t with stall := .none })
      if anyPoison v then (d.accErr (h / 64) 5 { unit := 128 + h, die := h / 64 } (o.addr + 2 ^ 60 - d.pkgId * 2 ^ 48)).hartTrap h 7 va
      else
        let n := leNat (plain v) % 2 ^ (8 * width)
        d.updHart h (fun t => { t with core := { t.core.sx 64 rd (ofSigned 64 (toSigned (8 * width) n)) with pc := (t.core.pc + 4) % 2 ^ 64 } }.count)
    | .load left => d.updHart h (fun t => { t with stall := if left ≤ 1 then .none else .load (left - 1), got := t.got ++ [(o.addr, v)] })
    | _ => d
  | .mover die entry =>
    let (n, d) := d.landRead o ((Dev.moverXq die (d.moveRun die entry).slot ((((d.moveList)[entry]?).map (·.partition)).getD 0)).rq false false) none v
    if n ≠ 0 ∧ entry ≠ 65535 then d.moveUncount die entry o.len else d
  | .hif q =>
    if q = 0xFFFF then d.emit (.tlpData (plain v) (anyPoison v))
    else
      let d := d.updHead q (fun c => { c with poison := c.poison || anyPoison v })
      let d := if o.dest.isEmpty then d.updHead q (fun c => { c with result := leNat (plain v), done := 8 })
        else
          let (n, d) := d.landRead o ((hifXq (d.hqPart q) q).rq false false) none v
          if n = 0 then d else d.updHead q (fun c => { c with done := c.done - o.len, lost := c.lost + o.len })
      d.hifFinish q
  | .coll _ id k member part => d.collArrive id k member part o.pos v

/-- A remote read or AMO has been answered (R399). -/
def Dev.readEnds (d : Dev) (o : RemoteOp) (v : List PByte) : Dev :=
  let d : Dev := { d with remote := d.remote.erase o }
  let d := if anyPoison v then d.inc (o.plane / 4) Reg.LINK_LOSS.POISON_RD 1 else d
  (d.settleRead o v).releaseHeld o.pkg

/-- An access is declared lost (R312): a read completes with poisoned data. -/
def Dev.opLost (d : Dev) (o : RemoteOp) : Dev :=
  if o.isRead then
    let (v, d) := d.poisonBytes o.len
    d.readEnds o v
  else d.writeEnds o true

/-- Declares lost every access that a predicate names. -/
def Dev.loseOps (d : Dev) (p : RemoteOp → Bool) : Dev := (d.remote.filter p).foldl (fun d o => if d.remote.contains o then d.opLost o else d) d

/-- The set of planes toward a package changes (R403, R412, R413): accesses on a plane that is gone are lost, all of them where no plane is left. -/
def Dev.setPlanes (d : Dev) (id e : Nat) : Dev :=
  if d.planesTo id = e then d
  else
    let d := d.wr 0 (Reg.LINK_ROUTE.PLANES.at 8 id) e
    let d : Dev := if e = 0 ∧ !d.noPlane.contains id then { d with noPlane := d.noPlane ++ [id] } else d
    let d : Dev := if e = 0 ∧ !d.league.cut.contains id then { d with league := { d.league with cut := d.league.cut ++ [id] } } else d
    let d : Dev := { d with remote := d.remote.map (fun o => if o.pkg = id ∧ o.held.isNone then { o with old := true } else o) }
    (d.loseOps (fun o => o.pkg = id && (e = 0 || (o.held.isNone && !bit e o.plane)))).releaseHeld id

end Sys2Proof.Machine
end

