-- ==== Sys2Proof/Machine/LinkOps.lean ====
section
/-! DEFINITION. Link ports, identity checks, and the packets that a package serves (R385 to R405). -/

namespace Sys2Proof.Machine

/-- A field of the port of a plane: plane 4 i + k is port k of steward die i (R385, R420). -/
def portFld (f : Fld) (plane : Nat) : Fld := f.at 0x20 (plane % 4)

/-- Reads a port field of a plane. -/
def Dev.portRd (d : Dev) (plane : Nat) (f : Fld) : Nat := d.rd (plane / 4) (portFld f plane)

/-- Writes a port field of a plane. -/
def Dev.portWr (d : Dev) (plane : Nat) (f : Fld) (v : Nat) : Dev := d.wr (plane / 4) (portFld f plane) v

/-- Planes of the part (R385). -/
def Dev.planes (d : Dev) : Nat := if d.sh4 then 4 else 8

/-- The plane of a die's local port, where the part has it. -/
def Dev.planeOf (d : Dev) (die port : Nat) : Option Nat := if port < 4 ∧ die * 4 + port < d.planes then some (die * 4 + port) else none

/-- Port states (R390). -/
def psDown : Nat := 0
def psTraining : Nat := 1
def psConfig : Nat := 2
def psUp : Nat := 3
def psQuarantined : Nat := 4
def psFenced : Nat := 5

/-- State of the port of a plane. -/
def Dev.portState (d : Dev) (plane : Nat) : Nat := d.portRd plane Reg.LINK_PORT_STATUS.STATE

/-- The planes whose port is UP here, as a bit set. -/
def Dev.upPlanes (d : Dev) : Nat := (List.range d.planes).foldl (fun n p => if d.portState p = psUp then n + 2 ^ p else n) 0

/-- Package IDs of the route table that are valid and not this package's. -/
def Dev.peerIds (d : Dev) : List Nat := (List.range 64).filter (fun i => i ≠ d.pkgId && d.rd 0 (Reg.LINK_ROUTE.VALID.at 8 i) = 1)

/-- A port comes UP: its plane joins the set of planes toward every package whose port on it has not gone down (R402), but for one that has become unreachable,
which stays so until its route changes (R413). -/
def Dev.portUp (d : Dev) (plane : Nat) : Dev :=
  let d := d.portWr plane Reg.LINK_PORT_STATUS.STATE psUp
  (d.peerIds.filter (fun i => !d.league.cut.contains i && !bit (KMap.get 0 d.league.peerDown i) plane)).foldl
    (fun d i => d.setPlanes i (d.planesTo i ||| 2 ^ plane)) d

/-- A port leaves UP: its plane leaves every set (R412). -/
def Dev.portGone (d : Dev) (plane : Nat) : Dev := d.peerIds.foldl (fun d i => d.setPlanes i (d.planesTo i - (d.planesTo i &&& 2 ^ plane))) d

/-- The charter digest (R565) as a number of 384 bits. -/
def Dev.digest (d : Dev) : Nat :=
  (List.range 6).foldl (fun n i => n + d.rd 0 (Reg.GLB_CHARTER_DIGEST.DIGEST.at 8 i) * 2 ^ (64 * i)) 0

/-- The slot entry of this package. -/
def Dev.ownSlot (d : Dev) : SlotEntry := d.charter.topo.slots.getD (d.rd 0 Reg.LINK_CFG.SLOT) {}

/-- The IDENT record that this package sends on a plane (R391). -/
def Dev.ownIdent (d : Dev) (plane : Nat) : Ident :=
  { kind := 1, port := plane, plane := plane, slot := d.rd 0 Reg.LINK_CFG.SLOT, major := Config.protoMajor.toNat, minor := Config.protoMinor.toNat, cause := 0,
    serial := d.ownSlot.serial, fwVersion := d.rd 0 Reg.BOOT_CHARTER.FW_VERSION, digest := d.digest }

/-- Sends the IDENT record on a plane. -/
def Dev.sendIdent (d : Dev) (plane : Nat) : Dev := d.emit (.ident (plane / 4) (plane % 4) (d.ownIdent plane))

/-- The cause for which an IDENT quarantines a port (R392, R393, R427); none where it passes. -/
def Dev.identCause (d : Dev) (plane : Nat) (r : Ident) : Option Nat :=
  if r.kind ≠ 2 then some 6
  else if r.plane ≠ plane ∨ r.port ≠ d.rd 0 Reg.LINK_CFG.SLOT then some 1
  else if r.serial ≠ d.charter.topo.switchSerial.getD plane 0 then some 2
  else if r.major ≠ Config.protoMajor.toNat then some 3
  else if r.digest ≠ 0 ∧ r.digest ≠ d.digest then some 4
  else if r.cause ≠ 0 then some 7
  else none

/-- Raises the link event (R386, R395, R414, R474): vector 2 and APLIC source 3. -/
def Dev.linkEvent (d : Dev) : Dev := d.stewardDies.foldl (fun d die => d.aplic die 3) (d.raiseEvent 2)

/-- The manager of a league (R388). -/
def Dev.isManager (d : Dev) : Bool := d.rd 0 Reg.LINK_CFG.ROLE = 1

/-- Records what an IDENT shows of the peer (R396, R427, R428). -/
def Dev.noteIdent (d : Dev) (plane : Nat) (r : Ident) : Dev :=
  let d := (((((d.portWr plane Reg.LINK_PORT_STATUS.PEER_PLANE r.plane).portWr plane Reg.LINK_PORT_STATUS.PEER_PORT r.port).portWr plane
    Reg.LINK_PORT_STATUS.PEER_MAJOR r.major).portWr plane Reg.LINK_PORT_STATUS.MINOR_RUN (min r.minor Config.protoMinor.toNat)).portWr plane
    Reg.LINK_PORT_PEER.SERIAL r.serial)
  { d with league := { d.league with idents := KMap.set none d.league.idents plane (some r) } }

/-- Quarantines a port (R392, R395). -/
def Dev.quarantine (d : Dev) (plane cause : Nat) : Dev :=
  let was := d.portState plane
  let d := (d.portWr plane Reg.LINK_PORT_STATUS.STATE psQuarantined).portWr plane Reg.LINK_PORT_STATUS.QCAUSE cause
  let d := if was = psUp then d.portGone plane else d
  if d.isManager then d.linkEvent else d

/-- The types of packets (R399). -/
def packetTypes : List Nat := [1, 2, 3, 0x81, 0x82, 0x83, 0x10, 0x11, 0x20, 0x21, 0x30, 0x31, 0x32, 0x33, 0x34]

/-- The drop counter of a packet that fails a check of R405 at the receiving package; none where it passes. -/
def Dev.packetDrop (d : Dev) (p : Packet) : Option Fld :=
  let src := p.srcPkg % 64
  if d.rd 0 (Reg.LINK_ROUTE.VALID.at 8 src) = 0 then some Reg.LINK_DROP.SOURCE
  else if p.slice ≠ d.rd 0 (Reg.LINK_ROUTE.SLICE.at 8 src) ∨ p.slice ≠ d.rd 0 Reg.LINK_CFG.SLICE then some Reg.LINK_DROP.SLICE
  else if p.epoch = 0 ∨ p.epoch ≠ d.rd 0 (Reg.LINK_ROUTE.EPOCH.at 8 src) then some Reg.LINK_DROP.STALE_EPOCH
  else if p.dstPkg ≠ d.pkgId then some Reg.LINK_DROP.FENCED
  else none

/-- A packet of a type arrives at a port: checked, and taken by `f` with the plane. -/
def Dev.receive (d : Dev) (die port type : Nat) (p : Packet) (f : Dev → Nat → Dev) : Dev :=
  match d.planeOf die port with
  | none => d
  | some plane =>
    if d.portState plane ≠ psUp then d
    else if p.type ≠ type then (if packetTypes.contains p.type then d else d.inc die Reg.LINK_DROP.SOURCE 1)
    else match d.packetDrop p with
      | some c => d.inc die c 1
      | none => f d plane

/-- A page or window that an access from another package may not reach (R26, R341): whether it is refused, with the counts and the record. -/
def Dev.linkRefused (d : Dev) (die part pa : Nat) : Bool × Dev :=
  let count := fun (d : Dev) (home : Nat) => d.inc home (Reg.MMU_FAULT_CNT.REMOTE.at 8 part) 1
  let access := fun (d : Dev) (k : Nat) =>
    let (w, d) := d.free
    d.accErr die k { part := part, unit := w % 256, die := die } pa
  let checked := fun (own : Bool) =>
    if !own then (true, count d (d.homeDie pa))
    else match d.accFault { part := part, die := die } pa with
      | some k => (true, access d k)
      | none => (false, d)
  match d.region pa with
  | .stacked | .fathom => checked (d.ownerOf (d.pageIndex pa) = part)
  | .scratch p _ => checked (bit (d.scratchMap part) p)
  | _ => (true, access (count d die) 3)

/-- Answers a request on the plane it came on (R402). -/
def Dev.answer (d : Dev) (plane : Nat) (p : Packet) (type status len : Nat) (v : List PByte) : Dev :=
  let r := d.packetTo type p.srcPkg p.partition p.tag p.addr len
  d.sendPlane plane { r with status := status, poison := anyPoison v, payload := plain v }

/-- The access lies within one granule (R399). -/
def oneGranule (p : Packet) : Bool := 0 < p.len && p.addr % 256 + p.len ≤ 256

/-- Serves a READ (R27, R341, R399). -/
def Dev.serveRead (d : Dev) (die plane : Nat) (p : Packet) : Dev :=
  let pa := p.addr % 2 ^ 48
  let part := p.partition % 16
  let (no, d) := d.linkRefused die part pa
  if no then
    let (v, d) := d.poisonBytes p.len
    d.answer plane p 0x81 2 p.len v
  else
    let (v, e, d) := d.readPa { part := part, die := die, exempt := true } pa p.len
    d.answer plane p 0x81 (if e then 2 else if anyPoison v then 1 else 0) p.len v

/-- The bytes of a WRITE with its byte mask (R398): bit i of the mask stands for byte i of the payload. -/
def packetPieces (p : Packet) : List (Nat × List PByte) :=
  let v := marked p.poison (fitTo p.len p.payload)
  if !p.masked then [(0, v)] else (v.zipIdx.filter (fun x => bit p.mask x.2)).map (fun x => (x.2, [x.1]))

/-- Serves a WRITE and acknowledges it once performed (R27, R312, R341). -/
def Dev.serveWrite (d : Dev) (die plane : Nat) (p : Packet) : Dev :=
  let pa := p.addr % 2 ^ 48
  let part := p.partition % 16
  let (no, d) := d.linkRefused die part pa
  if no then d.answer plane p 0x82 2 0 []
  else
    let d := (packetPieces p).foldl (fun (d : Dev) x => (d.writePa { part := part, die := die, exempt := true } (pa + x.1) x.2).2) d
    d.answer plane p 0x82 0 0 []

/-- Serves an ATOMIC at its home (R309, R341): operation, operand and comparand are eight bytes each of the payload. -/
def Dev.serveAtomic (d : Dev) (die plane : Nat) (p : Packet) : Dev :=
  let pa := p.addr % 2 ^ 48
  let part := p.partition % 16
  let (no, d) := d.linkRefused die part pa
  let memory : Bool := match d.region pa with
    | .stacked | .fathom => true
    | _ => false
  if no ∨ !memory ∨ pa % p.len ≠ 0 then
    let (v, d) := d.poisonBytes p.len
    d.answer plane p 0x83 2 p.len v
  else
    let (old, d) := d.homeAmo { part := part, die := die, exempt := true } pa p.len (amoOfNat (fld p.payload 0 8)) (fld p.payload 8 8) (fld p.payload 16 8)
    d.answer plane p 0x83 (if anyPoison old then 1 else 0) p.len old

/-- The access that a response answers: its package, tag and kind. -/
def Dev.opOf (d : Dev) (p : Packet) (isRead : Bool) : Option RemoteOp :=
  d.remote.find? (fun o => o.pkg = p.srcPkg && o.tag = p.tag && o.isRead = isRead && o.held.isNone)

/-- A READ_RSP or ATOMIC_RSP ends an access (R399): a status other than OK is poison. -/
def Dev.takeData (d : Dev) (p : Packet) : Dev :=
  match d.opOf p true with
  | none => d
  | some o => d.readEnds o (marked (p.poison || decide (p.status ≠ 0)) (fitTo o.len p.payload))

/-- A WRITE_ACK ends a write (R312, R341): a status other than OK is a lost write. -/
def Dev.takeAck (d : Dev) (p : Packet) : Dev :=
  match d.opOf p false with
  | none => d
  | some o => d.writeEnds o (p.status ≠ 0)

/-- The definition and full invocation number that a COLL packet names (R398): of this tick. -/
def Dev.collOf (d : Dev) (p : Packet) : Option (CollDef × Nat) :=
  if p.tag ≠ d.tick % 2 ^ 16 then none
  else (d.collDef (bits p.addr 0 10)).map (fun c => (c, bits p.addr 10 16))

/-- COLL_DATA (R366, R369, R399): a block of another package's data. -/
def Dev.takeColl (d : Dev) (p : Packet) : Dev :=
  match d.collOf p with
  | none => d
  | some (c, k) =>
    let peer := (d.coll c.collId).peer k p.srcPkg
    let b := (bits p.addr 26 28, marked p.poison (fitTo p.len p.payload))
    let d := d.updColl c.collId (fun s => s.setPeer k { peer with inbox := peer.inbox.filter (fun x => x.1 ≠ b.1) ++ [b] })
    d.collFinish c k

/-- COLL_CTRL (R399, R401): what another coordinator tells of an invocation: its posting with COUNT, translated buffers with credit, an end status, or a fault. -/
def Dev.takeCollCtrl (d : Dev) (p : Packet) : Dev :=
  match d.collOf p with
  | none => d
  | some (c, k) =>
    let what := fld p.payload 0 1
    let member := (fld p.payload 2 2 + 0xFFFF) % 2 ^ 16
    let value := fld p.payload 4 4
    let more := (fld p.payload 8 4 + 0xFFFFFFFF) % 2 ^ 32
    let peer := (d.coll c.collId).peer k p.srcPkg
    let put := fun (q : CollPeer) => d.updColl c.collId (fun s => s.setPeer k q)
    if what = 1 then (put { peer with posted := true, count := value, wrong := member, unread := more % 2 ^ 16 }).collAdvance c
    else if what = 2 then ((put { peer with credit := peer.credit + value, buffers := 1, firstNf := more }).collSendAll c k).collFinish c k
    else if what = 3 then
      let s := d.coll c.collId
      if s.insts.any (fun i => i.k = k) ∨ s.begun < k then
        d.collDecide c k { status := fld p.payload 1 1, member := member, counted := value = 1 }
      else d
    else if what = 4 then (put { peer with buffers := 2, fault := member }).collFinish c k
    else d

end Sys2Proof.Machine
end

