-- ==== Sys2Proof/Machine/Yield.lean ====
section
/-! DEFINITION. Requests that a home holds go on when nothing holds them any longer (R264, R310). -/

namespace Sys2Proof.Machine

/-- Serves a request of another package by its type (R399). -/
def Dev.servePeer (d : Dev) (die plane : Nat) (p : Packet) : Dev :=
  if p.type = 1 then d.serveRead die plane p else if p.type = 2 then d.serveWrite die plane p else d.serveAtomic die plane p

/-- A request of another package reaches its home: held for budget or for a line that a core defers, or served. -/
def Dev.takePeer (d : Dev) (die plane : Nat) (p : Packet) : Dev :=
  if d.homeFull { part := p.partition % 16, die := die } (fun _ => false) (d.pkgId * 2 ^ 48 + p.addr % 2 ^ 48) p.len then
    { d with peerHeld := d.peerHeld ++ [(die, plane, p)] }
  else d.servePeer die plane p

/-- Requests of other packages that were held are made again, oldest first. -/
def Dev.releasePeers (d : Dev) : Dev := d.peerHeld.foldl (fun (d : Dev) x => d.takePeer x.1 x.2.1 x.2.2) { d with peerHeld := [] }

/-- What a home held goes on where its budget and the reservations of the cores allow it again, in the order of arrival. -/
def Dev.releaseFree (d : Dev) : Dev :=
  if d.held.isEmpty && d.peerHeld.isEmpty then d
  else (d.releaseHomes (fun x => !d.recallDeferred (x.pa / 128) && d.admits x.request)).releasePeers

end Sys2Proof.Machine
end

