-- ==== Sys2Proof/Machine/LinkCmds.lean ====
section
/-! DEFINITION. The commands of the link ports and of REQ, RSP and COLL packets (11 of the spec). -/

namespace Sys2Proof.Machine

/-- Link ports exist for a league, and boot has validated the charter (R387, R390). -/
def Dev.linksOn (d : Dev) : Bool :=
  let st := d.rd 0 Reg.BOOT_STATE.STAGE
  1 < d.charter.topo.slots.length && ((5 ≤ st && st ≤ 8) || (st = 10 && d.boot.ready))

/-- Width code of the lanes that trained (R386, R427): four lanes, or lanes 0 and 1, or lanes 2 and 3. -/
def laneWidth (lanes : List Bool) : Nat :=
  let l := fun (i : Nat) => lanes.getD i false
  if l 0 && l 1 && l 2 && l 3 then 2 else if (l 0 && l 1) || (l 2 && l 3) then 1 else 0

/-- LINK_PORT_TRAIN (R386, R390, R391): with the lanes locked, the port sends its IDENT. -/
def execLinkPortTrain (die port : Nat) (lanes : List Bool) (rttNs : Nat) (s : State) : Host.Outcome State Fault Refusal :=
  s.onDev (fun d => match d.planeOf die port with
    | none => d
    | some plane =>
      if !d.linksOn ∨ 1 < d.portState plane then d
      else
        let w := laneWidth lanes
        let d := (d.portWr plane Reg.LINK_PORT_STATUS.STATE psTraining).portWr plane Reg.LINK_PORT_STATUS.WIDTH w
        if w = 0 then d
        else
          let d := (d.portWr plane Reg.LINK_PORT_STATUS.RTT_NS (min rttNs 8191)).sendIdent plane
          if w = 1 ∧ d.isManager then d.linkEvent else d)

/-- The checks on an IDENT decide a port's state (R392, R393, R395). A port in CONFIG whose switch shows the digest of this package is UP. -/
def Dev.takeIdent (d : Dev) (plane : Nat) (r : Ident) : Dev :=
  let st := d.portState plane
  let d := d.noteIdent plane r
  match d.identCause plane r with
  | some c => if st = psQuarantined then d else d.quarantine plane c
  | none =>
    if st = psConfig ∧ r.digest ≠ 0 then d.portUp plane
    else if st = psTraining then d.portWr plane Reg.LINK_PORT_STATUS.STATE psConfig
    else d

/-- IDENT_RECEIVE. -/
def execIdentReceive (die port : Nat) (rec : Ident) (s : State) : Host.Outcome State Fault Refusal :=
  s.onDev (fun d => match d.planeOf die port with
    | none => d
    | some plane =>
      let st := d.portState plane
      if st = psDown ∨ st = psFenced ∨ d.portRd plane Reg.LINK_PORT_STATUS.WIDTH = 0 then d else d.takeIdent plane rec)

/-- IDENT_RESEND (R391). -/
def execIdentResend (die port : Nat) (s : State) : Host.Outcome State Fault Refusal :=
  s.onDev (fun d => match d.planeOf die port with
    | none => d
    | some plane => if d.portState plane = psConfig ∨ d.portState plane = psQuarantined then d.sendIdent plane else d)

/-- FLIT_REPLAY (R397, R429). -/
def execFlitReplay (die port fecCorrected : Nat) (s : State) : Host.Outcome State Fault Refusal :=
  s.onDev (fun d => match d.planeOf die port with
    | none => d
    | some plane =>
      if d.portRd plane Reg.LINK_PORT_STATUS.WIDTH = 0 then d
      else
        let d := d.portWr plane Reg.LINK_PORT_ERR.REPLAYS (d.portRd plane Reg.LINK_PORT_ERR.REPLAYS + 1)
        d.portWr plane Reg.LINK_PORT_ERR.FEC_CORR (d.portRd plane Reg.LINK_PORT_ERR.FEC_CORR + fecCorrected))

/-- LINK_FENCE (R397, R412, R413) of a port whose lanes are locked. A quarantined port stays quarantined (R395). -/
def execLinkFence (die port : Nat) (s : State) : Host.Outcome State Fault Refusal :=
  s.onDev (fun d => match d.planeOf die port with
    | none => d
    | some plane =>
      let st := d.portState plane
      if st = psUp then (d.portWr plane Reg.LINK_PORT_STATUS.STATE psFenced).portGone plane
      else if st = psConfig ∨ (st = psTraining ∧ d.portRd plane Reg.LINK_PORT_STATUS.WIDTH ≠ 0) then d.portWr plane Reg.LINK_PORT_STATUS.STATE psFenced
      else d)

/-- LINK_RETRAIN_DONE (R397): UP again where the IDENT equals the one before of a switch configured with the digest, else as R392 says. -/
def execLinkRetrainDone (die port : Nat) (rec : Ident) (s : State) : Host.Outcome State Fault Refusal :=
  s.onDev (fun d => match d.planeOf die port with
    | none => d
    | some plane =>
      if d.portState plane ≠ psFenced then d
      else
        let same : Bool := decide (KMap.get none d.league.idents plane = some rec)
        let d := d.portWr plane Reg.LINK_PORT_STATUS.RETRAINS (satAdd 8 (d.portRd plane Reg.LINK_PORT_STATUS.RETRAINS) 1)
        let d := (d.portWr plane Reg.LINK_PORT_STATUS.STATE psTraining).sendIdent plane
        if same ∧ rec.digest ≠ 0 ∧ (d.identCause plane rec).isNone then (d.noteIdent plane rec).portUp plane
        else d.takeIdent plane rec)

/-- LINK_READ. -/
def execLinkRead (die port : Nat) (p : Packet) (s : State) : Host.Outcome State Fault Refusal :=
  s.onDev (fun d => d.receive die port 1 p (fun d plane => if oneGranule p then d.takePeer die plane p else d))

/-- LINK_WRITE. -/
def execLinkWrite (die port : Nat) (p : Packet) (s : State) : Host.Outcome State Fault Refusal :=
  s.onDev (fun d => d.receive die port 2 p (fun d plane => if oneGranule p then d.takePeer die plane p else d))

/-- LINK_ATOMIC. -/
def execLinkAtomic (die port : Nat) (p : Packet) (s : State) : Host.Outcome State Fault Refusal :=
  s.onDev (fun d => d.receive die port 3 p (fun d plane => if p.len = 4 ∨ p.len = 8 then d.takePeer die plane p else d))

/-- READ_RSP. -/
def execReadRsp (die port : Nat) (p : Packet) (s : State) : Host.Outcome State Fault Refusal :=
  s.onDev (fun d => d.receive die port 0x81 p (fun d _ => d.takeData p))

/-- WRITE_ACK. -/
def execWriteAck (die port : Nat) (p : Packet) (s : State) : Host.Outcome State Fault Refusal :=
  s.onDev (fun d => d.receive die port 0x82 p (fun d _ => d.takeAck p))

/-- ATOMIC_RSP. -/
def execAtomicRsp (die port : Nat) (p : Packet) (s : State) : Host.Outcome State Fault Refusal :=
  s.onDev (fun d => d.receive die port 0x83 p (fun d _ => d.takeData p))

/-- COLL_DATA. -/
def execCollData (die port : Nat) (p : Packet) (s : State) : Host.Outcome State Fault Refusal :=
  s.onDev (fun d => d.receive die port 0x10 p (fun d _ => d.takeColl p))

/-- COLL_CTRL. -/
def execCollCtrl (die port : Nat) (p : Packet) (s : State) : Host.Outcome State Fault Refusal :=
  s.onDev (fun d => d.receive die port 0x11 p (fun d _ => d.takeCollCtrl p))

/-- The access of a tag that a command names. -/
def Dev.taggedOp (d : Dev) (tag : Nat) (isRead : Bool) : Option RemoteOp := d.remote.find? (fun o => o.tag = tag && o.isRead = isRead)

/-- REMOTE_WRITE_LOST (R312): 100 µs have passed. -/
def execRemoteWriteLost (tag : Nat) (s : State) : Host.Outcome State Fault Refusal :=
  s.onDev (fun d => match d.taggedOp tag false with
    | some o => d.opLost o
    | none => d)

/-- REMOTE_READ_LOST (R312). -/
def execRemoteReadLost (tag : Nat) (s : State) : Host.Outcome State Fault Refusal :=
  s.onDev (fun d => match d.taggedOp tag true with
    | some o => d.opLost o
    | none => d)

end Sys2Proof.Machine
end

