-- ==== Sys2Proof/Machine/Edges.lean ====
section
/-! DEFINITION. The edges of the package (R18, R21, R35, R36): their ends, their states, retraining and isolation. -/

namespace Sys2Proof.Machine

/-- The PEER field of a port. -/
def edgePeer (port : Nat) : Fld :=
  match port with
  | 0 => Reg.GLB_EDGE_STATUS.PEER0 | 1 => Reg.GLB_EDGE_STATUS.PEER1 | 2 => Reg.GLB_EDGE_STATUS.PEER2 | _ => Reg.GLB_EDGE_STATUS.PEER3

/-- The RETRAIN field of a port. -/
def edgeRetrain (port : Nat) : Fld :=
  match port with
  | 0 => Reg.GLB_EDGE_STATUS.RETRAIN0 | 1 => Reg.GLB_EDGE_STATUS.RETRAIN1 | 2 => Reg.GLB_EDGE_STATUS.RETRAIN2 | _ => Reg.GLB_EDGE_STATUS.RETRAIN3

/-- Gives both ends of an edge a state. -/
def Dev.setEdge (d : Dev) (e : Nat × Nat × Nat × Nat) (st : Nat) : Dev :=
  (d.wr e.1 (edgeState e.2.1) st).wr e.2.2.1 (edgeState e.2.2.2) st

/-- State of an edge at its first end. -/
def Dev.edgeSt (d : Dev) (e : Nat × Nat × Nat × Nat) : Nat := d.rd e.1 (edgeState e.2.1)

/-- The edges of a die. -/
def Dev.edgesOf (d : Dev) (die : Nat) : List (Nat × Nat × Nat × Nat) := d.edgeEnds.filter (fun e => e.1 = die || e.2.2.1 = die)

/-- Isolates an edge: class EDGE on both dies where it carried packets (R36, R609). -/
def Dev.isolateEdge (d : Dev) (e : Nat × Nat × Nat × Nat) : Dev :=
  let d := if d.edgeSt e = esUp then (d.raiseErr e.1 11).raiseErr e.2.2.1 11 else d
  d.setEdge e esIsolated

/-- A die stops and isolates its edges on both ends (R36, R612, R641): its steward copies and reservations are lost with it (R478). -/
def Dev.stopDie (d : Dev) (die : Nat) : Dev :=
  let d := (d.edgesOf die).foldl (fun d e => d.isolateEdge e) d
  { d with boot := { d.boot with stopped := d.boot.stopped.filter (· ≠ die) ++ [die] },
           stew := KMap.dropIf (fun k => k / 2 ^ 48 = die) d.stew
           sysCache := if die < 2 then KMap.upd {} d.sysCache die (fun c => { c with lines := [] }) else d.sysCache
           coreCache := KMap.dropIf (fun k => k / 256 = die) d.coreCache }

/-- Every edge of a die is isolated (R612). -/
def Dev.cutOff (d : Dev) (die : Nat) : Bool := !(d.edgesOf die).isEmpty && (d.edgesOf die).all (fun e => d.edgeSt e = esIsolated || d.edgeSt e = esMismatch)

/-- An edge retrains while the package runs (R35, R598): RETRAIN counts on both ends, class EDGE is set; the third failed retrain within 1 ms isolates it. -/
def Dev.retrainEdge (d : Dev) (n : Nat) (ok : Bool) : Dev :=
  match d.edgeEnds[n]? with
  | none => d
  | some e =>
    if d.edgeSt e ≠ esUp then d
    else
      let d := (((d.inc e.1 (edgeRetrain e.2.1) 1).inc e.2.2.1 (edgeRetrain e.2.2.2) 1).raiseErr e.1 11).raiseErr e.2.2.1 11
      if ok then d
      else
        let now := d.timeNs + d.elapsed
        let l := (KMap.get [] d.boot.edgeFails n).filter (fun t => now ≤ t + 1000000) ++ [now]
        let d : Dev := { d with boot := { d.boot with edgeFails := KMap.set [] d.boot.edgeFails n l } }
        if 3 ≤ l.length then d.isolateEdge e else d

/-- EDGE_RETRAIN. -/
def execEdgeRetrain (edge : Nat) (ok : Bool) (s : State) : Host.Outcome State Fault Refusal := s.onDev (fun d => d.retrainEdge edge ok)

end Sys2Proof.Machine
end

