-- ==== Sys2Proof/Machine/Discover.lean ====
section
/-! DEFINITION. Discovery of the dies (R30 to R36): the evidence of the edges, the places that the dies derive, and the registers that show them. -/

namespace Sys2Proof.Machine

/-- Changes the state of start-up. -/
def Dev.updBoot (d : Dev) (f : Boot → Boot) : Dev := { d with boot := f d.boot }

/-- A steward die by its number (R16). -/
def stewardSite (die : Nat) : Bool := die < 2

/-- What an end of an edge says fits its site (R21, R30, R32): kind, port, and on a steward die whether it is the primary. -/
def identityFits (v : Identity) (die port : Nat) : Bool :=
  v.port = port && v.steward == stewardSite die && (!stewardSite die || v.primary == (die = 0 : Bool))

/-- Evidence of an edge by its number. -/
def Dev.evidenceOf (d : Dev) (n : Nat) : Option EdgeEvidence := d.boot.evidence.find? (fun v => v.edge = n)

/-- What the edges say of a die, with their numbers. -/
def Dev.identitiesOf (d : Dev) (die : Nat) : List Identity :=
  d.edgeEnds.zipIdx.filterMap (fun e => (d.evidenceOf e.2).bind (fun v => if e.1.1 = die then some v.a else if e.1.2.2.1 = die then some v.b else none))

/-- The edges of a die name one die (R32). -/
def Dev.oneSerial (d : Dev) (die : Nat) : Bool :=
  match d.identitiesOf die with
  | [] => true
  | v :: t => t.all (fun w => w.serial = v.serial && w.revision = v.revision)

/-- An end of an edge is a port that did not train, or belongs to a die that is marked failed (R31, R36). -/
def Dev.endGone (d : Dev) (die port : Nat) : Bool := d.boot.isolated.contains (die, port) || bit (d.rd 0 Reg.RAS_PKG.DIE_FAILED) die

/-- The state of an edge by its own evidence (R31, R32). -/
def Dev.edgeAlone (d : Dev) (e : Nat × Nat × Nat × Nat) (n : Nat) : Nat :=
  if d.endGone e.1 e.2.1 || d.endGone e.2.2.1 e.2.2.2 then esIsolated
  else match d.evidenceOf n with
    | none => esTraining
    | some v =>
      if identityFits v.a e.1 e.2.1 && identityFits v.b e.2.2.1 e.2.2.2 && d.oneSerial e.1 && d.oneSerial e.2.2.1 then esUp else esMismatch

/-- The edges with their states so far. -/
def Dev.edgesAlone (d : Dev) : List ((Nat × Nat × Nat × Nat) × Nat) := d.edgeEnds.zipIdx.map (fun e => (e.1, d.edgeAlone e.1 e.2))

/-- A compute die sees a steward die at a port. -/
def seesSteward (es : List ((Nat × Nat × Nat × Nat) × Nat)) (die port : Nat) : Bool :=
  es.any (fun e => e.2 = esUp && e.1.2.2.1 = die && e.1.2.2.2 = port && stewardSite e.1.1)

/-- The column that a compute die derives (R30 step 3). -/
def columnOf (es : List ((Nat × Nat × Nat × Nat) × Nat)) (die : Nat) : Nat := if seesSteward es die 0 then 0 else if seesSteward es die 1 then 2 else 1

/-- Two compute dies whose places do not agree with the edge between them (R32): port 1 leads east, port 3 to the same column. -/
def placesClash (es : List ((Nat × Nat × Nat × Nat) × Nat)) (e : Nat × Nat × Nat × Nat) : Bool :=
  let (a, p, b, _) := e
  !stewardSite a && (if p = 1 then columnOf es b ≠ columnOf es a + 1 else columnOf es b ≠ columnOf es a)

/-- The states that discovery gives the edges. -/
def Dev.edgesFound (d : Dev) : List ((Nat × Nat × Nat × Nat) × Nat) :=
  let es := d.edgesAlone
  es.map (fun e => if e.2 = esUp && placesClash es e.1 then (e.1, esMismatch) else e)

/-- Dies reached from those listed, over so many edges. -/
def reached (es : List (Nat × Nat × Nat × Nat)) : Nat → List Nat → List Nat
  | 0, l => l
  | n + 1, l => reached es n (es.foldl (fun l e =>
      if l.contains e.1 && !l.contains e.2.2.1 then l ++ [e.2.2.1] else if l.contains e.2.2.1 && !l.contains e.1 then l ++ [e.1] else l) l)

/-- The dies whose identity and place reach S0 over edges that are UP (R30 step 4, R32). -/
def Dev.diesFound (d : Dev) : List Nat :=
  let l := reached ((d.edgesFound.filter (fun e => e.2 = esUp)).map (·.1)) 8 [0]
  d.dies.filter (fun die => l.contains die)

/-- Every edge has trained or is isolated. -/
def Dev.edgesKnown (d : Dev) : Bool := d.edgesAlone.all (fun e => e.2 ≠ esTraining)

/-- S0 writes the place of a die into its GLB_DIE_ID (R30, R34). -/
def Dev.placeDie (d : Dev) (die : Nat) : Dev :=
  let row := if die < 2 then 0 else (die - 2) / 3
  let col := if die < 2 then 0 else (die - 2) % 3
  (((d.wr die Reg.GLB_DIE_ID.DIE_NUM die).wr die Reg.GLB_DIE_ID.ROW row).wr die Reg.GLB_DIE_ID.COL col).wr die Reg.GLB_DIE_ID.PLACED 1

/-- The state of an edge at both ends, and who stands there while it is UP (R35). -/
def Dev.showEdge (d : Dev) (e : Nat × Nat × Nat × Nat) (st : Nat) : Dev :=
  let d := d.setEdge e st
  (d.wr e.1 (edgePeer e.2.1) (if st = esUp then e.2.2.1 else 15)).wr e.2.2.1 (edgePeer e.2.2.2) (if st = esUp then e.1 else 15)

/-- The end of discovery (R30 step 5): the dies that are not found are absent. -/
def Dev.endDiscovery (d : Dev) : Dev :=
  let found := d.diesFound
  let d := d.edgesFound.foldl (fun d e => d.showEdge e.1 e.2) d
  let d := found.foldl (fun d die => d.placeDie die) d
  let d := d.edgesFound.foldl (fun d e => if e.2 = esIsolated then (d.raiseErr e.1.1 11).raiseErr e.1.2.2.1 11 else d) d
  d.updBoot (fun b => { b with absent := d.dies.filter (fun die => !found.contains die) })

/-- What discovery has seen so far shows in GLB_EDGE_STATUS (R36). -/
def Dev.showTraining (d : Dev) : Dev := d.edgesAlone.foldl (fun d e => d.setEdge e.1 e.2) d

end Sys2Proof.Machine
end

