-- ==== Sys2Proof/Machine/OwnCmds.lean ====
section
/-! DEFINITION. The page-owner commands (R261, R262, R280, R281) and the MMU commands (R336, R339, R345 to R347). -/

namespace Sys2Proof.Machine

/-- Answers a page-owner command (R281): RESULT and PAGE, BUSY 0, and the interrupt of its end. -/
def Dev.ownAnswer (d : Dev) (result page : Nat) : Dev :=
  (((d.wr 0 Reg.BMC_OWN_STATUS.BUSY 0).wr 0 Reg.BMC_OWN_STATUS.RESULT result).wr 0 Reg.BMC_OWN_STATUS.PAGE page).aplic 0 5

/-- The first page of a range outside the populated part of one tier, if any (R262). -/
def Dev.ownOutside (d : Dev) (page count : Nat) : Option Nat :=
  let sp := d.stackedPages
  let all := sp + d.fathomPages
  let lim := if page < sp then sp else all
  if all ≤ page then some page else if lim < page + count then some lim else none

/-- The first check of R262 that a command fails: RESULT and PAGE. -/
def Dev.ownCheck (d : Dev) (claim : Bool) (part count page : Nat) : Option (Nat × Nat) :=
  match d.ownOutside page count with
  | some p => some (5, p)
  | none =>
    let bad := (List.range count).findSome? (fun i =>
      let o := d.ownerOf (page + i)
      if o = 0xFD ∨ o = 0xFE then some (4, page + i)
      else if claim ∧ o ≠ 0xFF then some (2, page + i)
      else if !claim ∧ o ≠ part then some (3, page + i)
      else none)
    match bad with
    | some r => some r
    | none =>
      let used := if page < d.stackedPages then Reg.BMC_PAGES_STACKED.USED else Reg.BMC_PAGES_FATHOM.USED
      let quota := if page < d.stackedPages then Reg.BMC_PAGES_STACKED.QUOTA else Reg.BMC_PAGES_FATHOM.QUOTA
      if claim ∧ d.rd 0 (quota.at 16 part) < d.rd 0 (used.at 16 part) + count then some (1, page) else none

/-- The USED field of the tier of a page (R284). -/
def Dev.pagesUsed (d : Dev) (page part : Nat) : Fld :=
  (if page < d.stackedPages then Reg.BMC_PAGES_STACKED.USED else Reg.BMC_PAGES_FATHOM.USED).at 16 part

/-- Claims pages (R262): RESULT and PAGE. -/
def Dev.claimPages (d : Dev) (part count page : Nat) : (Nat × Nat) × Dev :=
  if count = 0 then ((0, 0), d)
  else match d.ownCheck true part count page with
    | some r => (r, d)
    | none =>
      let d := (List.range count).foldl (fun d i => d.setOwner (page + i) part) d
      ((0, 0), d.wr 0 (d.pagesUsed page part) (d.rd 0 (d.pagesUsed page part) + count))

/-- Zeros a page at its homes: memory, system cache, buffers and steward copies. What is written to stacked DRAM counts (R232). -/
def Dev.zeroPage (d : Dev) (page : Nat) : Dev :=
  let a := d.pageBase page
  let lineIn := fun (l : Nat) => a / 128 ≤ l && l < a / 128 + 512
  let d := match d.region a with
    | .stacked => (List.range 256).foldl (fun (d : Dev) i => d.incMod (d.homeDie (a + 256 * i)) Reg.MEMC_WR_BYTES.BYTES 256) d
    | _ => d
  { d with mem := KMap.dropIf (fun k => a ≤ k && k < a + 65536) d.mem
           poison := KMap.dropIf (fun k => a / 32 ≤ k && k < a / 32 + 2048) d.poison
           sysCache := KMap.mapV {} (fun _ c => c.dropLines (fun l => l.valid && lineIn l.tag)) d.sysCache
           wcb := d.wcb.filter (fun e => !lineIn e.line)
           coreCache := KMap.mapV {} (fun _ c => c.dropLines (fun l => l.valid && lineIn l.tag)) d.coreCache
           flaws := KMap.dropIf (fun k => a / 32 ≤ k && k < a / 32 + 2048) d.flaws
           stew := KMap.dropIf (fun k => lineIn (k % 2 ^ 48)) d.stew
           harts := KMap.mapV {} (fun _ t => if (t.resv.map lineIn).getD false then { t with resv := none, deferring := false } else t) d.harts }

/-- Frees a page, or retires it where that is due (R262, R605). -/
def Dev.freePage (d : Dev) (page : Nat) : Dev :=
  if d.pagePend.contains page then
    let d := { d with pagePend := d.pagePend.filter (· ≠ page) }
    (d.setOwner page 0xFD).wr 0 Reg.RAS_SCRUB.RETIRE_PEND d.pagePend.length
  else d.setOwner page 0xFF

/-- Releases pages: the zeroing has ended (R262). -/
def Dev.releasePages (d : Dev) (part count page : Nat) : Dev :=
  let d := (List.range count).foldl (fun d i => (d.zeroPage (page + i)).freePage (page + i)) d
  d.wr 0 (d.pagesUsed page part) (d.rd 0 (d.pagesUsed page part) - count)

/-- A write of BMC_OWN_CMD (R280). -/
def Dev.ownCommand (d : Dev) (op part count page : Nat) : Dev :=
  if d.rd 0 Reg.BMC_OWN_STATUS.BUSY = 1 then d
  else if op = 1 then
    let (r, d) := d.claimPages part count page
    d.ownAnswer r.1 r.2
  else if op = 2 then
    if count = 0 then d.ownAnswer 0 0
    else match d.ownCheck false part count page with
      | some r => d.ownAnswer r.1 r.2
      | none => { d with ownCmd := some { op := 2, part := part, count := count, at_ := page } }.wr 0 Reg.BMC_OWN_STATUS.BUSY 1
  else d

/-- OWN_CLAIM. -/
def execOwnClaim (part count page : Nat) (s : State) : Host.Outcome State Fault Refusal :=
  s.onDev (fun d => d.ownCommand 1 (part % 16) (count % 65536) (page % 2 ^ 26))

/-- OWN_RELEASE. -/
def execOwnRelease (part count page : Nat) (s : State) : Host.Outcome State Fault Refusal :=
  s.onDev (fun d => d.ownCommand 2 (part % 16) (count % 65536) (page % 2 ^ 26))

/-- Ends a release in progress. -/
def Dev.ownFinish (d : Dev) : Dev :=
  match d.ownCmd with
  | none => d
  | some c => ({ d with ownCmd := none }.releasePages c.part c.count c.at_).ownAnswer 0 0

/-- OWN_RELEASE_COMPLETE (R281). -/
def execOwnReleaseComplete (s : State) : Host.Outcome State Fault Refusal := s.onDev (fun d => d.ownFinish)

/-- The translation unit that a UNIT code of a die names (R348). -/
def unitMmu (die unit : Nat) : Option Nat :=
  if unit < 22 then some (mmuChain die unit)
  else if unit = 32 then some (mmuColl die)
  else if unit = 33 then some (mmuMover die)
  else if unit = 34 ∨ unit = 36 then some mmuSio
  else if unit = 35 then some mmuHif
  else none

/-- PAGE_WALK_DONE (R334 to R336): a walk that a request waits for ends with its leaf installed, or with a fault recorded. -/
def execPageWalkDone (die unit req part dva access : Nat) (s : State) : Host.Outcome State Fault Refusal :=
  s.onDev (fun d => match unitMmu die unit with
    | none => d
    | some m => (d.translate { mmu := m, part := part, unit := unit, req := req, die := die } dva access).2)

/-- Drops the leaves of a partition that overlap a range, or all of them, and its walk-cache entries, in every MMU and every steward core (R339, R472). -/
def Dev.invCommand (d : Dev) (op part count : Nat) : Dev :=
  if d.rd 0 Reg.MMU_INV_STATUS.BUSY = 1 then d
  else
    let a := d.rd 0 Reg.MMU_INV_ADDR.ADDR * 65536
    let n := count * 65536
    let start := fun (p : TlbEntry → Bool) =>
      let gone := (d.tlb.filter (fun e => e.part = part && p e)).map (fun e => (e.dva, 2 ^ e.size, e.target))
      { d.invalidate part p with invCmd := some { op := op, part := part, count := count, at_ := a, leaves := gone } }.wr 0 Reg.MMU_INV_STATUS.BUSY 1
    if op = 1 then
      if 2 ^ 47 < a + n then (d.wr 0 Reg.MMU_INV_STATUS.RESULT 1).aplic 0 6
      else start (fun e => n ≠ 0 && e.dva < a + n && a < e.dva + 2 ^ e.size)
    else if op = 2 then start (fun _ => true)
    else d

/-- MMU_INV_RANGE. -/
def execMmuInvRange (part count : Nat) (s : State) : Host.Outcome State Fault Refusal := s.onDev (fun d => d.invCommand 1 (part % 16) (count % 2 ^ 32))

/-- MMU_INV_PARTITION. -/
def execMmuInvPartition (part : Nat) (s : State) : Host.Outcome State Fault Refusal := s.onDev (fun d => d.invCommand 2 (part % 16) 0)

/-- A range of DVAs lies under a leaf that an invalidation dropped. -/
def SlowCmd.drops (c : SlowCmd) (dva n : Nat) : Bool :=
  c.op = 2 || (c.count ≠ 0 && dva < c.at_ + c.count * 65536 && c.at_ < dva + n) || c.leaves.any (fun l => touches (l.1, l.2.1) dva n)

/-- An access to another package was translated by a leaf that the invalidation dropped (R339). -/
def SlowCmd.under (c : SlowCmd) (o : RemoteOp) : Bool :=
  c.leaves.any (fun l => touches (l.2.2, l.2.1) o.addr o.len || o.dest.any (fun t => touches (l.2.2, l.2.1) t.1 t.2))

/-- A descriptor holds translations by leaves that the invalidation dropped. -/
def SlowCmd.underDma (c : SlowCmd) (x : DmaDesc) : Bool :=
  match x.leaves with
  | some ls => (ls.1 ++ ls.2).any (fun l => c.drops l.dva (2 ^ l.size))
  | none => false

/-- A request that was translated by a leaf that the invalidation dropped has not completed (R339): an NVMe command, a descriptor, or an access to another
package. -/
def Dev.invWaits (d : Dev) (c : SlowCmd) : Bool :=
  d.nvme.any (fun v => v.2.cmds.any (fun y => y.part = c.part && y.leaves.any (fun l => c.drops l.1 l.2)))
    || d.perches.any (fun v => v.2.part = c.part && v.2.ctx.any (fun y => y.2.queue.any c.underDma))
    || d.remote.any c.under

/-- An invalidation ends (R339, R347): every leaf is checked again at its next use (R330). -/
def Dev.invFinish (d : Dev) : Dev :=
  ({ d with invCmd := none, tlb := d.tlb.map (fun (e : TlbEntry) => { e with recheck := true }) }.wr 0 Reg.MMU_INV_STATUS.BUSY 0 |>.wr 0
    Reg.MMU_INV_STATUS.RESULT 0).aplic 0 6

/-- MMU_INV_COMPLETE (R339, R347). -/
def execMmuInvComplete (s : State) : Host.Outcome State Fault Refusal :=
  s.onDev (fun d => match d.invCmd with
    | none => d
    | some c => if d.invWaits c then d else d.invFinish)

end Sys2Proof.Machine
end

