-- ==== Sys2Proof/Machine/PageTables.lean ====
section
/-! DEFINITION. Building page tables (R326 to R329, R548) and finding free pages (R261, R262): by boot, and by the page service of the stewards (R483). -/

namespace Sys2Proof.Machine

/-- The lowest run of `count` free pages in [lo, hi) that starts at a multiple of `align`. Owner bytes that are not listed are free. -/
def Dev.findFree (d : Dev) (lo hi count align : Nat) : Option Nat :=
  let c := d.owner.foldl (fun c e => if c ≤ e.1 ∧ e.1 < c + count then alignUp (e.1 + 1) align else c) (alignUp lo align)
  if c + count ≤ hi then some c else none

/-- Stores bytes in table pages: at their homes after seal, directly while boot builds them. -/
def Dev.tableStore (d : Dev) (pa : Nat) (b : List Byte) : Dev :=
  if d.sealed then (d.writePa { part := 16, unit := 128 } pa (clean b)).2 else d.devWrite pa b

/-- Reads a table entry at its point of coherence. -/
def Dev.entryAt (d : Dev) (pa : Nat) : Nat := leNat (plain (d.peek pa 8))

/-- Room for tables: the page being filled and the number of its 16 tables taken; the pages that may be taken lie in [lo, hi), and the
tables are for the package ID `own` (R326). -/
structure TablePool where
  page : Nat := 0
  used : Nat := 16
  lo : Nat := 0
  hi : Nat := 0
  own : Nat := 0
  deriving DecidableEq, Repr

/-- Gives a page to a partition and counts it (R284). -/
def Dev.givePage (d : Dev) (part page : Nat) : Dev :=
  let f := d.pagesUsed page part
  (d.setOwner page part).wr 0 f (d.rd 0 f + 1)

/-- A free page becomes a partition's: given by boot, and after seal claimed as every page is (R262). -/
def Dev.ownPage (d : Dev) (part page : Nat) : Option Dev :=
  if !d.sealed then some (d.givePage part page)
  else
    let d := d.ownCommand 1 part 1 page
    if d.rd 0 Reg.BMC_OWN_STATUS.RESULT = 0 then some d else none

/-- Takes a zeroed 4 KiB table. -/
def Dev.takeTable (d : Dev) (part : Nat) (p : TablePool) : Option (Nat × TablePool × Dev) :=
  if p.used < 16 then some (d.pageBase p.page + 4096 * p.used, { p with used := p.used + 1 }, d)
  else match d.findFree p.lo p.hi 1 1 with
    | none => none
    | some page => ((d.zeroPage page).ownPage part page).map (fun d => (d.pageBase page, { p with page := page, used := 1 }, d))

/-- A leaf entry: rights R 1, W 2, X 4, AT 8; A is set, and D where W is (R548). -/
def leafEntry (target rights : Nat) (napot : Bool) : Nat :=
  (target / 4096 + (if napot then 8 else 0)) * 2 ^ 10 + b2n napot * 2 ^ 63 + b2n (bit rights 3) * 256 + b2n (bit rights 1) * 128 + 64
    + rights % 8 * 2 + 1

/-- Writes an entry for a DVA at a level, building the tables above it; 64 KiB leaves are written 16 times (R328). -/
def Dev.mapEntry (d : Dev) (part dva leafLevel entry : Nat) : Nat → Nat → TablePool → Option (TablePool × Dev)
  | level, table, pool =>
    let i := bits dva (12 + 9 * level) 9
    if level = leafLevel then
      some (pool, if level = 0 then d.tableStore (table + i / 16 * 128) ((List.range 16).flatMap (fun _ => leBytes 8 entry))
        else d.tableStore (table + i * 8) (leBytes 8 entry))
    else match level with
      | 0 => none
      | l + 1 =>
        match readPte (l + 1) (d.entryAt (table + i * 8)) with
        | .table next => d.mapEntry part dva leafLevel entry l (next % 2 ^ 48) pool
        | .fault _ =>
          if bit (d.entryAt (table + i * 8)) 0 then none
          else (match d.takeTable part pool with
            | none => none
            | some (next, pool, d) => (d.tableStore (table + i * 8) (leBytes 8 ((pool.own * 2 ^ 48 + next) / 4096 * 2 ^ 10 + 1))).mapEntry part dva leafLevel entry l next pool)
        | .leaf .. => none

/-- Maps a leaf of a partition: level 0 for 64 KiB, 1 for 2 MiB, 2 for 1 GiB. -/
def Dev.mapLeaf (d : Dev) (part root dva level target rights : Nat) (pool : TablePool) : Option (TablePool × Dev) :=
  d.mapEntry part dva level (leafEntry target rights (level = 0)) 3 root pool

/-- The leaf that translates a DVA in tables at a root for the package `own`, without the checks of its target. -/
def Dev.leafAt (d : Dev) (own part root dva : Nat) : Option TlbEntry :=
  match (d.walkFrom { part := part } own dva 3 root []).1 with
  | .ok (e, _) => some e
  | .error _ => none

/-- Clears the 16 entries of a 64 KiB leaf. -/
def Dev.unmapLeaf (d : Dev) (part root dva : Nat) : Dev :=
  match d.mapEntry part dva 0 0 3 root {} with
  | some (_, d) => d
  | none => d

end Sys2Proof.Machine
end

