-- ==== Sys2Proof/Machine/HifCmds.lean ====
section
/-! DEFINITION. The commands of the host interface (14 of the spec). -/

namespace Sys2Proof.Machine

/-- DOORBELL (R505, R528). -/
def execDoorbell (queue : Nat) (value : W64) (s : State) : Host.Outcome State Fault Refusal :=
  s.onDev (fun d => d.hifBell queue (value.toNat % 2 ^ 32) (value.toNat / 2 ^ 48))

/-- The queue fetches: enabled, commands wait, the host answers (R494, R506, R513), dispatch not halted (R614). -/
def Dev.hifFetches (d : Dev) (q : Nat) : Bool :=
  let v := d.hq q
  d.hqLive q && v.state = 2 && v.behind && d.hostOk && d.rd 0 Reg.RAS_PKG.HALTED = 0

/-- COMMAND_FETCH (R506): `slots` are what the host answers from the next expected slot on. -/
def execCommandFetch (queue : Nat) (slots : List (List Byte)) (s : State) : Host.Outcome State Fault Refusal :=
  s.onDev (fun d => if d.hifFetches queue && decide ((d.hq queue).retries = 0) then d.hifRead queue slots else d)

/-- COMMAND_REREAD (R506). -/
def execCommandReread (queue : Nat) (slots : List (List Byte)) (s : State) : Host.Outcome State Fault Refusal :=
  s.onDev (fun d => if d.hifFetches queue && decide (0 < (d.hq queue).retries) then d.hifRead queue slots else d)

/-- The head command of a queue is executed where it has an opcode. -/
def Dev.hifOp (d : Dev) (q op : Nat) (ext : Ext) : Dev := if d.hifHead q = some op then d.hifExec q ext else d

/-- NOP. -/
def execNop (queue : Nat) (s : State) : Host.Outcome State Fault Refusal := s.onDev (fun d => d.hifOp queue 0 ⟨[], false⟩)

/-- FENCE. -/
def execFence (queue : Nat) (s : State) : Host.Outcome State Fault Refusal := s.onDev (fun d => d.hifOp queue 1 ⟨[], false⟩)

/-- WRITE. -/
def execWrite (queue : Nat) (s : State) : Host.Outcome State Fault Refusal := s.onDev (fun d => d.hifOp queue 2 ⟨[], false⟩)

/-- COPY. -/
def execCopy (queue : Nat) (ext : Ext) (s : State) : Host.Outcome State Fault Refusal := s.onDev (fun d => d.hifOp queue 3 ext)

/-- FILL. -/
def execFill (queue : Nat) (s : State) : Host.Outcome State Fault Refusal := s.onDev (fun d => d.hifOp queue 4 ⟨[], false⟩)

/-- ATOMIC. -/
def execAtomic (queue : Nat) (s : State) : Host.Outcome State Fault Refusal := s.onDev (fun d => d.hifOp queue 5 ⟨[], false⟩)

/-- RUN_COMPLETE (R504). -/
def execRunComplete (queue : RunRef) (s : State) : Host.Outcome State Fault Refusal := s.onDev (fun d => d.runEnd queue.queue queue.ext)

/-- HOST_WINDOW_END (R502): the engine stops for the partition; what it had translated is given up. -/
def execHostWindowEnd (part : Nat) (s : State) : Host.Outcome State Fault Refusal :=
  s.onDev (fun d =>
    if !d.hif.windows.contains part then d
    else
      let d := match d.windowEnd part d.elapsed with
        | some e => d.toTime e
        | none => d
      d.updHif (fun h => { h with windows := h.windows.filter (· ≠ part) }))

/-- HOST_WINDOW_START (R502): the window opens; a command stopped at the last window end translates its buffers again and goes on where its data are the
device's, else the next eligible command starts. -/
def execHostWindowStart (part : Nat) (s : State) : Host.Outcome State Fault Refusal :=
  s.onDev (fun d =>
    let starts := ((d.hostSpans part).filter (fun e => d.elapsed ≤ e.startNs || d.elapsed < d.slotEnd e)).map (fun e => max d.elapsed e.startNs)
    match starts with
    | [] => d
    | t :: ts =>
      if !d.dispatching then d
      else
        let d := d.toTime (ts.foldl min t)
        let d := d.updHif (fun h => { h with windows := if h.windows.contains part then h.windows else h.windows ++ [part] })
        match d.hifTurn part with
        | none => d
        | some q =>
          let c := (d.hq q).accepted.headD {}
          if c.opcode = 3 ∧ c.valid ∧ bit c.ptrs 1 then d else d.hifExec q ⟨[], false⟩)

/-- COMPLETION_WRITE (R507, R510). -/
def execCompletionWrite (queue : Nat) (s : State) : Host.Outcome State Fault Refusal := s.onDev (fun d => d.hifComplete queue)

/-- MSIX_HOLDOFF_EXPIRY (R510). -/
def execMsixHoldoffExpiry (queue : Nat) (s : State) : Host.Outcome State Fault Refusal :=
  s.onDev (fun d =>
    let v := d.hq queue
    if !v.holding then d
    else if v.irqDue then (d.updHq queue (fun v => { v with irqDue := false })).sendVector (8 + queue)
    else d.updHq queue (fun v => { v with holding := false }))

/-- CQ_HEAD_WRITE (R529). -/
def execCqHeadWrite (queue : Nat) (value : W64) (s : State) : Host.Outcome State Fault Refusal :=
  s.onDev (fun d => d.hifCqHead queue value.toNat)

/-- QUEUE_ENABLE (R496). -/
def execQueueEnable (queue holdoff depth sqBase cqBase : Nat) (s : State) : Host.Outcome State Fault Refusal :=
  s.onDev (fun d =>
    if !d.hqLive queue then d
    else (d.updHq queue (fun v => { v with holdoff := holdoff % 256, depthReg := depth % 2 ^ 13, sqBase := sqBase, cqBase := cqBase })).hifEnable queue)

/-- QUEUE_DISABLE (R530). -/
def execQueueDisable (queue : Nat) (s : State) : Host.Outcome State Fault Refusal := s.onDev (fun d => d.hifDisable queue)

/-- QUEUE_RESUME (R514). -/
def execQueueResume (queue sqBase cqBase : Nat) (s : State) : Host.Outcome State Fault Refusal :=
  s.onDev (fun d =>
    if !d.hqLive queue then d else (d.updHq queue (fun v => { v with sqBase := sqBase, cqBase := cqBase })).hifResume queue)

/-- QUEUE_ABORT (R511). -/
def execQueueAbort (queue : Nat) (s : State) : Host.Outcome State Fault Refusal := s.onDev (fun d => d.hifAbort queue)

/-- QUEUE_ABORT_DONE (R511). -/
def execQueueAbortDone (queue : Nat) (s : State) : Host.Outcome State Fault Refusal := s.onDev (fun d => d.hifAbortDone queue)

/-- HOST_LOST (R513): the link goes down, or Bus Master Enable is cleared; a reset of the function clears its configuration. -/
def execHostLost (cause : HostLossCause) (s : State) : Host.Outcome State Fault Refusal :=
  s.onDev (fun d =>
    let d := match cause with
      | .bme => d.updHif (fun h => { h with bme := false })
      | .flr => d.updHif (fun h => { h with bme := false, msixEnable := false, msix := [], pba := [] })
      | .hotReset => d.updHif (fun h => { h with bme := false, msixEnable := false, msix := [], pba := [] })
      | .linkDown | .perst =>
        ((d.updHif (fun h => { h with linkUp := false, bme := false, msixEnable := false, msix := [], pba := [] })).wr 0 Reg.HIF_STATUS.RATE 0).wr 0
          Reg.HIF_STATUS.WIDTH 0
    d.hostLost)

/-- A write of HIF_ATTACH.REQ (R514): the link is up and Bus Master Enable is set. -/
def Dev.hostAttach (d : Dev) : Dev :=
  if d.hif.linkUp && d.hif.bme then (d.incMod 0 Reg.HIF_ATTACH.GEN 1).wr 0 Reg.HIF_ATTACH.STATE 1 else d

/-- HOST_ATTACH. -/
def execHostAttach (s : State) : Host.Outcome State Fault Refusal := s.onDev (fun d => d.hostAttach)

/-- PERST_N_RELEASE (R518, R646): the endpoint trains. -/
def execPerstNRelease (rate width : Nat) (s : State) : Host.Outcome State Fault Refusal :=
  s.onDev (fun d => ((d.updHif (fun h => { h with linkUp := true })).wr 0 Reg.HIF_STATUS.RATE rate).wr 0 Reg.HIF_STATUS.WIDTH width)

/-- PCIE_CONFIG_WRITE (R490, R513): clearing Bus Master Enable is a host loss. -/
def execPcieConfigWrite (msixEnable bme : Bool) (s : State) : Host.Outcome State Fault Refusal :=
  s.onDev (fun d =>
    if !d.hif.linkUp then d
    else
      let lost := d.hif.bme && !bme
      let d := d.updHif (fun h => { h with msixEnable := msixEnable, bme := bme })
      if lost then d.hostLost else d)

/-- MSIX_VECTOR_UNMASK (R492). -/
def execMsixVectorUnmask (vector : Nat) (s : State) : Host.Outcome State Fault Refusal :=
  s.onDev (fun d =>
    let e := d.msixEntry vector
    let d := d.updHif (fun h => { h with msix := KMap.set (2 ^ 96) h.msix vector (e - b2n (bit e 96) * 2 ^ 96) })
    if KMap.get 0 d.hif.pba vector = 1 then (d.updHif (fun h => { h with pba := KMap.set 0 h.pba vector 0 })).sendVector vector else d)

/-- The aperture of BAR4 that an offset lies in is open: its partition and DVA (R495). -/
def Dev.bar4Dva (d : Dev) (offset : Nat) : Option (Nat × Nat) :=
  let p := offset / 2 ^ 32
  if p < 16 ∧ d.rd 0 (Reg.HIF_BAR4_WIN.EN.at 8 p) = 1 then some (p, d.rd 0 (Reg.HIF_BAR4_WIN.BASE.at 8 p) * 2 ^ 32 + offset % 2 ^ 32) else none

/-- A BAR4 access that is refused is counted (R495, R523). -/
def Dev.bar4Fault (d : Dev) : Dev := d.inc 0 Reg.HIF_ERR.BAR4_FAULT 1

/-- BAR4_READ (R490, R495, R509). -/
def execBar4Read (offset len : Nat) (s : State) : Host.Outcome State Fault Refusal :=
  s.onDev (fun d =>
    let ones := fun (d : Dev) => d.emit (.tlpData (List.replicate len 0xFF#8) false)
    if !d.hif.linkUp then d
    else if !d.sealed then ones d
    else match d.bar4Dva offset with
      | none => ones d.bar4Fault
      | some (p, dva) =>
        let x := hifXq p 0xFFFF
        match d.translateRange x dva len axRead with
        | (.error _, d) => ones d.bar4Fault
        | (.ok ps, d) =>
          match ps with
          | [(t, n)] =>
            (match d.localOf t with
              | none =>
                if d.remoteUp (t / 2 ^ 48) then d.remoteReadOne (.hif 0xFFFF) p t n []
                else
                  let (b, d) := d.dropRead t n
                  d.emit (.tlpData (plain b) true)
              | some pa =>
                match d.region pa, d.hostOk with
                | .host _, true => let (b, d) := d.freeBytes n; d.emit (.tlpData b false)
                | _, _ =>
                  let (b, e, d) := d.readLocal (x.rq false true) none ⟨[], true⟩ pa n
                  if e then ones d.bar4Fault else d.emit (.tlpData (plain b) (anyPoison b)))
          | _ =>
            let (b, e, d) := d.readPieces (x.rq false true) ⟨[], true⟩ ps
            if e then ones d.bar4Fault else d.emit (.tlpData (plain b) (anyPoison b)))

/-- BAR4_WRITE (R490, R495, R509). It waits for a line whose recall a core defers (R310). -/
def execBar4Write (offset : Nat) (data : List Byte) (poison : Bool) (s : State) : Host.Outcome State Fault Refusal :=
  s.onDev (fun d =>
    if !d.hif.linkUp ∨ !d.sealed then d
    else match d.bar4Dva offset with
      | none => d.bar4Fault
      | some (p, dva) =>
        let x := hifXq p 0xFFFF
        match d.translateRange x dva data.length axWrite with
        | (.error _, d) => d.bar4Fault
        | (.ok ps, d1) =>
          if ps.any (fun t => d.deferredAt (fun _ => false) t.1 t.2) then d
          else
          let (run, d) := d1.putPieces (.hif 0xFFFF) (x.rq false true) {} ps (marked poison data)
          if run.fail ≠ 0 then d.bar4Fault else d)

/-- The league relay exists on the manager only: on a worker or a spare HIF_RELAY_CMD reads as zero (R516). -/
def Dev.relayAbsent (d : Dev) : Bool := d.rd 0 Reg.LINK_CFG.ROLE ≠ 1 && d.rd 0 Reg.LINK_STATE.LEAGUE ≠ 0

/-- GO of HIF_RELAY_CMD (R516, R524): a request leaves unless one is under way. -/
def Dev.relayGo (d : Dev) : Dev :=
  let pkg := d.rd 0 Reg.HIF_RELAY_CMD.PKG
  if d.relayAbsent ∨ d.rd 0 Reg.HIF_RELAY_CMD.GO_BUSY = 1 then d
  else if d.rd 0 Reg.LINK_CFG.ROLE ≠ 1 ∨ pkg = d.pkgId ∨ d.rd 0 (Reg.LINK_ROUTE.VALID.at 8 pkg) = 0 then d.wr 0 Reg.HIF_RELAY_CMD.RESULT 1
  else (d.wr 0 Reg.HIF_RELAY_CMD.GO_BUSY 1).emit (.mgmt (.relayRequest d.pkgId (d.rd 0 Reg.HIF_RELAY_CMD.DIE) (d.rd 0 Reg.HIF_RELAY_CMD.OFFSET)))

/-- RELAY_READ: a write of the whole register with GO. -/
def execRelayRead (pkg die offset : Nat) (s : State) : Host.Outcome State Fault Refusal :=
  s.onDev (fun d =>
    if d.relayAbsent then d
    else (((d.wr 0 Reg.HIF_RELAY_CMD.PKG pkg).wr 0 Reg.HIF_RELAY_CMD.DIE die).wr 0 Reg.HIF_RELAY_CMD.OFFSET offset).relayGo)

/-- RELAY_TIMEOUT (R516). -/
def execRelayTimeout (s : State) : Host.Outcome State Fault Refusal :=
  s.onDev (fun d =>
    if d.rd 0 Reg.HIF_RELAY_CMD.GO_BUSY = 1 then (d.wr 0 Reg.HIF_RELAY_CMD.GO_BUSY 0).wr 0 Reg.HIF_RELAY_CMD.RESULT 2 else d)

end Sys2Proof.Machine
end

