-- ==== Sys2Proof/Machine/RasCmds.lean ====
section
/-! DEFINITION. The crash dump, the repair log's consumer and the flash commands (15 and 17 of the spec). -/

namespace Sys2Proof.Machine

/-- A unit of the dump (R619): die, KIND and INDEX of R621. -/
structure DumpUnit where
  die : Nat
  kind : Nat
  index : Nat
  deriving DecidableEq, Repr

/-- First offset of a block by KIND and INDEX, and its size (R28). -/
def blockAt (kind index : Nat) : Nat × Nat :=
  match kind with
  | 0 => (0x0, 0x10000)
  | 1 => (0x10000, 0x10000)
  | 2 => (0x20000, 0x10000)
  | 3 => (0x30000, 0x8000)
  | 4 => (0x100000 + index * 0x10000, 0x10000)
  | 5 => (0x1000000 + index * 0x4000, 0x4000)
  | 6 => (0x2000000, 0x10000)
  | 7 => (0x2100000, 0x10000)
  | 8 => (0x2200000, 0x10000)
  | 9 => (0x2300000, 0x10000)
  | 10 => (0x2400000, 0x10000)
  | 11 => (0x2500000, 0x10000)
  | 12 => (0x2600000, 0x10000)
  | _ => (0x2700000, 0x10000)

/-- The units of a die, in the order of R28, its cores last (R619). -/
def Dev.unitsOf (d : Dev) (die : Nat) : List DumpUnit :=
  let one := fun (k : Nat) => ([⟨die, k, 0⟩] : List DumpUnit)
  if 2 ≤ die then
    one 0 ++ one 1 ++ one 2 ++ one 3 ++ (List.range 22).map (fun i => ⟨die, 4, i⟩) ++ (List.range 352).map (fun i => ⟨die, 5, i⟩) ++ one 6 ++ one 7 ++ one 8
  else
    one 0 ++ one 1 ++ one 2 ++ one 3 ++ one 7 ++ (if die = 0 then one 8 else []) ++ one 9 ++ (if die = d.sioDie then one 10 else [])
      ++ (if die = 0 then one 11 else []) ++ one 12 ++ (if die = 0 then one 13 else []) ++ (List.range 48).map (fun i => ⟨die, 0x80, i⟩)

/-- Every unit of the package in die-number order. -/
def Dev.dumpUnits (d : Dev) : List DumpUnit := d.dies.flatMap (fun die => d.unitsOf die)

/-- The registers of a block: every listed offset in ascending order. -/
def Dev.blockBody (d : Dev) (u : DumpUnit) : List Byte :=
  let (base, size) := blockAt u.kind u.index
  (List.range (size / 8)).flatMap (fun i => match d.reg64 u.die (base + 8 * i) with
    | some v => leBytes 8 v
    | none => [])

/-- The body of a core's record (R621): 384 bytes. -/
def Hart.dumpBody (t : Hart) : List Byte :=
  let c := fun (n : Nat) => leBytes 8 (KMap.get 0 t.csr n)
  let b := leBytes 8 t.core.pc ++ leBytes 8 t.priv ++ (List.range 31).flatMap (fun r => leBytes 8 (t.core.gx (r + 1))) ++ c 0x300 ++ c 0x342 ++ c 0x341 ++ c 0x343
    ++ c 0x142 ++ c 0x141 ++ c 0x143 ++ c 0x180 ++ c 0x7C0
  b ++ leBytes (384 - b.length) 0

/-- A unit's die answers no read of the side path: it has stopped (R612, R619). -/
def Dev.silent (d : Dev) (u : DumpUnit) : Bool := d.boot.stopped.contains u.die

/-- The body of a unit's record and its STATUS: 0 OK, 1 NO_RESPONSE, 3 ABSENT. -/
def Dev.unitBody (d : Dev) (u : DumpUnit) : List Byte × Nat :=
  if !d.placed u.die then ([], 3)
  else if d.silent u then ([], 1)
  else (if u.kind = 0x80 then (d.hart (u.die * 64 + u.index)).dumpBody else d.blockBody u, 0)

/-- Writes a unit's record at an offset of the region: the length of the record. -/
def Dev.writeUnit (d : Dev) (u : DumpUnit) (at_ : Nat) : Nat × Dev :=
  let (b, st) := d.unitBody u
  let r := leBytes 1 u.die ++ leBytes 1 u.kind ++ leBytes 2 u.index ++ leBytes 1 st ++ leBytes 3 0 ++ leBytes 4 b.length ++ leBytes 4 0 ++ b
  (r.length, (d.writePa { unit := 39 } (d.rd 0 Reg.RAS_DUMP_BASE.BASE + at_) (clean r)).2)

/-- Bytes of a perch's sample (R618). -/
def Dev.sampleBytes (d : Dev) : Nat := d.charter.ras.scrupleKib * 1024

/-- Bytes of the dump region (R620). -/
def Dev.dumpSize (d : Dev) : Nat := 8 * 2 ^ 20 + 2112 * d.sampleBytes

/-- A perch writes no sample: it is off, or its die is not there (R618). -/
def Dev.sampleAbsent (d : Dev) (p : Nat) : Bool := d.perchCount ≤ p || (d.perch p).pstate = 0 || d.boot.stopped.contains (perchDie p)

/-- The perches write their samples at a device reset (R618). -/
def Dev.takeSamples (d : Dev) : Dev :=
  if d.sampleBytes = 0 then d
  else (List.range d.perchCount).foldl (fun d p =>
    if d.sampleAbsent p then d
    else (d.writePa { unit := 39 } (d.rd 0 Reg.RAS_DUMP_BASE.BASE + 8 * 2 ^ 20 + p * d.sampleBytes) (d.spadRead p 0 d.sampleBytes)).2) d

/-- Starts a dump (R620, R622): BUSY, and nothing done yet. -/
def Dev.dumpBegin (d : Dev) (trigger : Nat) : Dev :=
  let d := ((d.wr 0 Reg.RAS_DUMP_STATUS.BUSY 1).wr 0 Reg.RAS_DUMP_STATUS.TRIGGER trigger).wr 0 Reg.RAS_DUMP_STATUS.NO_RESPONSE 0
  { d with boot := { d.boot with dumping := some (0, 4096) } }

/-- Ends a dump: header, the bitmap of absent samples, RAS_DUMP_STATUS, the first chunk in the window, and vector 7 (R617, R620, R623). -/
def Dev.dumpEnd (d : Dev) (tick : Nat) : Dev :=
  let base := d.rd 0 Reg.RAS_DUMP_BASE.BASE
  let trigger := d.rd 0 Reg.RAS_DUMP_STATUS.TRIGGER
  let (us, d) := d.free
  let us := us % 2 ^ 24
  let head := [0x44, 0x55, 0x4D, 0x50] ++ leBytes 1 trigger ++ leBytes 3 0 ++ leBytes 8 tick ++ leBytes 4 d.dumpUnits.length
    ++ leBytes 4 (d.rd 0 Reg.RAS_DUMP_STATUS.NO_RESPONSE) ++ leBytes 4 us ++ leBytes 4 d.charter.ras.scrupleKib
  let absent := (List.range 2112).foldl (fun n p => if d.sampleAbsent p then n + 2 ^ p else n) 0
  let put := fun (d : Dev) (off : Nat) (b : List Byte) => (d.writePa { unit := 39 } (base + off) (clean b)).2
  let d := put d 0 (head ++ leBytes (64 - head.length) 0)
  let d := if trigger = 1 then put d 1024 (leBytes 264 absent) else d
  let d := ((d.wr 0 Reg.RAS_DUMP_STATUS.BUSY 0).wr 0 Reg.RAS_DUMP_STATUS.VALID 1).wr 0 Reg.RAS_DUMP_STATUS.ELAPSED_US us
  let d := ((d.wr 0 Reg.RAS_DUMP_READ.READY 1).wr 0 Reg.RAS_DUMP_READ.CHUNK 0).wr 0 Reg.RAS_DUMP_READ.CHUNKS (d.dumpSize / 32768)
  ({ d with boot := { d.boot with dumping := none } }).raiseEvent 7

/-- Reads the units from `us` on, each at its place, until the first that does not answer (`wait`), or to the end. -/
def Dev.dumpUnitsFrom (d : Dev) (wait : Bool) : List DumpUnit → Nat → Nat → Dev
  | [], _, _ => d.dumpEnd d.tick
  | u :: us, n, at_ =>
    if wait ∧ d.placed u.die ∧ d.silent u then { d with boot := { d.boot with dumping := some (n, at_) } }
    else
      let d := if d.placed u.die ∧ d.silent u then d.inc 0 Reg.RAS_DUMP_STATUS.NO_RESPONSE 1 else d
      let (k, d) := d.writeUnit u at_
      d.dumpUnitsFrom wait us (n + 1) (at_ + k)

/-- A software dump (R622). -/
def Dev.takeDump (d : Dev) : Dev :=
  if d.rd 0 Reg.RAS_DUMP_STATUS.BUSY = 1 ∨ !d.sealed then d
  else let d := d.dumpBegin 2; d.dumpUnitsFrom true d.dumpUnits 0 4096

/-- The unit that a dump waits for is recorded as NO_RESPONSE, and the dump goes on (R619). -/
def Dev.dumpTimeout (d : Dev) : Dev :=
  match d.boot.dumping with
  | none => d
  | some (n, at_) =>
    match d.dumpUnits.drop n with
    | [] => d.dumpEnd d.tick
    | u :: us =>
      let (k, d) := (d.inc 0 Reg.RAS_DUMP_STATUS.NO_RESPONSE 1).writeUnit u at_
      d.dumpUnitsFrom true us (n + 1) (at_ + k)

/-- Releases the chunk in the window: the next is loaded, or chunk 0 after the last (R623). -/
def Dev.dumpRelease (d : Dev) : Dev :=
  if d.rd 0 Reg.RAS_DUMP_READ.READY = 0 then d
  else
    let n := d.rd 0 Reg.RAS_DUMP_READ.CHUNK + 1
    d.wr 0 Reg.RAS_DUMP_READ.CHUNK (if d.rd 0 Reg.RAS_DUMP_READ.CHUNKS ≤ n then 0 else n)

/-- A write of RAS_LOG_PTR.CONS (R608): none that moves it backwards or past PROD. -/
def Dev.logConsume (d : Dev) (v : Nat) : Dev :=
  let cons := d.rd 0 Reg.RAS_LOG_PTR.CONS
  let prod := d.rd 0 Reg.RAS_LOG_PTR.PROD
  let v := v % 8192
  if (v + 8192 - cons) % 8192 ≤ (prod + 8192 - cons) % 8192 then d.wr 0 Reg.RAS_LOG_PTR.CONS v else d

/-- Start and size of the region of the flash that holds an offset, with the code of the copy it is: 0 none, 1 A, 2 B; firmware or charter (R538). -/
def flashCopy (off : Nat) : Option (Bool × Nat) :=
  if 0x100000 ≤ off ∧ off < 0x500000 then some (true, 1)
  else if 0x500000 ≤ off ∧ off < 0x900000 then some (true, 2)
  else if 0x1000000 ≤ off ∧ off < 0x4800000 then some (false, 1)
  else if 0x4800000 ≤ off ∧ off < 0x8000000 then some (false, 2)
  else none

/-- The journal's part of the flash (R538). -/
def inJournal (off : Nat) : Bool := 0x900000 ≤ off && off < 0x1000000

/-- After seal a flash command may not touch an offset (R539). -/
def Dev.flashProtected (d : Dev) (off : Nat) : Bool :=
  d.sealed && !inJournal off && (match flashCopy off with
    | some (fw, c) => c = if fw then d.boot.fwUsed else d.boot.copyUsed
    | none => true)

/-- Starts a flash command (R572, R573): 1 program, 2 erase. -/
def Dev.flashCommand (d : Dev) (op : Nat) : Dev :=
  let off := d.rd 0 Reg.BOOT_FLASH_ADDR.OFFSET
  if d.rd 0 Reg.BOOT_FLASH_CMD.BUSY = 1 ∨ (op ≠ 1 ∧ op ≠ 2) then d
  else if off % (if op = 1 then 256 else 65536) ≠ 0 then d.wr 0 Reg.BOOT_FLASH_CMD.RESULT 2
  else if d.flashProtected off then d.wr 0 Reg.BOOT_FLASH_CMD.RESULT 3
  else
    let data := (List.range 32).flatMap (fun w => leBytes 8 (d.rd 0 (Reg.BOOT_FLASH_DATA.DATA.at 8 w)))
    let d := d.wr 0 Reg.BOOT_FLASH_CMD.BUSY 1
    { d with boot := { d.boot with flashOp := some (decide (op = 2), off, data) } }

/-- Segments of the journal that hold nothing but erased bytes (R541, R571). -/
def Dev.erasedSegments (d : Dev) : Nat :=
  ((List.range 112).filter (fun i => !d.nv.flash.any (fun e => 0x900000 + i * 65536 ≤ e.1 && e.1 < 0x900000 + (i + 1) * 65536))).length

/-- Ends a flash command (R573): NOR bits are programmed to zero, an erased byte is 0xFF; where the verify fails the bytes are open. -/
def Dev.flashEnd (d : Dev) (ok : Bool) : Dev :=
  match d.boot.flashOp with
  | none => d
  | some (erase, off, data) =>
    let n := if erase then 65536 else 256
    let old := (List.range n).map (fun i => KMap.get 0xFF#8 d.nv.flash (off + i))
    let (open_, d) := if ok then ([], d) else d.freeBytes n
    let new := if !ok then open_ else if erase then List.replicate n 0xFF#8 else (old.zip data).map (fun p => p.1 &&& p.2)
    let d : Dev := { d with nv := { d.nv with flash := KMap.setList 0xFF#8 d.nv.flash off new }, boot := { d.boot with flashOp := none } }
    let d := if inJournal off then d.wr 0 Reg.BOOT_JOURNAL.ERASED d.erasedSegments else d
    (d.wr 0 Reg.BOOT_FLASH_CMD.BUSY 0).wr 0 Reg.BOOT_FLASH_CMD.RESULT (if ok then 0 else 1)

/-- DUMP_UNIT_TIMEOUT (R619). -/
def execDumpUnitTimeout (s : State) : Host.Outcome State Fault Refusal := s.onDev (fun d => d.dumpTimeout)

/-- DUMP_TAKE (R622). -/
def execDumpTake (s : State) : Host.Outcome State Fault Refusal := s.onDev (fun d => d.takeDump)

/-- DUMP_CHUNK_RELEASE (R623). -/
def execDumpChunkRelease (s : State) : Host.Outcome State Fault Refusal := s.onDev (fun d => d.dumpRelease)

/-- LOG_CONS_WRITE (R608). -/
def execLogConsWrite (value : Nat) (s : State) : Host.Outcome State Fault Refusal := s.onDev (fun d => d.logConsume value)

/-- FLASH_PROGRAM_PAGE (R573). -/
def execFlashProgramPage (s : State) : Host.Outcome State Fault Refusal := s.onDev (fun d => d.flashCommand 1)

/-- FLASH_ERASE_SECTOR (R573). -/
def execFlashEraseSector (s : State) : Host.Outcome State Fault Refusal := s.onDev (fun d => d.flashCommand 2)

/-- FLASH_CMD_COMPLETE (R573). -/
def execFlashCmdComplete (verifyOk : Bool) (s : State) : Host.Outcome State Fault Refusal := s.onDev (fun d => d.flashEnd verifyOk)

end Sys2Proof.Machine
end

