-- ==== Sys2Proof/Machine/Crypto.lean ====
section
/-! DEFINITION. The standard algorithms that the spec names: SHA-384 and ECDSA P-384 (R543, FIPS 180-4 and FIPS 186-5), AES in counter and GCM mode
with the key derivation of SRTP (R446, RFC 3711 and RFC 7714). -/

namespace Sys2Proof.Machine

/-- Round constants of SHA-512, first quarter. -/
def sha512K0 : List W64 := [
  0x428A2F98D728AE22#64, 0x7137449123EF65CD#64, 0xB5C0FBCFEC4D3B2F#64, 0xE9B5DBA58189DBBC#64,
  0x3956C25BF348B538#64, 0x59F111F1B605D019#64, 0x923F82A4AF194F9B#64, 0xAB1C5ED5DA6D8118#64,
  0xD807AA98A3030242#64, 0x12835B0145706FBE#64, 0x243185BE4EE4B28C#64, 0x550C7DC3D5FFB4E2#64,
  0x72BE5D74F27B896F#64, 0x80DEB1FE3B1696B1#64, 0x9BDC06A725C71235#64, 0xC19BF174CF692694#64,
  0xE49B69C19EF14AD2#64, 0xEFBE4786384F25E3#64, 0x0FC19DC68B8CD5B5#64, 0x240CA1CC77AC9C65#64]

/-- Second quarter. -/
def sha512K1 : List W64 := [
  0x2DE92C6F592B0275#64, 0x4A7484AA6EA6E483#64, 0x5CB0A9DCBD41FBD4#64, 0x76F988DA831153B5#64,
  0x983E5152EE66DFAB#64, 0xA831C66D2DB43210#64, 0xB00327C898FB213F#64, 0xBF597FC7BEEF0EE4#64,
  0xC6E00BF33DA88FC2#64, 0xD5A79147930AA725#64, 0x06CA6351E003826F#64, 0x142929670A0E6E70#64,
  0x27B70A8546D22FFC#64, 0x2E1B21385C26C926#64, 0x4D2C6DFC5AC42AED#64, 0x53380D139D95B3DF#64,
  0x650A73548BAF63DE#64, 0x766A0ABB3C77B2A8#64, 0x81C2C92E47EDAEE6#64, 0x92722C851482353B#64]

/-- Third quarter. -/
def sha512K2 : List W64 := [
  0xA2BFE8A14CF10364#64, 0xA81A664BBC423001#64, 0xC24B8B70D0F89791#64, 0xC76C51A30654BE30#64,
  0xD192E819D6EF5218#64, 0xD69906245565A910#64, 0xF40E35855771202A#64, 0x106AA07032BBD1B8#64,
  0x19A4C116B8D2D0C8#64, 0x1E376C085141AB53#64, 0x2748774CDF8EEB99#64, 0x34B0BCB5E19B48A8#64,
  0x391C0CB3C5C95A63#64, 0x4ED8AA4AE3418ACB#64, 0x5B9CCA4F7763E373#64, 0x682E6FF3D6B2B8A3#64,
  0x748F82EE5DEFB2FC#64, 0x78A5636F43172F60#64, 0x84C87814A1F0AB72#64, 0x8CC702081A6439EC#64]

/-- Last quarter. -/
def sha512K3 : List W64 := [
  0x90BEFFFA23631E28#64, 0xA4506CEBDE82BDE9#64, 0xBEF9A3F7B2C67915#64, 0xC67178F2E372532B#64,
  0xCA273ECEEA26619C#64, 0xD186B8C721C0C207#64, 0xEADA7DD6CDE0EB1E#64, 0xF57D4F7FEE6ED178#64,
  0x06F067AA72176FBA#64, 0x0A637DC5A2C898A6#64, 0x113F9804BEF90DAE#64, 0x1B710B35131C471B#64,
  0x28DB77F523047D84#64, 0x32CAAB7B40C72493#64, 0x3C9EBE0A15C9BEBC#64, 0x431D67C49C100D4C#64,
  0x4CC5D4BECB3E42B6#64, 0x597F299CFC657E2A#64, 0x5FCB6FAB3AD6FAEC#64, 0x6C44198C4A475817#64]

/-- Round constants of SHA-512. -/
def sha512K : List W64 := sha512K0 ++ sha512K1 ++ sha512K2 ++ sha512K3

/-- Initial hash value of SHA-384. -/
def sha384Init : List W64 := [0xCBBB9D5DC1059ED8#64, 0x629A292A367CD507#64, 0x9159015A3070DD17#64, 0x152FECD8F70E5939#64, 0x67332667FFC00B31#64, 0x8EB44A8768581511#64, 0xDB0C2E0D64F98FA7#64, 0x47B5481DBEFA4FA4#64]

/-- Big-endian 64-bit words of a block. -/
def beWords64 (l : List Byte) : List W64 := (chunks 8 l).map (fun c => BitVec.ofNat 64 (beNat c))

/-- Extends the message schedule, held newest first, by `n` words. -/
def sha512Extend : Nat → List W64 → List W64
  | 0, w => w
  | n + 1, w =>
    let a := w.getD 1 0
    let b := w.getD 14 0
    let s1 := a.rotateRight 19 ^^^ a.rotateRight 61 ^^^ (a >>> 6)
    let s0 := b.rotateRight 1 ^^^ b.rotateRight 8 ^^^ (b >>> 7)
    sha512Extend n ((s1 + w.getD 6 0 + s0 + w.getD 15 0) :: w)

/-- One round of the compression. -/
def sha512Round (h : List W64) (kw : W64 × W64) : List W64 :=
  match h with
  | [a, b, c, d, e, f, g, hh] =>
    let s1 := e.rotateRight 14 ^^^ e.rotateRight 18 ^^^ e.rotateRight 41
    let ch := (e &&& f) ^^^ (~~~e &&& g)
    let t1 := hh + s1 + ch + kw.1 + kw.2
    let s0 := a.rotateRight 28 ^^^ a.rotateRight 34 ^^^ a.rotateRight 39
    let mj := (a &&& b) ^^^ (a &&& c) ^^^ (b &&& c)
    [t1 + (s0 + mj), a, b, c, d + t1, e, f, g]
  | _ => h

/-- The compression function on one 128-byte block. -/
def sha512Block (h : List W64) (blk : List Byte) : List W64 :=
  let w := (sha512Extend 64 (beWords64 blk).reverse).reverse
  let h' := (sha512K.zip w).foldl sha512Round h
  (h.zip h').map (fun p => p.1 + p.2)

/-- SHA-384 of a byte list (R543). -/
def sha384 (l : List Byte) : List Byte :=
  let n := l.length
  let padded := l ++ [0x80#8] ++ List.replicate ((239 - n % 128) % 128) 0#8 ++ beBytes 16 (8 * n)
  (((chunks 128 padded).foldl sha512Block sha384Init).take 6).flatMap (fun w => beBytes 8 w.toNat)

/-- The prime of P-384. -/
def p384P : Nat := 2 ^ 384 - 2 ^ 128 - 2 ^ 96 + 2 ^ 32 - 1

/-- The order of P-384. -/
def p384N : Nat := 0xffffffffffffffffffffffffffffffffffffffffffffffffc7634d81f4372ddf581a0db248b0a77aecec196accc52973

/-- The coefficient b of P-384. -/
def p384B : Nat := 0xb3312fa7e23ee7e4988e056be3f82d19181d9c6efe8141120314088f5013875ac656398d8a2ed19d2a85c8edd3ec2aef

/-- The base point of P-384. -/
def p384G : Nat × Nat :=
  (0xaa87ca22be8b05378eb1c71ef320ad746e1d3b628ba79b9859f741e082542a385502f25dbf55296c3a545e3872760ab7,
   0x3617de4a96262c6f5d9e98bf9292dc29f8f41dbd289a147ce9da3113b5f0b8c00a60b1ce1d7e819d7a431d7c90ea0e5f)

/-- a to the power e modulo m, over `fuel` bits of e. -/
def powMod (m : Nat) : Nat → Nat → Nat → Nat
  | 0, _, _ => 1 % m
  | f + 1, a, e =>
    let r := powMod m f (a * a % m) (e / 2)
    if e % 2 = 1 then a * r % m else r

/-- Inverse modulo a prime. -/
def invMod (m a : Nat) : Nat := powMod m 384 (a % m) (m - 2)

/-- Sum of two points of P-384; `none` is the point at infinity. -/
def p384Add : Option (Nat × Nat) → Option (Nat × Nat) → Option (Nat × Nat)
  | none, q => q
  | p, none => p
  | some (x1, y1), some (x2, y2) =>
    if x1 = x2 ∧ (y1 + y2) % p384P = 0 then none
    else
      let l := if x1 = x2 then (3 * x1 * x1 + (p384P - 3)) * invMod p384P (2 * y1) % p384P
        else (y2 + (p384P - y1)) * invMod p384P (x2 + (p384P - x1)) % p384P
      let x := (l * l + 2 * p384P - x1 - x2) % p384P
      some (x, (l * (x1 + (p384P - x)) + (p384P - y1)) % p384P)

/-- k times a point, over `fuel` bits of k. -/
def p384Mul : Nat → Nat → Option (Nat × Nat) → Option (Nat × Nat)
  | 0, _, _ => none
  | f + 1, k, p =>
    let r := p384Mul f (k / 2) (p384Add p p)
    if k % 2 = 1 then p384Add p r else r

/-- ECDSA P-384 verification of (r, s) over a digest with an uncompressed SEC1 key (R543). -/
def ecdsaVerify (pub digest : List Byte) (r s : Nat) : Bool :=
  let x := fldBE pub 1 48
  let y := fldBE pub 49 48
  if pub.length ≠ 97 ∨ pub.headD 0 ≠ 4#8 then false
  else if p384P ≤ x ∨ p384P ≤ y ∨ (y * y) % p384P ≠ (x * x * x + (p384P - 3) * x + p384B) % p384P then false
  else if r = 0 ∨ p384N ≤ r ∨ s = 0 ∨ p384N ≤ s then false
  else
    let w := invMod p384N s
    let u1 := beNat digest * w % p384N
    let u2 := r * w % p384N
    match p384Add (p384Mul 384 u1 (some p384G)) (p384Mul 384 u2 (some (x, y))) with
    | none => false
    | some (px, _) => px % p384N = r

/-- Product in the field of AES, over `fuel` bits. -/
def gmul : Nat → Byte → Byte → Byte
  | 0, _, _ => 0
  | f + 1, a, b =>
    let r := gmul f (if a.getLsbD 7 then (a <<< 1) ^^^ 0x1B#8 else a <<< 1) (b >>> 1)
    if b.getLsbD 0 then a ^^^ r else r

/-- The S-box of AES: inverse in the field, then the affine map. -/
def aesSbox (a : Byte) : Byte :=
  let sq := fun x => gmul 8 x x
  let a2 := sq a
  let a4 := sq a2
  let a8 := sq a4
  let a16 := sq a8
  let a32 := sq a16
  let a64 := sq a32
  let inv := gmul 8 (gmul 8 (gmul 8 a2 a4) (gmul 8 a8 a16)) (gmul 8 (gmul 8 a32 a64) (sq a64))
  inv ^^^ inv.rotateLeft 1 ^^^ inv.rotateLeft 2 ^^^ inv.rotateLeft 3 ^^^ inv.rotateLeft 4 ^^^ 0x63#8

/-- Xor of two byte lists. -/
def xorBytes (a b : List Byte) : List Byte := (a.zip b).map (fun p => p.1 ^^^ p.2)

/-- Expands an AES key: `n` more words after the words held newest first; `i` counts words, `nk` is the key's words. -/
def aesExpand (nk : Nat) : Nat → Nat → Byte → List (List Byte) → List (List Byte)
  | 0, _, _, w => w
  | n + 1, i, rc, w =>
    let prev := w.headD []
    let old := w.getD (nk - 1) []
    if i % nk = 0 then
      let t := (prev.drop 1 ++ prev.take 1).map aesSbox
      aesExpand nk n (i + 1) (gmul 8 rc 2#8) (xorBytes old (xorBytes t [rc, 0, 0, 0]) :: w)
    else if nk = 8 ∧ i % 8 = 4 then aesExpand nk n (i + 1) rc (xorBytes old (prev.map aesSbox) :: w)
    else aesExpand nk n (i + 1) rc (xorBytes old prev :: w)

/-- The round keys of a 16- or 32-byte key. -/
def aesKeys (key : List Byte) : List (List Byte) :=
  let nk := key.length / 4
  let words := (aesExpand nk (4 * (nk + 7) - nk) nk 1#8 (chunks 4 key).reverse).reverse
  (chunks 4 words).map List.flatten

/-- ShiftRows on the 16 bytes of a state. -/
def aesShiftRows (s : List Byte) : List Byte := (List.range 16).map (fun i => s.getD ((i + 4 * (i % 4)) % 16) 0)

/-- MixColumns on one column. -/
def aesMix (c : List Byte) : List Byte :=
  (List.range 4).map (fun i => gmul 8 (c.getD i 0) 2 ^^^ gmul 8 (c.getD ((i + 1) % 4) 0) 3 ^^^ c.getD ((i + 2) % 4) 0 ^^^ c.getD ((i + 3) % 4) 0)

/-- The middle and last rounds of AES. -/
def aesRounds : List (List Byte) → List Byte → List Byte
  | [], s => s
  | [k], s => xorBytes (aesShiftRows (s.map aesSbox)) k
  | k :: ks, s => aesRounds ks (xorBytes ((chunks 4 (aesShiftRows (s.map aesSbox))).flatMap aesMix) k)

/-- AES of one block. -/
def aesBlock (key blk : List Byte) : List Byte :=
  match aesKeys key with
  | [] => blk
  | k :: ks => aesRounds ks (xorBytes blk k)

/-- `n` blocks of AES key stream from a counter block, the last `w` bytes of which count. -/
def aesCtr (key : List Byte) (w : Nat) : Nat → List Byte → List Byte
  | 0, _ => []
  | n + 1, iv =>
    let pre := iv.take (16 - w)
    aesBlock key iv ++ aesCtr key w n (pre ++ beBytes w (beNat (iv.drop (16 - w)) + 1))

/-- Product in GF(2^128) of GHASH, over `fuel` bits. -/
def ghMul : Nat → BitVec 128 → BitVec 128 → BitVec 128
  | 0, _, _ => 0
  | f + 1, x, v =>
    let v' := if v.getLsbD 0 then (v >>> 1) ^^^ BitVec.shiftLeft 0xE1#128 120 else v >>> 1
    let r := ghMul f (x <<< 1) v'
    if x.getLsbD 127 then v ^^^ r else r

/-- Zero bytes that fill up a block of 16. -/
def padTo16 (l : List Byte) : List Byte := l ++ List.replicate ((16 - l.length % 16) % 16) 0#8

/-- GHASH over whole blocks. -/
def ghash (h : BitVec 128) (l : List Byte) : BitVec 128 :=
  (chunks 16 l).foldl (fun y b => ghMul 128 (y ^^^ BitVec.ofNat 128 (beNat b)) h) 0

/-- AES-GCM encryption with a 12-byte nonce: cipher text and 16-byte tag. -/
def gcmTag (key nonce aad ct : List Byte) : List Byte :=
  let h := BitVec.ofNat 128 (beNat (aesBlock key (List.replicate 16 0#8)))
  let s := ghash h (padTo16 aad ++ padTo16 ct ++ beBytes 8 (8 * aad.length) ++ beBytes 8 (8 * ct.length))
  xorBytes (beBytes 16 s.toNat) (aesBlock key (nonce ++ beBytes 4 1))

/-- Encrypts or decrypts with the counter of GCM. -/
def gcmCrypt (key nonce text : List Byte) : List Byte :=
  xorBytes text (aesCtr key 4 (ceilDiv text.length 16) (nonce ++ beBytes 4 2))

/-- One session value of SRTP (RFC 3711 section 4.3, key derivation rate zero; the 96-bit salt of RFC 7714 section 11 is padded to 112 bits). -/
def srtpDerive (master salt : List Byte) (label n : Nat) : List Byte :=
  let x := xorBytes (salt ++ [0, 0]) (beBytes 14 (label * 2 ^ 48))
  (aesCtr master 2 (ceilDiv n 16) (x ++ [0, 0])).take n

/-- The nonce of one SRTP packet (RFC 7714 section 8.1). -/
def srtpNonce (sessionSalt : List Byte) (ssrc roc seq : Nat) : List Byte :=
  xorBytes ([0, 0] ++ beBytes 4 ssrc ++ beBytes 4 roc ++ beBytes 2 seq) sessionSalt

/-- SRTP protection: the payload encrypted, with its tag (RFC 7714). -/
def srtpProtect (master salt header payload : List Byte) (ssrc roc seq : Nat) : List Byte :=
  let k := srtpDerive master salt 0 master.length
  let n := srtpNonce (srtpDerive master salt 2 12) ssrc roc seq
  let ct := gcmCrypt k n payload
  ct ++ gcmTag k n header ct

/-- SRTP unprotection: the plain payload where the tag holds. -/
def srtpUnprotect (master salt header body : List Byte) (ssrc roc seq : Nat) : Option (List Byte) :=
  if body.length < 16 then none
  else
    let k := srtpDerive master salt 0 master.length
    let n := srtpNonce (srtpDerive master salt 2 12) ssrc roc seq
    let ct := body.take (body.length - 16)
    if gcmTag k n header ct = body.drop (body.length - 16) then some (gcmCrypt k n ct) else none

end Sys2Proof.Machine
end

