-- ==== Sys2Proof/Machine/CharterParse.lean ====
section
/-! DEFINITION. Reads a charter from a byte source by the layouts of R542 to R555, R49, R50, R248, R354, R355 and R433. -/

namespace Sys2Proof.Machine

/-- The byte source that starts `off` bytes further. -/
def subSrc (b : Nat → Byte) (off i : Nat) : Byte := b (off + i)

/-- `n` entries of `size` bytes from `off`, each read by `f`. -/
def parseTable {α : Type} (b : Nat → Byte) (f : (Nat → Byte) → α) (off size : Nat) (n : Nat) : List α :=
  (List.range n).map (fun i => f (subSrc b (off + size * i)))

/-- A table that an offset (8) and a count (4) at `at_` of a SCHD body name (R550). -/
def parseRef {α : Type} (b : Nat → Byte) (f : (Nat → Byte) → α) (at_ size : Nat) : List α :=
  parseTable b f (le b at_ 8) size (le b (at_ + 8) 4)

/-- Span entry (R49). -/
def parseSpanEntry (b : Nat → Byte) : SpanEntry :=
  { spanId := le b 0 2,
    kind := le b 2 1,
    flags := le b 3 1,
    group := le b 4 2,
    kernel := le b 6 2,
    startNs := le b 8 4,
    budget := le b 12 4,
    partition := le b 16 1,
    carryLimit := le b 17 1,
    contId := le b 18 2,
    saveBytes := le b 20 4,
    argDva := le b 24 8,
    statusDva := le b 32 8,
    saveDva := le b 40 8 }

/-- Pattern entry (R550). -/
def parsePattern (b : Nat → Byte) : Pattern :=
  { firstSpan := le b 0 4,
    spanCount := le b 4 4,
    firstMove := le b 8 4,
    moveCount := le b 12 2 }

/-- Move-list entry (R248). -/
def parseMoveEntry (b : Nat → Byte) : MoveEntry :=
  { kind := le b 0 1,
    flags := le b 1 1,
    partition := le b 2 1,
    execDie := le b 3 1,
    userSpan := le b 4 2,
    startNs := le b 8 4,
    deadlineNs := le b 12 4,
    src := le b 16 8,
    dst := le b 24 8,
    amount := le b 32 4,
    port := le b 36 1,
    nsid := le b 40 4,
    doneDva := le b 48 8 }

/-- Collective definition (R354). -/
def parseCollDef (b : Nat → Byte) : CollDef :=
  { collId := le b 0 2,
    op := le b 2 1,
    mode := le b 3 1,
    dtype := le b 4 1,
    redop := le b 5 1,
    scope := le b 6 1,
    resultFmt := le b 7 1,
    partition := le b 8 1,
    root := le b 10 2,
    maxCount := le b 12 4,
    deadlineNs := le b 16 4,
    memberFirst := le b 20 4,
    memberCount := le b 24 2 }

/-- Member entry (R355). -/
def parseCollMember (b : Nat → Byte) : CollMember :=
  { package := le b 0 1,
    readyCtr := le b 1 1,
    doneCtr := le b 2 1,
    perch := le b 4 2,
    spanId := le b 6 2,
    postOff := le b 8 4,
    srcDva := le b 16 8,
    dstDva := le b 24 8,
    resDva := le b 32 8,
    statusDva := le b 40 8 }

/-- The bytes of a span entry, for the copy in a die's DRAM (R49, R550). -/
def SpanEntry.bytes (e : SpanEntry) : List Byte :=
  leBytes 2 e.spanId ++ leBytes 1 e.kind ++ leBytes 1 e.flags ++ leBytes 2 e.group ++ leBytes 2 e.kernel ++ leBytes 4 e.startNs
    ++ leBytes 4 e.budget ++ leBytes 1 e.partition ++ leBytes 1 e.carryLimit ++ leBytes 2 e.contId ++ leBytes 4 e.saveBytes
    ++ leBytes 8 e.argDva ++ leBytes 8 e.statusDva ++ leBytes 8 e.saveDva

/-- The bytes of a move entry, for the copy in the fathom channels (R248, R550). -/
def MoveEntry.bytes (e : MoveEntry) : List Byte :=
  leBytes 1 e.kind ++ leBytes 1 e.flags ++ leBytes 1 e.partition ++ leBytes 1 e.execDie ++ leBytes 2 e.userSpan ++ leBytes 2 0
    ++ leBytes 4 e.startNs ++ leBytes 4 e.deadlineNs ++ leBytes 8 e.src ++ leBytes 8 e.dst ++ leBytes 4 e.amount ++ leBytes 1 e.port
    ++ leBytes 3 0 ++ leBytes 4 e.nsid ++ leBytes 4 0 ++ leBytes 8 e.doneDva ++ leBytes 8 0

/-- The bytes of a collective definition (R354). -/
def CollDef.bytes (e : CollDef) : List Byte :=
  leBytes 2 e.collId ++ leBytes 1 e.op ++ leBytes 1 e.mode ++ leBytes 1 e.dtype ++ leBytes 1 e.redop ++ leBytes 1 e.scope ++ leBytes 1 e.resultFmt
    ++ leBytes 1 e.partition ++ leBytes 1 0 ++ leBytes 2 e.root ++ leBytes 4 e.maxCount ++ leBytes 4 e.deadlineNs ++ leBytes 4 e.memberFirst
    ++ leBytes 2 e.memberCount ++ leBytes 38 0

/-- The bytes of a member entry (R355). -/
def CollMember.bytes (e : CollMember) : List Byte :=
  leBytes 1 e.package ++ leBytes 1 e.readyCtr ++ leBytes 1 e.doneCtr ++ leBytes 1 0 ++ leBytes 2 e.perch ++ leBytes 2 e.spanId
    ++ leBytes 4 e.postOff ++ leBytes 4 0 ++ leBytes 8 e.srcDva ++ leBytes 8 e.dstDva ++ leBytes 8 e.resDva ++ leBytes 8 e.statusDva

/-- The first entry of a table whose bytes differ from those that its fields give. -/
def firstDirty {α : Type} (b : Nat → Byte) (f : (Nat → Byte) → α) (g : α → List Byte) (at_ size : Nat) : Option Nat :=
  (parseRef b (fun e => decide (srcList e 0 size = g (f e))) at_ size).findIdx? (fun ok => !ok)

/-- SCHD body (R550). -/
def parseSched (b : Nat → Byte) : Sched :=
  { period := le b 0 2,
    srcPri := bits (le b 2 1) 0 4,
    srcAlt := bits (le b 2 1) 4 4,
    reqLock := bit (le b 3 1) 0,
    tickInEdge := bit (le b 3 1) 1,
    ptpDomain := le b 4 1,
    tickOutWidth := le b 5 1,
    floorOpp := le b 8 1,
    patternCount := le b 6 2,
    patterns := parseTable b parsePattern (le b 16 8) 16 (le b 24 4),
    spans := parseRef b parseSpanEntry 28 48,
    groups := parseRef b (fun g => le g 0 264) 40 264,
    moves := parseRef b parseMoveEntry 52 64,
    collDefs := parseRef b parseCollDef 64 64,
    collMembers := parseRef b parseCollMember 76 48,
    badMove := firstDirty b parseMoveEntry MoveEntry.bytes 52 64,
    badDef := firstDirty b parseCollDef CollDef.bytes 64 64,
    badMember := firstDirty b parseCollMember CollMember.bytes 76 48 }

/-- HEAD body (R545). -/
def parseHead (b : Nat → Byte) : Head :=
  { magic := le b 0 4,
    format := le b 4 2,
    part := le b 6 1,
    flags := le b 7 1,
    seq := le b 8 4,
    minFw := le b 12 4,
    joinWaitS := le b 16 4,
    totalLen := le b 20 4 }

/-- Slot entry of TOPO (R546). -/
def parseSlotEntry (b : Nat → Byte) : SlotEntry :=
  { serial := le b 0 8,
    id := le b 8 1,
    role := le b 9 1,
    slice := le b 10 1,
    standsFor := le b 11 1 }

/-- TOPO body (R546). -/
def parseTopo (b : Nat → Byte) : Topo :=
  { planes := le b 1 1,
    managerSlot := le b 2 1,
    fathomGib := le b 3 1,
    nvmePorts := le b 4 1,
    bandMode := le b 8 8,
    switchSerial := (List.range 8).map (fun i => le b (16 + 8 * i) 8),
    edgeReserve := (List.range 32).map (fun i => le b (80 + i) 1),
    slots := parseTable b parseSlotEntry 112 16 (le b 0 1) }

/-- Mapping entry (R548). -/
def parseMapEntry (b : Nat → Byte) : MapEntry :=
  { dva := le b 0 8,
    count := le b 8 4,
    rights := le b 12 1,
    kind := le b 13 1,
    band := le b 14 1,
    gib := le b 15 1,
    leaf := le b 16 1,
    pkg := le b 17 1,
    forId := le b 18 1,
    target := le b 24 8 }

/-- Number of APLIC sources that a partition's routes cover (R474). -/
def aplicSources : Nat := 9

/-- Record `p` of the PART body (R547). -/
def parsePartRec (body : Nat → Byte) (p : Nat) : PartRec :=
  let b := subSrc body (64 * p)
  { flags := le b 0 1,
    tableBand := le b 1 1,
    tableGib := le b 2 1,
    harts := le b 16 16,
    service := le b 32 4,
    entryDva := le b 40 8,
    maps := parseTable body parseMapEntry (le b 8 8) 32 (le b 4 4),
    routes := parseTable body (fun r => { hart := le r 0 1, file := le r 1 1, identity := le r 2 2 }) (le b 48 8) 4
      (if le b 48 8 = 0 then 0 else aplicSources) }

/-- QUOT record (R549). -/
def parseQuotRec (b : Nat → Byte) : QuotRec :=
  { scratch := le b 0 264,
    chainMask := le b 264 2,
    scMask := (List.range 6).map (fun i => le b (266 + 2 * i) 2),
    stewardMask := (List.range 2).map (fun i => le b (278 + 2 * i) 2),
    stackedPages := le b 284 4,
    fathomPages := le b 288 4,
    stackedBw := (List.range 6).map (fun i => le b (292 + 4 * i) 4),
    fathomBw := (List.range 2).map (fun i => le b (316 + 4 * i) 4),
    nvme := (List.range (min 8 (le b 324 4))).map (fun i => (le b (328 + 8 * i) 1, le b (332 + 8 * i) 4)) }

/-- Kernel entry of the KERN body (R551) with its channel table. -/
def parseKernelEntry (body b : Nat → Byte) : KernelEntry :=
  { imageOff := le b 0 4,
    imageSize := le b 4 4,
    entry := le b 8 4,
    chanRows := if le b 12 4 = 0 then [] else
      parseTable body (fun r => (List.range 32).map (fun e => le r (8 * e) 8)) (le b 12 4) 256 (le b 16 4) }

/-- Model-table entry (R552). -/
def parseModelEntry (b : Nat → Byte) : ModelEntry :=
  { partition := le b 0 1,
    port := le b 1 1,
    forId := le b 2 1,
    flags := le b 3 1,
    nsid := le b 4 4,
    lba := le b 8 8,
    bytes := le b 16 8,
    dva := le b 24 8,
    digest := srcList b 32 48 }

/-- KERN body (R551). -/
def parseKern (b : Nat → Byte) (len : Nat) : Kern :=
  { kernels := parseTable b (parseKernelEntry b) 16 32 (le b 0 4),
    image := srcList b 0 len,
    models := parseTable b parseModelEntry (le b 8 8) 96 (le b 4 4) }

/-- Flow entry (R433). -/
def parseFlowEntry (b : Nat → Byte) : FlowEntry :=
  { kind := le b 0 1,
    flags := le b 1 1,
    port := le b 2 1,
    partition := le b 3 1,
    pt := le b 4 1,
    jitter := le b 5 1,
    vlanTci := le b 6 2,
    ssrc := le b 8 4,
    localUdp := le b 12 2,
    remoteUdp := le b 14 2,
    localIp := srcList b 16 16,
    remoteIp := srcList b 32 16,
    nextHopMac := srcList b 48 6,
    key := le b 54 2,
    tsPerTick := le b 56 4,
    tsPerCell := le b 60 4,
    ringDva := le b 64 8,
    slotBytes := le b 72 4,
    slotCount := le b 76 2,
    cellBytes := le b 78 2,
    producer := le b 92 2,
    t140Pt := le b 94 1,
    earliestNs := le b 96 4 }

/-- PWR body (R554). -/
def parsePwrSec (b : Nat → Byte) : PwrSec :=
  { capW := le b 0 2,
    oppMin := le b 2 1,
    oppMax := le b 3 1,
    policy := le b 4 1,
    keeperQ := le b 5 1,
    gateUs := le b 6 2,
    stewardMhz := le b 8 2 }

/-- RAS body (R554). -/
def parseRasSec (b : Nat → Byte) : RasSec :=
  { eventEn := le b 0 8,
    scrubH := le b 8 4,
    scrupleKib := le b 12 4 }

/-- Plan entry `i` of the DEGR body (R555) with its SCHD body. -/
def parsePlan (body : Nat → Byte) (i : Nat) : Plan :=
  let b := subSrc body (8 + 64 * i)
  { plan := le b 0 1,
    dieId := le b 1 1,
    dieMask := le b 2 1,
    pkgMask := le b 8 8,
    adopt := ((List.range 4).map (fun k => (le b (16 + 2 * k) 1, le b (17 + 2 * k) 1))).filter (fun p => p.1 ≠ 0xFF),
    sched := parseSched (subSrc body (le b 32 8)) }

/-- A section found in a charter: where its body starts and how long it is. -/
structure Section where
  off : Nat
  len : Nat
  deriving DecidableEq, Repr

/-- The tags of the 13 sections in order (R542). -/
def sectionTags : List (List Byte) :=
  [[0x48, 0x45, 0x41, 0x44], [0x54, 0x4F, 0x50, 0x4F], [0x50, 0x41, 0x52, 0x54], [0x51, 0x55, 0x4F, 0x54], [0x53, 0x43, 0x48, 0x44],
   [0x4B, 0x45, 0x52, 0x4E], [0x52, 0x4F, 0x55, 0x54], [0x53, 0x49, 0x4F, 0x46], [0x48, 0x4F, 0x53, 0x54], [0x50, 0x57, 0x52, 0x20],
   [0x52, 0x41, 0x53, 0x20], [0x44, 0x45, 0x47, 0x52], [0x53, 0x49, 0x47, 0x4E]]

/-- Finds the sections from `off`, checking tag, version and CRC of each (R542, R544). -/
def findSections (b : Nat → Byte) : List (List Byte) → Nat → Option (List Section)
  | [], _ => some []
  | tag :: tags, off =>
    let len := le b (off + 4) 4
    if srcList b off 4 = tag ∧ len % 8 = 0 ∧ len ≤ 56 * 2 ^ 20 ∧ le b (off + 12) 2 = 1 ∧ le b (off + 14) 2 = 0
        ∧ crc32 (srcList b (off + 16) len) = le b (off + 8) 4 then
      (findSections b tags (off + 16 + len)).map (fun r => ⟨off + 16, len⟩ :: r)
    else none

/-- A charter copy with its digest and SIGN fields (R543). -/
structure CharterCopy where
  charter : Charter
  digest : List Byte
  /-- Bytes that the digest covers (R543). -/
  signed : Nat
  pubkey : List Byte
  sigR : Nat
  sigS : Nat
  deriving DecidableEq, Repr

/-- Reads a charter copy whose header and CRCs hold; `none` otherwise (R544, NO_CHARTER of R557). -/
def parseCharter (b : Nat → Byte) : Option CharterCopy :=
  match findSections b sectionTags 0 with
  | some [head, topo, part, quot, schd, kern, rout, siof, host, pwr, ras, degr, sign] =>
    let h := parseHead (subSrc b head.off)
    if h.magic ≠ 0x48435847 ∨ h.format ≠ 1 ∨ h.totalLen ≠ sign.off + sign.len ∨ 56 * 2 ^ 20 < h.totalLen then none
    else
      let fl := subSrc b siof.off
      let dg := subSrc b degr.off
      some {
        charter := {
          head := h,
          topo := parseTopo (subSrc b topo.off),
          parts := (List.range 16).map (parsePartRec (subSrc b part.off)),
          quots := parseTable b parseQuotRec quot.off 392 16,
          sched := parseSched (subSrc b schd.off),
          kern := parseKern (subSrc b kern.off) kern.len,
          rout := (List.range 64).map (fun i => le b (rout.off + 8 * i) 8),
          excUnmatched := bit (le fl 4 4) 0,
          flows := parseTable fl parseFlowEntry 8 128 (le fl 0 4),
          flowBytes := srcList fl 8 (128 * le fl 0 4),
          host := (List.range 2040).map (fun i => le b (host.off + 8 * i) 8),
          pwr := parsePwrSec (subSrc b pwr.off),
          ras := parseRasSec (subSrc b ras.off),
          plans := (List.range (le dg 0 4)).map (parsePlan dg) },
        digest := sha384 (srcList b 0 (sign.off - 16)),
        signed := sign.off - 16,
        pubkey := srcList b sign.off 97,
        sigR := leNat (srcList b (sign.off + 100) 48),
        sigS := leNat (srcList b (sign.off + 148) 48) }
  | _ => none

end Sys2Proof.Machine
end

