-- ==== Sys2Proof/Machine/SioFrame.lean ====
section
/-! DEFINITION. Ethernet frames as the stream I/O engine reads and builds them (R431, R439, R444, R445). -/

namespace Sys2Proof.Machine

/-- Ones' complement sum of 16-bit words (IP and UDP checksums); an odd last byte is padded with zero. -/
def onesSum (l : List Byte) : Nat :=
  let n := (chunks 2 l).foldl (fun n c => n + beNat (c ++ List.replicate (2 - c.length) 0#8)) 0
  let f := fun n => n % 65536 + n / 65536
  f (f (f n))

/-- A UDP datagram: IP version, addresses, ports and data. -/
structure Datagram where
  v6 : Bool
  src : List Byte
  dst : List Byte
  sport : Nat
  dport : Nat
  data : List Byte

/-- What a frame is, as far as R439 tells without flows. -/
inductive Frame where
  | mac
  | ptp (msg : List Byte)
  | ring
  | ip
  | udp (u : Datagram)

/-- Checks a UDP datagram (R431): length and checksum. -/
def udpFrame (v6 : Bool) (src dst p : List Byte) : Frame :=
  let n := fldBE p 4 2
  let pseudo := src ++ dst ++ beBytes 4 n ++ beBytes 4 17
  let sport := fldBE p 0 2
  let dport := fldBE p 2 2
  if p.length < 8 ∨ n < 8 ∨ p.length < n then .ip
  else if fldBE p 6 2 = 0 then (if v6 then .ip else .udp ⟨v6, src, dst, sport, dport, (p.take n).drop 8⟩)
  else if onesSum (pseudo ++ p.take n) = 0xFFFF then .udp ⟨v6, src, dst, sport, dport, (p.take n).drop 8⟩
  else .ip

/-- A datagram of the PTP ports (R447). -/
def ptpPort (p : List Byte) : Bool := fldBE p 2 2 = 319 || fldBE p 2 2 = 320

/-- An IPv4 packet (R431, R439). -/
def ipv4Frame (b : List Byte) : Frame :=
  let h := b.take 20
  let len := fldBE b 2 2
  let p := (b.take len).drop 20
  let whole : Bool := fld b 0 1 = 0x45 && 20 ≤ b.length && 20 ≤ len && len ≤ b.length && fldBE b 6 2 % 0x4000 = 0
  if whole ∧ fld b 9 1 = 17 ∧ ptpPort p then .ptp (p.drop 8)
  else if !whole ∨ onesSum h ≠ 0xFFFF then .ip
  else if fld b 9 1 ≠ 17 then .ring
  else udpFrame false ((b.drop 12).take 4) ((b.drop 16).take 4) p

/-- An IPv6 packet (R431, R439). -/
def ipv6Frame (b : List Byte) : Frame :=
  let len := fldBE b 4 2
  let next := fld b 6 1
  let p := (b.drop 40).take len
  let whole : Bool := fld b 0 1 / 16 = 6 && 40 + len ≤ b.length
  if whole ∧ next = 17 ∧ ptpPort p then .ptp (p.drop 8)
  else if !whole ∨ [0, 43, 44, 50, 51, 60, 135].contains next then .ip
  else if next ≠ 17 then .ring
  else udpFrame true ((b.drop 8).take 16) ((b.drop 24).take 16) p

/-- Reads a frame, FCS included (R439). -/
def readFrame (f : List Byte) : Frame :=
  let b := f.take (f.length - 4)
  let tagged : Bool := fldBE b 12 2 = 0x8100
  let type := if tagged then fldBE b 16 2 else fldBE b 12 2
  let body := b.drop (if tagged then 18 else 14)
  if f.length < 64 ∨ 9216 < f.length ∨ crc32 b ≠ leNat (f.drop (f.length - 4)) then .mac
  else if type = 0x8808 then .mac
  else if type = 0x88F7 then .ptp body
  else if type = 0x0800 then ipv4Frame body
  else if type = 0x86DD then ipv6Frame body
  else .ring

/-- Length of an RTP header with its CSRC list and extension (R431); none where the version is not 2 or the data are too short. -/
def rtpHeaderLen (p : List Byte) : Option Nat :=
  let n := 12 + 4 * (fld p 0 1 % 16)
  if p.length < 12 ∨ fld p 0 1 / 64 ≠ 2 then none
  else if p.length < n then none
  else if !bit (fld p 0 1) 4 then some n
  else
    let m := n + 4 + 4 * fldBE p (n + 2) 2
    if p.length < n + 4 ∨ p.length < m then none else some m

/-- A payload without its padding (R431). -/
def unpad (padded : Bool) (p : List Byte) : Option (List Byte) :=
  if !padded then some p
  else
    let n := fld p (p.length - 1) 1
    if p.isEmpty ∨ n = 0 ∨ p.length < n then none else some (p.take (p.length - n))

/-- Session flags of a flow (R433). -/
def FlowEntry.v6 (e : FlowEntry) : Bool := bit e.flags 0
def FlowEntry.srtp (e : FlowEntry) : Bool := bit e.flags 1
def FlowEntry.vlan (e : FlowEntry) : Bool := bit e.flags 2
def FlowEntry.srcMatch (e : FlowEntry) : Bool := bit e.flags 3

/-- An IP address of the flow table in its version's length. -/
def FlowEntry.addr (e : FlowEntry) (a : List Byte) : List Byte := if e.v6 then a.take 16 else a.take 4

/-- A datagram has a flow's match key (R435), but for its port. -/
def FlowEntry.isFor (e : FlowEntry) (u : Datagram) : Bool :=
  e.v6 = u.v6 && e.addr e.localIp = u.dst && e.localUdp = u.dport && 12 ≤ u.data.length && e.ssrc = fldBE u.data 8 4
    && (!e.srcMatch || (e.addr e.remoteIp = u.src && e.remoteUdp = u.sport))

/-- Two RTP_IN flows have the same match key (R435). -/
def FlowEntry.sameKey (a b : FlowEntry) : Bool :=
  a.port = b.port && a.v6 = b.v6 && a.addr a.localIp = b.addr b.localIp && a.localUdp = b.localUdp && a.ssrc = b.ssrc && a.srcMatch = b.srcMatch
    && (!a.srcMatch || (a.addr a.remoteIp = b.addr b.remoteIp && a.remoteUdp = b.remoteUdp))

/-- An RTCP datagram for a flow (R439). -/
def FlowEntry.rtcpFor (e : FlowEntry) (u : Datagram) : Bool :=
  e.v6 = u.v6 && e.addr e.localIp = u.dst && (u.dport = e.localUdp || u.dport = e.localUdp + 1) && 2 ≤ u.data.length && fld u.data 0 1 / 64 = 2
    && 200 ≤ fld u.data 1 1 && fld u.data 1 1 ≤ 204

/-- Header bytes that the spec gives no value: source MAC address (6), type of service or traffic class (1), identification or flow label (2), the
don't-fragment bit (1), time to live or hop limit (1). -/
abbrev HeaderFill := List Byte

/-- Bytes that frame a packet of a flow (R443): Ethernet with FCS, 802.1Q, IP, UDP, RTP and SRTP. -/
def FlowEntry.overhead (e : FlowEntry) : Nat := 18 + (if e.vlan then 4 else 0) + (if e.v6 then 40 else 20) + 8 + 12 + (if e.srtp then 16 else 0)

/-- The RTP header of a packet sent (R444). -/
def FlowEntry.rtpHeader (e : FlowEntry) (marker : Bool) (seq ts : Nat) : List Byte :=
  beBytes 1 0x80 ++ beBytes 1 (b2n marker * 128 + e.pt % 128) ++ beBytes 2 seq ++ beBytes 4 ts ++ beBytes 4 e.ssrc

/-- The UDP datagram and IP packet around an RTP packet (R431, R444). -/
def FlowEntry.ipPacket (e : FlowEntry) (fill : HeaderFill) (rtp : List Byte) : List Byte :=
  let src := e.addr e.localIp
  let dst := e.addr e.remoteIp
  let n := rtp.length + 8
  let head := beBytes 2 e.localUdp ++ beBytes 2 e.remoteUdp ++ beBytes 2 n
  let sum := 0xFFFF - onesSum (src ++ dst ++ beBytes 4 n ++ beBytes 4 17 ++ head ++ [0, 0] ++ rtp)
  let udp := head ++ beBytes 2 (if sum = 0 then 0xFFFF else sum) ++ rtp
  let tos := fld fill 6 1
  if e.v6 then beBytes 4 (6 * 2 ^ 28 + tos * 2 ^ 20 + fldBE fill 7 2) ++ beBytes 2 n ++ [17] ++ (fill.drop 10).take 1 ++ src ++ dst ++ udp
  else
    let ip := [0x45] ++ beBytes 1 tos ++ beBytes 2 (20 + n) ++ (fill.drop 7).take 2 ++ beBytes 2 (b2n (bit (fld fill 9 1) 6) * 0x4000) ++ (fill.drop 10).take 1 ++ [17]
    ip ++ beBytes 2 (0xFFFF - onesSum (ip ++ [0, 0] ++ src ++ dst)) ++ src ++ dst ++ udp

/-- A whole frame around an RTP packet, FCS included (R431, R444); short frames are padded to 64 bytes. -/
def FlowEntry.frame (e : FlowEntry) (fill : HeaderFill) (rtp : List Byte) : List Byte :=
  let b := e.nextHopMac ++ fill.take 6 ++ (if e.vlan then [0x81, 0x00] ++ beBytes 2 e.vlanTci else []) ++ (if e.v6 then [0x86, 0xDD] else [0x08, 0x00])
    ++ e.ipPacket fill rtp
  let b := b ++ List.replicate (60 - b.length) 0#8
  b ++ leBytes 4 (crc32 b)

/-- The payload of a text packet with redundancy (R445, RFC 4103, RFC 2198): blocks as (timestamp offset, text), oldest first, then the primary. -/
def textPayload (pt gens : Nat) (old : List (Nat × List Byte)) (primary : List Byte) : List Byte :=
  if gens = 0 then primary
  else old.flatMap (fun o => beBytes 4 (2 ^ 31 + pt % 128 * 2 ^ 24 + o.1 % 2 ^ 14 * 2 ^ 10 + o.2.length % 2 ^ 10)) ++ beBytes 1 (pt % 128)
    ++ old.flatMap (·.2) ++ primary

end Sys2Proof.Machine
end

