-- ==== Sys2Proof/Machine/SioOps.lean ====
section
/-! DEFINITION. The stream I/O engine (12 of the spec): placement into slots, slot headers, egress, flow commands, PTP, and its tick boundary. -/

namespace Sys2Proof.Machine

/-- A flow. -/
def Dev.flow (d : Dev) (i : Nat) : Flow := KMap.get {} d.sio.flows i

/-- Changes the engine. -/
def Dev.updSio (d : Dev) (f : Sio → Sio) : Dev := { d with sio := f d.sio }

/-- Changes a flow. -/
def Dev.updFlow (d : Dev) (i : Nat) (f : Flow → Flow) : Dev := d.updSio (fun s => { s with flows := KMap.upd {} s.flows i f })

/-- The engine's translation of a flow (R348: UNIT 34, REQ the flow). -/
def Dev.flowXq (d : Dev) (i : Nat) (e : FlowEntry) : Xq := { mmu := mmuSio, part := e.partition, unit := 34, req := i, die := d.sioDie }

/-- Who a write of the engine into another package belongs to: nobody waits for it. -/
def Dev.sioAgent (d : Dev) : Agent := .mover d.sioDie 65535

/-- Bytes `off` up of a range of target pieces. -/
def subPieces (ps : List (Nat × Nat)) (off n : Nat) : List (Nat × Nat) :=
  (splitDest (ps.length + 1) n (splitDest (ps.length + 1) off ps).2).1

/-- Writes bytes at an offset of translated pieces. -/
def Dev.sioPut (d : Dev) (x : Xq) (ps : List (Nat × Nat)) (off : Nat) (v : List Byte) : Dev :=
  (d.writePlaces d.sioAgent (x.rq false true) none (subPieces ps off v.length) (clean v)).2

/-- Counts events of a flow's statistics record (R442). -/
def Dev.flowStat (d : Dev) (i k n : Nat) : Dev := d.updFlow i (fun f => { f with stats := KMap.upd 0 f.stats k (· + n) })

/-- Adds a flow's events to its record of eight 32-bit counters (R442). -/
def Dev.flushStats (d : Dev) (i : Nat) : Dev :=
  let a := d.rd d.sioDie Reg.SIO_STATS_BASE.BASE + 32 * i
  let st := (d.flow i).stats
  let d := st.foldl (fun d e => d.devWrite (a + 4 * e.1) (leBytes 4 (leNat (plain (d.peek (a + 4 * e.1) 4)) + e.2))) d
  d.updFlow i (fun f => { f with stats := [] })

/-- Places of the counters in a record (R442). -/
def stRx : Nat := 0
def stPlacedLate : Nat := 1
def stDropLate : Nat := 2
def stDropEarly : Nat := 3
def stDup : Nat := 4
def stAuthFail : Nat := 5
def stOversize : Nat := 6
def stMissing : Nat := 7
def stSent : Nat := 0
def stSuppressed : Nat := 1
def stPaceLate : Nat := 2
def stExpired : Nat := 3
def stBadCell : Nat := 4

/-- Counts in a field of SIO_DROP or SIO_DROP2. -/
def Dev.sioDrop (d : Dev) (f : Fld) : Dev := d.inc d.sioDie f 1

/-- A FORMAT drop (R457). -/
def Dev.formatDrop (d : Dev) (i : Nat) : Dev := (d.sioDrop Reg.SIO_DROP2.FORMAT).wr d.sioDie Reg.SIO_DROP2.LAST_FLOW i

/-- A frame for the exception ring: dropped beyond its space or its rate of one frame per µs (R432). -/
def Dev.ringPut (d : Dev) (port : Nat) (f : List Byte) : Dev :=
  if 4096 ≤ d.sio.ring.length ∨ d.rd 0 Reg.TICK_PERIOD.PERIOD ≤ d.sio.accepted then d.sioDrop Reg.SIO_DROP.EXC
  else (d.updSio (fun s => { s with ring := s.ring ++ [(port, f)], accepted := s.accepted + 1 })).aplic d.sioDie 8

/-- C of a flow: cells in a slot (R434). -/
def FlowEntry.cells (e : FlowEntry) : Nat :=
  if e.kind = 1 then (if e.tsPerCell < e.tsPerTick then e.tsPerTick / e.tsPerCell else 1) else (e.slotBytes - 64) / e.cellBytes

/-- DVA of the slot of a tick. -/
def FlowEntry.slotDva (e : FlowEntry) (t : Nat) : Nat := e.ringDva + t % max 1 e.slotCount * e.slotBytes

/-- The anchor that a flow places a packet by: its own, or the one that the packet sets (R437). -/
def Flow.anchorFor (f : Flow) (tick ts : Nat) : Nat × Nat := f.anchor.getD (tick, ts / f.entry.tsPerCell * f.entry.tsPerCell)

/-- Media tick and cell of a packet (R437). -/
def FlowEntry.mediaOf (e : FlowEntry) (anchor : Nat × Nat) (ts : Nat) : Int × Nat :=
  let delta := toSigned 32 (ts + 2 ^ 32 - anchor.2 % 2 ^ 32)
  ((anchor.1 : Int) + delta / (e.tsPerTick : Int), if e.tsPerCell < e.tsPerTick then (delta % (e.tsPerTick : Int)).toNat / e.tsPerCell else 0)

/-- A signed value that saturates in 32 bits, as bytes hold it. -/
def sat32 (i : Int) : Nat := ofSigned 32 (if i < -(2 ^ 31) then -(2 ^ 31) else if 2 ^ 31 - 1 < i then 2 ^ 31 - 1 else i)

/-- The cell header of a placed packet (R440). -/
def cellHeader (len seq ts ptm : Nat) (late : Bool) (arrival : Int) : List Byte :=
  leBytes 2 len ++ leBytes 2 seq ++ leBytes 4 ts ++ leBytes 1 ptm ++ leBytes 1 (b2n late) ++ leBytes 2 0 ++ leBytes 4 (sat32 arrival)

/-- Sets a flow's anchor, in the engine and in the flow table (R433, R437). -/
def Dev.setAnchor (d : Dev) (i : Nat) (a : Nat × Nat) : Dev :=
  (d.updFlow i (fun f => { f with anchor := some a })).devWrite (d.rd d.sioDie Reg.SIO_FLOW_BASE.BASE + 128 * i + 80) (leBytes 8 a.1 ++ leBytes 4 a.2)

/-- Places a packet whose RTP header is `h` and whose payload is `v`: the rows of R439 from the slot's window on. -/
def Dev.placePacket (d : Dev) (i : Nat) (h v : List Byte) : Dev :=
  let f := d.flow i
  let e := f.entry
  let ts := fldBE h 4 4
  let anchor := f.anchorFor d.tick ts
  let (t, c) := e.mediaOf anchor ts
  let now : Int := d.tick
  if now + e.slotCount < t + e.jitter + 2 then d.flowStat i stDropEarly 1
  else if t + e.jitter + 1 ≤ now ∨ t < 0 then d.flowStat i stDropLate 1
  else if e.cellBytes - 16 < v.length then d.flowStat i stOversize 1
  else
    let tick := t.toNat
    let s := (f.slots.find? (fun s => s.tick = tick)).getD { tick := tick }
    if bit s.present c then d.flowStat i stDup 1
    else
      let x := d.flowXq i e
      match d.translateRange x (e.slotDva tick) e.slotBytes axWrite with
      | (.error _, d) => d.sioDrop Reg.SIO_DROP.FAULT
      | (.ok ps, d) =>
        let late : Bool := decide (t < now)
        let arrival := (now - t) * ((d.rd 0 Reg.TICK_PERIOD.PERIOD * 1000 : Nat) : Int) + (d.elapsed : Int)
        let off := 64 + c * e.cellBytes
        let d := d.sioPut x ps (off + 16) v
        let d := d.sioPut x ps off (cellHeader v.length (fldBE h 2 2) ts (fld h 1 1) late arrival)
        let d := if f.anchor.isNone then d.setAnchor i anchor else d
        let d := d.updFlow i (fun f => { f with slots := f.slots.filter (fun s => s.tick ≠ tick) ++
                                                  [{ s with present := s.present ||| 2 ^ c, late := s.late ||| (b2n late * 2 ^ c) }] })
        if late then d.flowStat i stPlacedLate 1 else d

/-- Rollover counter that a sequence number stands under (RFC 3711 section 3.3.1). -/
def Flow.rocFor (f : Flow) (seq : Nat) : Int :=
  match f.top with
  | none => f.roc
  | some s =>
    if s < 2 ^ 15 then (if s + 2 ^ 15 < seq then (f.roc : Int) - 1 else f.roc)
    else if seq < s - 2 ^ 15 then f.roc + 1 else f.roc

/-- Index of the newest packet. -/
def Flow.topIndex (f : Flow) : Int := (f.roc : Int) * 65536 + (f.top.getD 0 : Nat)

/-- An index has been seen, or is older than the window of 128 packets (R431, R439). -/
def Flow.replayed (f : Flow) (idx : Int) : Bool :=
  f.top.isSome && idx ≤ f.topIndex && (128 ≤ f.topIndex - idx || bit f.window (f.topIndex - idx).toNat)

/-- Notes an index. -/
def Flow.note (f : Flow) (idx : Int) : Flow :=
  if f.top.isSome ∧ idx ≤ f.topIndex then { f with window := f.window ||| 2 ^ (f.topIndex - idx).toNat }
  else
    let w := if f.top.isSome then f.window * 2 ^ (min 128 (idx - f.topIndex).toNat) else 0
    { f with window := (w + 1) % 2 ^ 128, roc := (idx / 65536).toNat % 2 ^ 32, top := some (idx % 65536).toNat }

/-- A key-table entry. -/
def Dev.srtpKey (d : Dev) (k : Nat) : SrtpKey := KMap.get {} d.sio.keys k

/-- The first key, current before pending, under which a packet authenticates (R436): the key and the plain payload. -/
def Dev.authenticate (d : Dev) (f : Flow) (h body : List Byte) (roc : Int) : Option (Nat × List Byte) :=
  (f.key :: f.pendingKey.toList).findSome? (fun k =>
    (srtpUnprotect (d.srtpKey k).key (d.srtpKey k).salt h body (fldBE h 8 4) (ofSigned 32 roc) (fldBE h 2 2)).map (fun v => (k, v)))

/-- The payload of an authenticated packet goes on to placement: padding and payload type are checked (R439). -/
def Dev.packetIn (d : Dev) (i : Nat) (h v : List Byte) : Dev :=
  match unpad (bit (fld h 0 1) 5) v with
  | none => d.formatDrop i
  | some v => if fld h 1 1 % 128 = (d.flow i).entry.pt then d.placePacket i h v else d.formatDrop i

/-- A datagram that matched a flow (R439). -/
def Dev.rtpIn (d : Dev) (i : Nat) (p : List Byte) : Dev :=
  let d := d.flowStat i stRx 1
  let f := d.flow i
  match rtpHeaderLen p with
  | none => d.formatDrop i
  | some n =>
    let h := p.take n
    if !f.entry.srtp then d.packetIn i h (p.drop n)
    else
      let roc := f.rocFor (fldBE h 2 2)
      let idx := roc * 65536 + (fldBE h 2 2 : Nat)
      match d.authenticate f h (p.drop n) roc with
      | none => d.flowStat i stAuthFail 1
      | some (k, v) =>
        let d := d.updFlow i (fun f => { f with key := k, pendingKey := if k = f.key then f.pendingKey else none })
        if f.replayed idx then d.flowStat i stDup 1 else (d.updFlow i (fun f => f.note idx)).packetIn i h v

/-- A flow is enabled for matching. -/
def Flow.matching (f : Flow) : Bool := f.on && f.entry.kind = 1

/-- A UDP datagram by the rows of R439 on RTCP and matching. -/
def Dev.udpIn (d : Dev) (port : Nat) (frame : List Byte) (u : Datagram) : Dev :=
  if d.sio.flows.any (fun e => e.2.on && e.2.entry.rtcpFor u) then d.ringPut port frame
  else match d.sio.flows.find? (fun e => e.2.matching && e.2.entry.port = port && e.2.entry.isFor u) with
    | some e => d.rtpIn e.1 u.data
    | none => if d.rd d.sioDie Reg.SIO_CTRL.EXC_UNMATCHED = 1 then d.ringPut port frame else d.sioDrop Reg.SIO_DROP.UNMATCHED

/-- The data set of an Announce message as a rank, lower better: priority1, class, accuracy, variance, priority2, identity, steps removed (R447). -/
def announced (port : Nat) (m : List Byte) : PtpMaster :=
  { rank := fldBE m 47 6 * 2 ^ 80 + fldBE m 53 10, identity := fldBE m 53 8, port := port }

/-- The best of the announced grandmasters; a tie goes to the lower port. -/
def bestMaster (l : List PtpMaster) : Option PtpMaster := (sortBy (·.rank) l).head?

/-- A PTP message (R447): an Announce message may change the grandmaster; a Sync of the chosen one gives an offset. -/
def Dev.ptpIn (d : Dev) (port : Nat) (m : List Byte) : Dev :=
  let type := fld m 0 1 % 16
  if m.length < 34 ∨ fld m 4 1 ≠ d.rd 0 Reg.TICK_CTRL.PTP_DOMAIN then d
  else if type = 11 ∧ 64 ≤ m.length then
    let old := d.sio.chosen.map (·.identity)
    let d := d.updSio (fun s => { s with masters := KMap.set none s.masters port (some (announced port m)) })
    let best := bestMaster (d.sio.masters.filterMap (·.2))
    let d := d.updSio (fun s => { s with chosen := best, changed := s.changed || decide (best.map (·.identity) ≠ old) })
    match best with
    | none => d
    | some b => (d.wr d.sioDie Reg.SIO_PTP_STATUS.PORT b.port).wr d.sioDie Reg.SIO_PTP_STATUS.GM_LO b.identity
  else if type = 0 ∧ d.sio.chosen.map (·.port) = some port then
    let (v, d) := d.free
    d.wr d.sioDie Reg.SIO_PTP_STATUS.OFFSET_NS v
  else d

/-- An inbound frame (R439). -/
def Dev.frameIn (d : Dev) (port : Nat) (frame : List Byte) : Dev :=
  match readFrame frame with
  | .mac => d.sioDrop Reg.SIO_DROP.MAC
  | .ptp m => d.ptpIn port m
  | .ring => d.ringPut port frame
  | .ip => d.sioDrop Reg.SIO_DROP.IP
  | .udp u => d.udpIn port frame u

/-- EXPECTED of a media tick under an anchor (R441). -/
def FlowEntry.expected (e : FlowEntry) (anchor : Option (Nat × Nat)) (t : Nat) : Nat :=
  match anchor with
  | none => 0
  | some (at_, _) =>
    if t < at_ then 0
    else if e.tsPerCell ≤ e.tsPerTick then 2 ^ e.cells - 1
    else if (t - at_) % (e.tsPerCell / e.tsPerTick) = 0 then 1 else 0

/-- MISSING of a closed slot. -/
def SioSlot.missing (s : SioSlot) : Nat := s.expected &&& (0xFFFF - s.present % 65536)

/-- The slot header (R441). -/
def SioSlot.header (s : SioSlot) (ssrc : Nat) : List Byte :=
  leBytes 8 s.tick ++ leBytes 2 s.expected ++ leBytes 2 s.present ++ leBytes 2 s.late ++ leBytes 2 s.missing ++ leBytes 1 1 ++ leBytes 7 0 ++ leBytes 4 ssrc
    ++ leBytes 36 0

/-- Writes the header of a slot that has reached its closing boundary, and the flow's statistics (R441, R442). -/
def Dev.closeSlot (d : Dev) (i t : Nat) : Dev :=
  let f := d.flow i
  match f.closing.find? (fun s => s.tick = t) with
  | none => d
  | some s =>
    let x := d.flowXq i f.entry
    let d := d.updFlow i (fun f => { f with closing := f.closing.filter (fun s => s.tick ≠ t) })
    let d := match d.translateRange x (f.entry.slotDva t) f.entry.slotBytes axWrite with
      | (.error _, d) => d.sioDrop Reg.SIO_DROP.FAULT
      | (.ok ps, d) => d.sioPut x ps 0 (s.header f.entry.ssrc)
    (d.flowStat i stMissing (popcount s.missing 16)).flushStats i

/-- Reads bytes of a flow's partition for egress: none where a translation fails. -/
def Dev.egressRead (d : Dev) (x : Xq) (dva n : Nat) : Option (List PByte) × Dev :=
  match d.translateRange x dva n axRead with
  | (.error _, d) => (none, d)
  | (.ok ps, d) =>
    let (b, _, d) := d.readPieces (x.rq false true) ⟨[], true⟩ ps
    (some b, d)

/-- Writes STATE, and SENT where cells were sent, of an egress slot (R443). -/
def Dev.egressState (d : Dev) (i : Nat) (e : FlowEntry) (tick state sent : Nat) : Dev :=
  let x := d.flowXq i e
  match d.translateRange x (e.slotDva tick) 64 axWrite with
  | (.error _, d) => d.sioDrop Reg.SIO_DROP.FAULT
  | (.ok ps, d) => let d := d.sioPut x ps 2 (leBytes 1 state); d.sioPut x ps 4 (leBytes 2 sent)

/-- A cell of an egress slot breaks a rule of R443 or R444: its header is read and checked; its release time is answered. -/
def Dev.egressCell (d : Dev) (i : Nat) (e : FlowEntry) (tick k : Nat) : Option Nat × Dev :=
  let bad := fun (d : Dev) => (none, d.flowStat i stBadCell 1)
  match d.egressRead (d.flowXq i e) (e.slotDva tick + 64 + k * e.cellBytes) 16 with
  | (none, d) => bad (d.sioDrop Reg.SIO_DROP.FAULT)
  | (some b, d) =>
    let h := plain b
    if anyPoison b ∨ e.cellBytes - 16 < fld h 0 2 ∨ 9216 < e.overhead + fld h 0 2 then bad d
    else if d.tailGuard ≤ fld h 8 4 then bad d
    else (some (max (fld h 8 4) e.earliestNs), d)

/-- A text block that redundancy still owes (R445). -/
def Flow.owes (f : Flow) : Bool := f.entry.kind = 3 && f.texts.any (fun b => !b.text.isEmpty)

/-- The cells of a slot whose PRODUCER completed are scheduled (R444, R445). -/
def Dev.egressSchedule (d : Dev) (i count : Nat) : Dev :=
  let f := d.flow i
  let e := f.entry
  let d := if e.cells < count then d.flowStat i stBadCell (count - e.cells) else d
  let (cells, d) := (List.range (min count e.cells)).foldl (fun (r : List (Option Nat × Nat) × Dev) k =>
    match r.2.egressCell i e r.2.tick k with
    | (none, d) => (r.1, d)
    | (some t, d) => (r.1 ++ [(some k, t)], d)) ([], d)
  let cells := sortBy (·.2) cells
  let d := if cells.isEmpty then d.egressState i e d.tick 1 0 else d
  let cells := if count = 0 ∧ f.owes then [(none, e.earliestNs)] else cells
  let d := d.updFlow i (fun f => { f with job := some { tick := d.tick, cells := cells } })
  if cells.isEmpty then d.flushStats i else d

/-- EGRESS_RELEASE: acts once in a tick on PRODUCER's outcome (R444). -/
def Dev.egressRelease (d : Dev) (i : Nat) : Dev :=
  let f := d.flow i
  let e := f.entry
  let done := fun (d : Dev) => (d.updFlow i (fun f => { f with job := some { tick := d.tick } })).flushStats i
  if !f.on ∨ (e.kind ≠ 2 ∧ e.kind ≠ 3) ∨ (f.job.map (·.tick)) = some d.tick ∨ (d.entryOf e.producer).isNone then d
  else
    let o := d.span e.producer
    let known : Bool := o.dispatched && o.tick = d.tick && o.outcome ≠ 0xFF
    if !known ∧ d.rd 0 Reg.TICK_STATUS.DISPATCHING = 1 ∧ d.elapsed < e.earliestNs then d
    else match d.egressRead (d.flowXq i e) (e.slotDva d.tick) 64 with
      | (none, d) => done (d.sioDrop Reg.SIO_DROP.FAULT)
      | (some b, d) =>
        let count := fld (plain b) 0 2
        if anyPoison b then done (d.flowStat i stBadCell 1)
        else if known ∧ o.outcome = ocCompleted then d.egressSchedule i count
        else done ((d.flowStat i stSuppressed count).egressState i e d.tick 2 0)

/-- The RTP payload of a packet: the cell's bytes, or a text packet with its redundancy (R445). -/
def Flow.payload (f : Flow) (ts : Nat) (v : List Byte) : List Byte :=
  if f.entry.kind = 3 then textPayload f.entry.t140Pt f.entry.jitter (f.texts.map (fun b => ((ts + 2 ^ 32 - b.ts) % 2 ^ 32, b.text))) v else v

/-- The key of the next packet sent (R436). -/
def Flow.sendKey (f : Flow) : Nat := f.pendingKey.getD f.key

/-- Sends one packet of a flow (R444): headers, SRTP, the sequence counter and the block kept for redundancy. -/
def Dev.sendPacket (d : Dev) (i ts : Nat) (marker : Bool) (v : List Byte) : Dev :=
  let f := d.flow i
  let e := f.entry
  let (fill, d) := d.freeBytes 11
  let h := e.rtpHeader marker f.seq ts
  let k := d.srtpKey f.sendKey
  let body := f.payload ts v
  let body := if e.srtp then srtpProtect k.key k.salt h body e.ssrc f.roc f.seq else body
  let d := d.updFlow i (fun f =>
    let texts := f.texts ++ [{ ts := ts, tick := d.tick, text := v }]
    { f with seq := (f.seq + 1) % 65536, roc := if f.seq = 65535 then (f.roc + 1) % 2 ^ 32 else f.roc, key := f.sendKey, pendingKey := none,
             texts := if e.kind = 3 then texts.drop (texts.length - e.jitter) else [] })
  (d.emit (.ethFrame e.port (e.frame fill (h ++ body)))).flowStat i stSent 1

/-- Timestamp of a packet with an empty primary: the last block's, moved on by the ticks since. -/
def Flow.emptyTs (f : Flow) (tick : Nat) : Nat :=
  match f.texts.getLast? with
  | some b => (b.ts + (tick - b.tick) * f.entry.tsPerTick) % 2 ^ 32
  | none => 0

/-- Sends the cell at the head of a flow's job, or skips it as bad (R443, R444). -/
def Dev.egressSend (d : Dev) (i : Nat) (j : EgressJob) (cell : Option Nat) : Bool × Dev :=
  let f := d.flow i
  let e := f.entry
  match cell with
  | none => (true, d.sendPacket i (f.emptyTs d.tick) false [])
  | some k =>
    let base := e.slotDva j.tick + 64 + k * e.cellBytes
    let bad := fun (d : Dev) => (false, d.flowStat i stBadCell 1)
    match d.egressRead (d.flowXq i e) base 16 with
    | (none, d) => bad (d.sioDrop Reg.SIO_DROP.FAULT)
    | (some hb, d) =>
      match d.egressRead (d.flowXq i e) base (16 + fld (plain hb) 0 2) with
      | (none, d) => bad (d.sioDrop Reg.SIO_DROP.FAULT)
      | (some b, d) =>
        let h := plain b
        let v := (plain b).drop 16
        if anyPoison b ∨ 9216 < e.overhead + (f.payload (fld h 4 4) v).length then bad d
        else (true, d.sendPacket i (fld h 4 4) (bit (fld h 2 1) 7) v)

/-- A flow of a lower number has a packet due on the same port in the same microsecond (R445). -/
def Dev.paceBehind (d : Dev) (i port due : Nat) : Bool :=
  d.sio.flows.any (fun e => e.1 < i && e.2.entry.port = port && (match e.2.job with
    | some j => j.tick = d.tick && (match j.cells with
      | (_, t) :: _ => t / 1000 = due / 1000
      | [] => false)
    | none => false))

/-- PACED_SEND: the packet at the head of a flow's slot leaves `late` ns after its release time (R444, R445). -/
def Dev.pacedSend (d : Dev) (i cell late : Nat) : Dev :=
  let f := d.flow i
  match f.job with
  | none => d
  | some j =>
    match j.cells with
    | [] => d
    | (c, due) :: rest =>
      if c.getD 65535 ≠ cell ∨ j.tick ≠ d.tick ∨ d.rd 0 Reg.TICK_PERIOD.PERIOD * 1000 ≤ due + late ∨ d.paceBehind i f.entry.port due
          ∨ d.rd d.sioDie (Reg.SIO_PORT_STATUS.LINK.at 8 f.entry.port) = 0 then d
      else
        let d := d.toTime (due + late)
        let (sent, d) := d.egressSend i j c
        let d := if sent ∧ 1000 < late then d.flowStat i stPaceLate 1 else d
        let j : EgressJob := { j with cells := rest, sent := j.sent + b2n (sent && c.isSome) }
        let d := d.updFlow i (fun f => { f with job := some j })
        if !rest.isEmpty then d
        else (if c.isSome then d.egressState i f.entry j.tick 1 j.sent else d).flushStats i

/-- Session fields of one entry over the structural fields of another (R433). -/
def FlowEntry.withSession (e s : FlowEntry) : FlowEntry :=
  { e with flags := s.flags, pt := s.pt, vlanTci := s.vlanTci, ssrc := s.ssrc, localUdp := s.localUdp, remoteUdp := s.remoteUdp, localIp := s.localIp,
           remoteIp := s.remoteIp, nextHopMac := s.nextHopMac, key := s.key, t140Pt := s.t140Pt }

/-- A flow's entry with the session fields that stand in memory. -/
def Dev.flowInMemory (d : Dev) (i : Nat) (e : FlowEntry) : FlowEntry :=
  e.withSession (parseFlowEntry (srcOf 0 (plain (d.peek (d.rd d.sioDie Reg.SIO_FLOW_BASE.BASE + 128 * i) 128))))

/-- Structural fields of a flow, which the engine holds from seal (R433): none beyond FLOW_COUNT or for an unused entry. -/
def Dev.flowStruct (d : Dev) (i : Nat) : Option FlowEntry :=
  if !d.sealed ∨ d.rd d.sioDie Reg.SIO_CTRL.FLOW_COUNT ≤ i then none
  else match d.charter.flows[i]? with
    | some e => if e.kind = 0 then none else some e
    | none => none

/-- Ends a flow command with its RESULT and its interrupt (R454). -/
def Dev.flowAnswer (d : Dev) (r : Nat) : Dev := (d.wr d.sioDie Reg.SIO_FLOW_STATUS.RESULT r).aplic d.sioDie 7

/-- A write of SIO_FLOW_CMD (R436, R453, R454): 1 ENABLE, 2 DISABLE, 3 REKEY, 4 REANCHOR. -/
def Dev.flowCommand (d : Dev) (op i key : Nat) : Dev :=
  if op = 0 ∨ 4 < op ∨ d.rd d.sioDie Reg.SIO_FLOW_STATUS.BUSY = 1 then d
  else match d.flowStruct i with
    | none => d.flowAnswer 1
    | some st =>
      if op = 1 then
        let e := d.flowInMemory i st
        if e.kind = 1 ∧ d.sio.flows.any (fun g => g.1 ≠ i && g.2.counted && (g.2.turnOn.getD g.2.entry).kind = 1 && (g.2.turnOn.getD g.2.entry).sameKey e) then
          d.flowAnswer 2
        else (d.updFlow i (fun f => { f with turnOn := some e, counted := true, pendingKey := none })).flowAnswer 0
      else if op = 2 then (d.updFlow i (fun f => { f with turnOn := none, turnOff := f.on, counted := false })).flowAnswer 0
      else if op = 3 then (d.updFlow i (fun f => { f with pendingKey := some (key % 65536) })).flowAnswer 0
      else if st.kind = 1 then (d.updFlow i (fun f => { f with reanchor := true })).flowAnswer 0
      else d.flowAnswer 3

/-- Loads a key-table entry from SIO_KEY_DATA (R446, R455). -/
def Dev.loadKey (d : Dev) (k : Nat) (long : Bool) : Dev :=
  let word := fun (w : Nat) => leBytes 8 (d.rd d.sioDie (Reg.SIO_KEY_DATA.DATA.at 8 w))
  let key := word 0 ++ word 1 ++ (if long then word 2 ++ word 3 else [])
  d.updSio (fun s => { s with keys := KMap.set {} s.keys (k % 65536) { key := key, salt := (word 4 ++ word 5).take 12 } })

/-- The slot of an RTP_IN flow that closes at the boundary of tick `now` (R436, R438). -/
def Flow.closes (f : Flow) (now : Nat) : Option Nat :=
  let e := f.entry
  if e.kind ≠ 1 ∨ now < e.jitter + 1 then none
  else
    let t := now - e.jitter - 1
    if f.on ∧ f.since < now then some t
    else match f.until_ with
      | some u => if !f.on ∧ t + e.jitter + 2 ≤ u + e.slotCount then some t else none
      | none => none

/-- A flow at the boundary that begins tick `now`: the slot that closes, then what waits for the boundary (R436, R438). -/
def Flow.boundary (f : Flow) (now seq : Nat) : Flow :=
  let f : Flow := match f.closes now with
    | none => f
    | some t =>
      let s := (f.slots.find? (fun s => s.tick = t)).getD { tick := t }
      { f with slots := f.slots.filter (fun s => t < s.tick), closing := f.closing ++ [{ s with expected := f.entry.expected f.anchor t }] }
  let f : Flow := if f.reanchor then { f with anchor := none, reanchor := false } else f
  let f : Flow := if f.turnOff then { f with on := false, until_ := some now, turnOff := false } else f
  match f.turnOn with
  | none => f
  | some e =>
    { f with on := true, since := now, until_ := none, entry := e, turnOn := none, anchor := none, key := e.key, roc := 0, top := none, window := 0,
             seq := seq % 65536, job := none, texts := [] }

/-- What a flow does at a boundary: an unsent packet expires (R445), then the flow moves on. -/
def Dev.flowBoundary (d : Dev) (i : Nat) : Dev :=
  let left := match (d.flow i).job with
    | some j => j.cells.length
    | none => 0
  let d := if left = 0 then d else ((d.flowStat i stExpired left).updFlow i (fun f => { f with job := none })).flushStats i
  let (seq, d) := if (d.flow i).turnOn.isSome then d.free else (0, d)
  d.updFlow i (fun f => f.boundary d.tick seq)

/-- The engine at a boundary: TICK_COUNT has advanced (R432, R436, R438, R447). -/
def Dev.sioBoundary (d : Dev) (ptpValid : Bool) : Dev :=
  let d := (d.sio.flows.map (·.1)).foldl (fun d i => d.flowBoundary i) d
  let d := d.wr d.sioDie Reg.SIO_PTP_STATUS.VALID (b2n (ptpValid && d.sio.chosen.isSome && !d.sio.changed))
  d.updSio (fun s => { s with ring := [], accepted := 0, changed := false })

end Sys2Proof.Machine
end

