-- ==== Sys2Proof/Machine/RegWrite.lean ====
section
/-! DEFINITION. Writes to the control space (R7 to R11, R29) and through the die views (R489): fields by their access codes, and the command registers. -/

namespace Sys2Proof.Machine

/-- Sets fields of a die to zero. -/
def Dev.zeroFields (d : Dev) (die : Nat) (fs : List Fld) : Dev := fs.foldl (fun d f => d.wr die f 0) d

/-- Clears the counters that TICK_CTRL.CNT_CLR names (R66, R69, R278, R382, R420, R450). -/
def Dev.clearCounters (d : Dev) : Dev :=
  let d := d.dies.foldl (fun d die => d.zeroFields die
    [Reg.TICK_SHED_CNT.SUSPENDS, Reg.TICK_SHED_CNT.SHEDS, Reg.TICK_OVERRUN_CNT.LATE, Reg.TICK_OVERRUN_CNT.DISPLACED, Reg.TICK_OVERRUN_CNT.SRC_MISS,
     Reg.TICK_OVERRUN_CNT.STATUS_LOST, Reg.COLL_CNT.DONE, Reg.COLL_CNT.FAILED, Reg.COLL_CNT.NONFINITE]) d
  let d := d.stewardDies.foldl (fun d die =>
    let d := d.zeroFields die
      [Reg.BMC_MOVE_CNT.DONE, Reg.BMC_MOVE_CNT.LATE, Reg.BMC_MOVE_CNT.ABORTED, Reg.BMC_MOVE_CNT.FAILED, Reg.LINK_DROP.STALE_EPOCH, Reg.LINK_DROP.SLICE,
       Reg.LINK_DROP.SOURCE, Reg.LINK_DROP.FENCED, Reg.LINK_LOSS.LOST_WR, Reg.LINK_LOSS.POISON_RD]
    (List.range 4).foldl (fun d k => d.zeroFields die [portFld Reg.LINK_PORT_ERR.FEC_CORR k, portFld Reg.LINK_PORT_ERR.REPLAYS k]) d) d
  let s := d.sioDie
  let d := d.zeroFields s [Reg.SIO_DROP.FAULT, Reg.SIO_DROP.EXC, Reg.SIO_DROP.UNMATCHED, Reg.SIO_DROP.IP, Reg.SIO_DROP.MAC, Reg.SIO_DROP2.FORMAT,
    Reg.SIO_PORT_STATUS.FEC_CORR.at 8 0, Reg.SIO_PORT_STATUS.FEC_CORR.at 8 1]
  (List.range 8).foldl (fun d k => d.zeroFields s
    [Reg.SIO_NVME_STATUS.ORPHANS.at 8 k, Reg.SIO_NVME_STATUS.ABORTS.at 8 k, Reg.SIO_NVME_STATUS.ERRORS.at 8 k]) d

/-- The bits of a field among those that an access addresses. -/
def Fld.part (f : Fld) (w : Nat) : Nat := w / 2 ^ f.lo % 2 ^ f.width

/-- Writes one field by its access code: `mask` the register's addressed bits, `v` the value at its place. A field that stays by its code answers itself. -/
def Dev.writeField (d : Dev) (die : Nat) (f : Fld) (mask v : Nat) : Dev :=
  let m := f.part mask
  let x := f.part v &&& m
  let old := d.rd die f
  let kept := old &&& (2 ^ f.width - 1 - m)
  match f.acc with
  | .ro | .w1s => d
  | .rw | .wo => if m = 0 then d else d.wr die f (kept ||| x)
  | .w1c => d.wr die f (old &&& (2 ^ f.width - 1 - x))
  | .rs => if m = 0 ∨ d.sealed then d else d.wr die f (kept ||| x)

/-- A write that R10 rejects: counted once on the die. -/
def Dev.writeRejected (d : Dev) (die : Nat) : Dev := (d.wr die Reg.GLB_SEAL_STATUS.WRITE_REJ 1).inc die Reg.GLB_SEAL_STATUS.REJ_COUNT 1

/-- A device reset is ordered (R616): the write has no effect while one runs. -/
def Dev.orderReset (d : Dev) (cause : Nat) : Dev :=
  if d.rd 0 Reg.HIF_STATUS.IN_RESET = 1 ∨ d.boot.resetDue ≠ 0 then d else { d with boot := { d.boot with resetDue := cause } }

/-- A write of a command register has no effect now: the unit is busy (R280, R346, R453, R573), or the relay exists on the manager only (R516). -/
def Dev.commandShut (d : Dev) (off : Nat) : Bool :=
  if off = Reg.BMC_OWN_CMD.OP.off then d.rd 0 Reg.BMC_OWN_STATUS.BUSY = 1
  else if off = Reg.MMU_INV_CMD.OP.off then d.rd 0 Reg.MMU_INV_STATUS.BUSY = 1
  else if off = Reg.SIO_FLOW_CMD.OP.off then d.rd d.sioDie Reg.SIO_FLOW_STATUS.BUSY = 1
  else if off = Reg.HIF_RELAY_CMD.PKG.off then d.relayAbsent
  else false

/-- What the write of a register starts (R262, R339, R436, R446, R516, R573, R616, R619, R623), after its fields were written: `v` holds the addressed bits,
the others zero; the operands are what the register now holds. -/
def Dev.commandRun (d : Dev) (off v : Nat) : Dev :=
  let f := fun (x : Fld) => x.part v
  let s := d.sioDie
  if off = Reg.HIF_ATTACH.REQ.off then (if f Reg.HIF_ATTACH.REQ = 1 then d.hostAttach else d)
  else if off = Reg.HIF_DEV_RESET.CMD.off then (if f Reg.HIF_DEV_RESET.CMD = 0xA5 then d.orderReset 1 else d)
  else if off = Reg.HIF_RELAY_CMD.PKG.off then (if f Reg.HIF_RELAY_CMD.GO_BUSY = 1 then d.relayGo else d)
  else if off = Reg.BMC_OWN_CMD.OP.off then
    d.ownCommand (f Reg.BMC_OWN_CMD.OP) (d.rd 0 Reg.BMC_OWN_CMD.PART) (d.rd 0 Reg.BMC_OWN_CMD.COUNT) (d.rd 0 Reg.BMC_OWN_CMD.PAGE)
  else if off = Reg.MMU_INV_CMD.OP.off then d.invCommand (f Reg.MMU_INV_CMD.OP) (d.rd 0 Reg.MMU_INV_CMD.PART) (d.rd 0 Reg.MMU_INV_CMD.COUNT)
  else if off = Reg.SIO_FLOW_CMD.OP.off then d.flowCommand (f Reg.SIO_FLOW_CMD.OP) (d.rd s Reg.SIO_FLOW_CMD.FLOW) (d.rd s Reg.SIO_FLOW_CMD.KEY)
  else if off = Reg.SIO_KEY_CMD.LOAD.off then
    (if f Reg.SIO_KEY_CMD.LOAD = 1 then d.loadKey (d.rd s Reg.SIO_KEY_CMD.KEY) (d.rd s Reg.SIO_KEY_CMD.LEN = 1) else d)
  else if off = Reg.RAS_DUMP_STATUS.TAKE.off then (if f Reg.RAS_DUMP_STATUS.TAKE = 1 then d.takeDump else d)
  else if off = Reg.RAS_DUMP_READ.READY.off then (if f Reg.RAS_DUMP_READ.READY = 1 then d.dumpRelease else d)
  else if off = Reg.BOOT_FLASH_CMD.OP.off then d.flashCommand (f Reg.BOOT_FLASH_CMD.OP)
  else if off = Reg.TICK_CTRL.CNT_CLR.off then (if f Reg.TICK_CTRL.CNT_CLR = 1 then d.clearCounters else d)
  else d

/-- Writes the fields of a register by their access codes. READY of RAS_DUMP_READ is cleared by the release itself (R623), and RAS_LOG_PTR.CONS moves forward
only (R608). -/
def Dev.storeFields (d : Dev) (die off : Nat) (fs : List Fld) (mask v : Nat) : Dev :=
  if off = Reg.RAS_DUMP_READ.READY.off then d
  else if off = Reg.RAS_LOG_PTR.CONS.off then
    let old := d.rd 0 Reg.RAS_LOG_PTR.CONS
    d.logConsume ((old &&& (8191 - Reg.RAS_LOG_PTR.CONS.part mask)) ||| (Reg.RAS_LOG_PTR.CONS.part v &&& Reg.RAS_LOG_PTR.CONS.part mask))
  else fs.foldl (fun d f => d.writeField die f mask v) d

/-- The chain whose CHAIN_CTRL stands at an offset of a compute die (R28, R234). -/
def chainOfCtrl (off : Nat) : Option Nat := (List.range 22).find? (fun c => (chainFld Reg.CHAIN_CTRL.EN c).off = off)

/-- A change of CHAIN_CTRL.EN invalidates the chain cache and its side buffer, and the fills in flight are not installed (R224). -/
def Dev.chainEnChanged (d : Dev) (die off before : Nat) : Dev :=
  match chainOfCtrl off with
  | none => d
  | some c => if 2 ≤ die ∧ d.rd die (chainFld Reg.CHAIN_CTRL.EN c) ≠ before then d.chainClear die c else d

/-- Writes the addressed bits of a register: its fields by their access codes, then what the write starts. A register that another die mirrors from S0 is
written on S0 alone (02, the TICK block; R420, R588). -/
def Dev.writeReg (d : Dev) (die off mask v : Nat) : Dev :=
  match d.regAt die off with
  | none => d
  | some (fs, mirror) =>
    let d := if d.sealed ∧ fs.any (fun f => decide (f.acc = .rs) && f.part mask ≠ 0) then d.writeRejected die else d
    if (mirror ∧ die ≠ 0) ∨ d.commandShut off then d
    else
      let en := ((chainOfCtrl off).map (fun c => d.rd die (chainFld Reg.CHAIN_CTRL.EN c))).getD 0
      ((d.storeFields die off fs mask v).chainEnChanged die off en).commandRun off (v &&& mask)

/-- A write of the control space (R7, R8, R10, R26, R29). -/
def Dev.ctlWrite (d : Dev) (r : Requester) (die off size v : Nat) : Dev :=
  match d.ctlRefused r die with
  | some k => d.ctlRefuse r die off k
  | none =>
    if !ctlAligned off size then d.ctlError r die off 1
    else if (d.reg64 die (alignDown off 8)).isNone then d.ctlError r die off 2
    else
      let sh := 8 * (off % 8)
      d.writeReg die (alignDown off 8) ((2 ^ (8 * size) - 1) * 2 ^ sh) (v % 2 ^ (8 * size) * 2 ^ sh)

/-- A write through a die view (R489): W1C fields and TICK_CTRL.CNT_CLR alone act. -/
def Dev.viewWrite (d : Dev) (die off size v : Nat) : Dev :=
  let o := alignDown off 8
  let sh := 8 * (off % 8)
  let mask := (2 ^ (8 * size) - 1) * 2 ^ sh
  let v := v % 2 ^ (8 * size) * 2 ^ sh
  if !d.dies.contains die ∨ d.dieFailed die then d
  else if !ctlAligned off size then d.ctlError { unit := 35, req := 0xFFFE, part := 0 } die off 1
  else match d.regAt die o with
    | none =>
      if (d.reg64 die o).isSome then d.inc 0 Reg.HIF_ERR.BAR0_WREJ 1 else d.ctlError { unit := 35, req := 0xFFFE, part := 0 } die off 2
    | some (fs, mirror) =>
      if mirror ∧ die ≠ 0 ∧ fs.any (fun f => decide (f.acc = .w1c) || decide (f = Reg.TICK_CTRL.CNT_CLR)) then d
      else if o = Reg.TICK_CTRL.CNT_CLR.off then (if Reg.TICK_CTRL.CNT_CLR.part v = 1 then d.clearCounters else d)
      else if o = Reg.RAS_DUMP_READ.READY.off ∧ die = 0 then (if Reg.RAS_DUMP_READ.READY.part v = 1 then d.dumpRelease else d)
      else if fs.any (fun f => decide (f.acc = .w1c)) then
        (fs.filter (fun f => decide (f.acc = .w1c))).foldl (fun d f => d.writeField die f mask v) d
      else d.inc 0 Reg.HIF_ERR.BAR0_WREJ 1

/-- A write that reaches the HIF block through BAR0 offset 0 (R488, R517): the host writes the block as its access codes state. -/
def Dev.hifBlockWrite (d : Dev) (off size v : Nat) : Dev := d.ctlWrite { unit := 35, req := 0xFFFE, part := 0 } 0 (0x2500000 + off) size v

/-- A write of the MSI-X table (R488, R492): a vector that is unmasked with its pending bit set sends its message. -/
def Dev.msixWrite (d : Dev) (o size v : Nat) : Dev :=
  let vec := o / 16
  let sh := 8 * (o % 16)
  let mask := (2 ^ (8 * size) - 1) * 2 ^ sh
  let e := (d.msixEntry vec &&& (2 ^ 128 - 1 - mask % 2 ^ 128)) ||| (v % 2 ^ (8 * size) * 2 ^ sh % 2 ^ 128)
  let d := d.updHif (fun h => { h with msix := KMap.set (2 ^ 96) h.msix vec e })
  if !bit e 96 ∧ KMap.get 0 d.hif.pba vec = 1 then (d.updHif (fun h => { h with pba := KMap.set 0 h.pba vec 0 })).sendVector vec else d

/-- A host write to BAR0 (R488, R489): the HIF block, the MSI-X table, or a die view. -/
def Dev.bar0Write (d : Dev) (off size v : Nat) : Dev :=
  if !d.hif.linkUp then d
  else if off < 0x10000 then d.hifBlockWrite off size v
  else if 0x40000 ≤ off ∧ off < 0x48000 then d.msixWrite (off - 0x40000) size v
  else if 0x10000000 ≤ off ∧ off < 0x10000000 + 8 * 0x4000000 then d.viewWrite ((off - 0x10000000) / 0x4000000) ((off - 0x10000000) % 0x4000000) size v
  else d

/-- BAR0_DIE_VIEW_WRITE (R488, R489): the offset is that within BAR0. -/
def execBar0DieViewWrite (offset size : Nat) (value : W64) (s : State) : Host.Outcome State Fault Refusal :=
  s.onDev (fun d => d.bar0Write offset size value.toNat)

/-- A write of a register in the page of a queue (R527 to R533), by the bits that it addresses: HIF_Q_CTRL keeps HOLDOFF and DEPTH before its OP acts, and
OP_REJ is W1C. -/
def Dev.queueReg (d : Dev) (q o mask v : Nat) : Dev :=
  let mix := fun (old : Nat) => (old &&& (2 ^ 64 - 1 - mask)) ||| (v &&& mask)
  let w := v &&& mask
  if o = 0x000 then (if mask % 2 ^ 32 = 0 then d else d.hifBell q (w % 2 ^ 32) (w / 2 ^ 48))
  else if o = 0x008 then (if mask % 2 ^ 32 = 0 then d else d.hifCqHead q w)
  else if o = 0x010 then
    let old := (d.hq q).holdoff * 2 ^ 16 + (d.hq q).depthReg
    let d := d.updHq q (fun h => { h with holdoff := bits (mix old) 16 8, depthReg := mix old % 2 ^ 13 })
    let op := w / 2 ^ 61
    if op = 1 then d.hifEnable q else if op = 2 then d.hifDisable q else if op = 3 then d.hifResume q else d
  else if o = 0x018 then d.updHq q (fun h => { h with sqBase := mix h.sqBase })
  else if o = 0x020 then d.updHq q (fun h => { h with cqBase := mix h.cqBase })
  else if o = 0x028 then (if bit w 60 then d.updHq q (fun h => { h with opRej := false }) else d)
  else if o = 0x030 then (if bit w 63 then d.hifAbort q else d)
  else d

/-- A write to BAR2 (R487, R490): inert while the link is down, until seal and in a device reset; each page is a queue's. -/
def Dev.queueWrite (d : Dev) (q off size v : Nat) : Dev :=
  if !d.hqLive q ∨ !d.hif.linkUp ∨ !ctlAligned off size then d
  else
    let sh := 8 * (off % 8)
    d.queueReg q (alignDown off 8) ((2 ^ (8 * size) - 1) * 2 ^ sh) (v % 2 ^ (8 * size) * 2 ^ sh)

/-- REGISTER_WRITE. -/
def execRegisterWrite (r : Requester) (place : RegPlace) (offset size : Nat) (value : W64) (s : State) : Host.Outcome State Fault Refusal :=
  s.onDev (fun d => match place with
    | .control die => d.ctlWrite r die offset size value.toNat
    | .queue q => d.queueWrite q offset size value.toNat)

/-- CNT_CLR (R66, R69). -/
def execCntClr (s : State) : Host.Outcome State Fault Refusal := s.onDev (fun d => d.clearCounters)

end Sys2Proof.Machine
end

