-- ==== Sys2Proof/Machine/HartOps.lean ====
section
/-! DEFINITION. Memory as a steward core sees it (R289, R306 to R315, R333, R464, R472): translation, PMP, the coherent copies of its die, control space,
host window, boot window and other packages, and the interface to the shared RISC-V instructions (R461). -/

namespace Sys2Proof.Machine

/-- The device with the data that reads outside the package return. -/
structure HartSt where
  d : Dev
  ext : Ext

/-- What ends an access of a core: the exception's cause, a kind and a word. Kind 0 records nothing; 1 to 5 are those of R626, with the league address;
8 and up are fault types of R348 with the access code; 30 is a load from another package, whose address and length wait for their READ; 31 is an access that has
to wait (R264, R308, R310). -/
def hartErr (cause kind x : Nat) : Nat := cause + 64 * (kind + 32 * x)

/-- Causes of access faults: 1 fetch, 5 load, 7 store or AMO. The page fault of the same access. -/
def pageCause (cause : Nat) : Nat := if cause = 1 then 12 else cause + 8

/-- The privilege at which a core's access is checked: MPRV applies to loads and stores. -/
def Hart.effPriv (t : Hart) (ax : Nat) : Nat := if ax ≠ axFetch ∧ t.priv = 3 ∧ bit (t.c 0x300) 17 then bits (t.c 0x300) 11 2 else t.priv

/-- In whose name a core makes an access: resident software in none (partition 16), the rest in that of mpart (R472, R626). -/
def Dev.hartRq (d : Dev) (h ax : Nat) : Rq :=
  let t := d.hart h
  { part := if t.effPriv ax = 3 then 16 else t.part, unit := 128 + h, req := 0, die := h / 64 }

/-- Kinds of access for PMP: 1 read, 2 write, 4 fetch. -/
def pmpKind (ax : Nat) : Nat := if ax = axFetch then 4 else if ax = axWrite then 2 else if ax = axAtomic then 3 else 1

/-- A leaf allows a core's access (R331, R472): rights with MXR, U with SUM, A, and D for a store. -/
def leafAllows (t : Hart) (priv r ax : Nat) (store : Bool) : Bool :=
  let m := t.c 0x300
  let right : Bool :=
    if ax = axFetch then bit r 2
    else if ax = axRead then bit r 0 || (bit m 19 && bit r 2)
    else if ax = axWrite then bit r 1
    else bit r 0 && bit r 1 && bit r 3
  let user : Bool := if priv = 0 then bit r 4 else !bit r 4 || (ax ≠ axFetch && bit m 18)
  right && user && bit r 5 && (!store || bit r 6)

/-- The translation unit of a core (R472). -/
def Dev.hartXq (d : Dev) (h : Nat) : Xq := { mmu := mmuHart h, part := (d.hart h).part, die := h / 64 }

/-- Translates an address of a core (R333, R464, R472): the league system address, or the error. `cause` is that of the access fault. -/
def Dev.hartTranslate (d : Dev) (h va ax cause : Nat) : Except Nat Nat × Dev :=
  let t := d.hart h
  let pr := t.effPriv ax
  let page := fun (ty : Nat) => hartErr (pageCause cause) (8 + ty) ax
  let guarded := fun (target : Nat) => if t.pmpOk pr target (pmpKind ax) then Except.ok target else Except.error (hartErr cause 0 0)
  if pr = 3 then ((if va / 2 ^ 54 ≠ 0 then .error (hartErr cause 0 0) else guarded va), d)
  else if !t.partValid then (.error (hartErr cause 0 0), d)
  else if 2 ^ 47 ≤ va then (.error (page ftNonCanon), d)
  else match d.lookup (d.hartXq h) (t.c 0x180 % 2 ^ 44 * 4096) va with
    | (.error ty, d) => (.error (page ty), d)
    | (.ok e, d) =>
      if leafAllows t pr e.rights ax (cause = 7 && ax ≠ axRead) then (guarded (e.target + (va - e.dva)), d)
      else (.error (page ftRights), d)

/-- A league address of this package. -/
def Dev.leagueAddr (d : Dev) (pa : Nat) : Nat := d.pkgId * 2 ^ 48 + pa

/-- A core's access of `n` bytes waits at a full home (R264), for what its die holds no copy of. -/
def Dev.hartHeld (d : Dev) (h : Nat) (q : Rq) (target n : Nat) : Bool := d.budgetFull q (fun l => (d.stewLine (h / 64) l).valid) target n

/-- Reads coherent memory through the die's copies, by the L1 that `kind` names. -/
def Dev.stewRead (d : Dev) (h kind : Nat) (q : Rq) (pa n : Nat) : List PByte × Dev :=
  (lineSegs pa n).foldl (fun r s =>
    let (l, d) := r.2.stewFetch h kind q s.1
    (r.1 ++ ((lineView l.data l.poison).drop s.2.1).take s.2.2, d)) ([], d)

/-- A byte of the boot window (R22): the ROM from 0, the flash from 0x80000000. -/
def Dev.bootByte (d : Dev) (off : Nat) : Option Byte :=
  if off < 0x40000 then some (Config.romByte off)
  else if 0x80000000 ≤ off ∧ off - 0x80000000 < d.nv.flashSize then some (KMap.get 0xFF#8 d.nv.flash (off - 0x80000000))
  else none

/-- A read of the boot window waits while a command programs or erases a sector that it reads (R537). -/
def Dev.bootWaits (d : Dev) (off n : Nat) : Bool :=
  match d.boot.flashOp with
  | some (_, o, _) => let s := 0x80000000 + alignDown o 65536; decide (s < off + n) && decide (off < s + 65536)
  | none => false

/-- The requester of a core on the control space. -/
def Rq.ctl (q : Rq) : Requester := { die := q.die, unit := q.unit, req := 0, part := q.part % 16 }

/-- Reads `n` bytes at a translated address; poison is consumed with a precise fault (R599). -/
def HartSt.readTarget (s : HartSt) (h : Nat) (q : Rq) (target n cause : Nat) : Except Nat (List Byte × HartSt) :=
  let outside := fun (d : Dev) =>
    if s.ext.poison then Except.error (hartErr cause 5 target)
    else .ok (srcList (srcOf 0 s.ext.bytes) 0 n, ({ d := d, ext := { s.ext with bytes := s.ext.bytes.drop n } } : HartSt))
  let pick := fun (b : List PByte) (d : Dev) =>
    if anyPoison b then Except.error (hartErr cause 5 target) else .ok (plain b, ({ s with d := d } : HartSt))
  match s.d.localOf target with
  | none =>
    let got := (s.d.hart h).got
    let parts := (granuleSegs target n).map (fun g => got.find? (fun x => x.1 = g.1 && x.2.length = g.2))
    if parts.all (·.isSome) then pick (parts.flatMap (fun x => (x.map (·.2)).getD [])) s.d
    else if s.d.remoteUp (target / 2 ^ 48) then .error (hartErr cause 30 (target + n * 2 ^ 54))
    else .error (hartErr cause 6 target)
  | some pa =>
    match s.d.region pa with
    | .stacked | .fathom =>
      (match s.d.accFault q pa with
        | some k => .error (hartErr cause k target)
        | none =>
          if s.d.hartHeld h q target n then .error (hartErr cause 31 0)
          else let (b, d) := s.d.stewRead h (if cause = 1 then 0 else 1) q pa n; pick b d)
    | .scratch .. =>
      (match s.d.accFault q pa with
        | some k => .error (hartErr cause k target)
        | none => let (b, _, d) := s.d.readPa q pa n; pick b d)
    | .control die off =>
      match s.d.ctlRefused q.ctl die with
      | some k => .error (hartErr cause k target)
      | none => let (v, d) := s.d.ctlRead q.ctl die off n; .ok (leBytes n v, { s with d := d })
    | .host _ => if s.d.hostOk then outside s.d else .error (hartErr cause 3 target)
    | .boot off =>
      if s.d.bootWaits off n then .error (hartErr cause 31 0)
      else if (List.range n).all (fun i => (s.d.bootByte (off + i)).isSome) then .ok ((List.range n).map (fun i => (s.d.bootByte (off + i)).getD 0), s)
      else .error (hartErr cause 3 target)
    | .unmapped => .error (hartErr cause 3 target)

/-- Reads bytes at an address of a core, page by page: a failure carries the address of its piece. -/
def HartSt.read (s : HartSt) (h va n ax cause : Nat) : Except (Nat × Nat) (List Byte × HartSt) :=
  (pageSegs va n).foldl (fun r p =>
    match r with
    | .error e => .error e
    | .ok (acc, s) =>
      match s.d.hartTranslate h p.1 ax cause with
      | (.error e, _) => .error (e, p.1)
      | (.ok target, d) =>
        match ({ s with d := d } : HartSt).readTarget h (d.hartRq h ax) target p.2 cause with
        | .error e => .error (e, p.1)
        | .ok (b, s) => .ok (acc ++ b, s)) (.ok ([], s))

/-- Another core defers the recall of a line among those of `n` bytes at a local address (R310). -/
def Dev.recallDefers (d : Dev) (h pa n : Nat) : Bool :=
  d.harts.any (fun e => e.1 ≠ h && e.2.deferring && (match e.2.resv with
    | some l => decide (pa / 128 ≤ l) && decide (l * 128 < pa + n)
    | none => false))

/-- A store of `n` bytes must wait (R264, R308, R310): 64 remote stores are outstanding, in compatibility mode an earlier one to another line is, another core
defers the recall of its line, or its home is full. -/
def Dev.storeWaits (d : Dev) (h target n : Nat) : Bool :=
  let t := d.hart h
  let pa := d.localOf target
  let strict := t.priv < 3 && d.compat t.part && t.remote.any (fun r => pa.isSome || r.addr / 128 ≠ target / 128)
  strict || (match pa with
    | some pa => d.recallDefers h pa n || d.hartHeld h (d.hartRq h axWrite) target n
    | none => 64 ≤ t.remote.length)

/-- An AMO must wait (R264, R307, R310): in compatibility mode it acts at system scope, so for every remote store of its core. -/
def Dev.amoWaits (d : Dev) (h target n : Nat) : Bool :=
  let t := d.hart h
  (t.priv < 3 && d.compat t.part && !t.remote.isEmpty) || (match d.localOf target with
    | some pa => d.recallDefers h pa n || d.budgetFull (d.hartRq h axAtomic) (fun _ => false) target n
    | none => false)

/-- Writes bytes at a translated address (R289). -/
def Dev.hartWriteTarget (d : Dev) (h : Nat) (q : Rq) (target : Nat) (v : List Byte) : Except Nat Dev :=
  let seg := fun (f : Dev → Nat × Nat × Nat → Dev) (pa : Nat) => (lineSegs pa v.length).foldl f d
  if d.storeWaits h target v.length then .error (hartErr 7 31 0)
  else match d.localOf target with
  | none =>
    if d.remoteUp (target / 2 ^ 48) then
      .ok ((granuleSegs target v.length).foldl (fun (d : Dev) (s : Nat × Nat) =>
        let tag := d.nextTag
        let d := d.remoteWriteOne (.hart h) (q.part % 16) s.1 (clean ((v.drop (s.1 - target)).take s.2))
        d.updHart h (fun t => { t with remote := t.remote ++ [{ tag := tag, addr := s.1, len := s.2 }] })) d)
    else .ok ((d.dropWrite (h / 64) (target / 2 ^ 48)).hartLost h target)
  | some pa =>
    match d.region pa with
    | .stacked | .fathom =>
      (match d.accFault q pa with
        | some k => .error (hartErr 7 k target)
        | none => .ok (seg (fun d s => d.stewStore h q s.1 s.2.1 (clean ((v.drop (s.1 * 128 + s.2.1 - pa)).take s.2.2))) pa))
    | .scratch .. =>
      (match d.accFault q pa with
        | some k => .error (hartErr 7 k target)
        | none => .ok (d.writePa q pa (clean v)).2)
    | .control die off =>
      match d.ctlRefused q.ctl die with
      | some k => .error (hartErr 7 k target)
      | none => .ok (d.ctlWrite q.ctl die off v.length (leNat v))
    | .host iova => if d.hostOk then .ok (d.emit (.pcieWrite iova v)) else .error (hartErr 7 3 target)
    | .boot _ | .unmapped => .error (hartErr 7 3 target)

/-- Writes bytes at an address of a core: every page is translated before the first byte is stored. -/
def HartSt.write (s : HartSt) (h va : Nat) (v : List Byte) : Except (Nat × Nat) HartSt :=
  let checked := (pageSegs va v.length).foldl (fun (r : Except (Nat × Nat) (List (Nat × Nat × Nat)) × Dev) p =>
    match r.1 with
    | .error e => (.error e, r.2)
    | .ok l =>
      match r.2.hartTranslate h p.1 axWrite 7 with
      | (.error e, d) => (.error (e, p.1), d)
      | (.ok target, d) => (.ok (l ++ [(p.1, target, p.2)]), d)) (.ok [], s.d)
  match checked.1 with
  | .error e => .error e
  | .ok l => l.foldl (fun r p =>
    match r with
    | .error e => .error e
    | .ok s =>
      match s.d.hartWriteTarget h (s.d.hartRq h axWrite) p.2.1 ((v.drop (p.1 - va)).take p.2.2) with
      | .error e => .error (e, p.1)
      | .ok d => .ok { s with d := d }) (.ok { s with d := checked.2 })

/-- A steward core as the shared RISC-V instructions see it (R461). -/
def hartBus (h : Nat) : RvBus HartSt where
  rv64 := true
  vlen := stewVlen
  elen := 64
  get := fun s => (s.d.hart h).core
  put := fun s k => { s with d := s.d.updHart h (fun t => { t with core := k }) }
  load := fun s a n => match s.read h a n axRead 5 with
    | .ok (b, s) => .ok (leNat b, s)
    | .error e => .error e
  store := fun s a n v => s.write h a (leBytes n v)
  vload := fun s a n => match s.read h a n axRead 5 with
    | .ok (b, s) => .ok (leNat b, s)
    | .error e => .error e
  vstore := fun s a n v => s.write h a (leBytes n v)
  csrRead := fun s n => s.d.hartCsrRead h n
  csrWrite := fun s n x => (s.d.hartCsrWrite h n x).map (fun d => { s with d := d })
  fpOn := fun s => bits ((s.d.hart h).c 0x300) 13 2 ≠ 0
  vecOn := fun s => bits ((s.d.hart h).c 0x300) 9 2 ≠ 0

/-- Records a steward core's translation fault (R338, R349); the spec names no UNIT and no REQ for it. -/
def Dev.hartPageFault (d : Dev) (h type access va : Nat) : Dev :=
  let (u, d) := d.free
  d.mmuFault { d.hartXq h with unit := u, req := u / 64 } type access va

/-- A core asks another package for what a load wants, and waits (R399, R402). -/
def Dev.hartAsk (d : Dev) (h q target n : Nat) : Dev :=
  let segs := granuleSegs target n
  let d := d.updHart h (fun t => { t with stall := .load segs.length })
  segs.foldl (fun d g => d.remoteReadOne (.hart h) (q % 16) g.1 g.2 []) d

/-- An access of a core ends with an exception (R26, R338, R464, R599), or it waits (R264, R308, R310). A poisoned line has been brought to the die. A page
fault is walked for here: `d` is the device before its translation. -/
def Dev.hartFault (d : Dev) (h code tval : Nat) : Dev :=
  let cause := code % 64
  let kind := code / 64 % 32
  let x := code / 2048
  let at_ := fun (k : Nat) (d : Dev) => d.accErr (h / 64) k (d.hartRq h (if cause = 1 then axFetch else axRead)) (x + 2 ^ 60 - d.pkgId * 2 ^ 48)
  if kind = 31 then d.updHart h (fun t => { t with stall := .store })
  else if kind = 30 then d.hartAsk h (d.hartRq h (if cause = 1 then axFetch else axRead)).part (x % 2 ^ 54) (x / 2 ^ 54)
  else
    let d :=
      if kind = 0 then d
      else if kind = 6 then at_ 5 (d.inc 0 Reg.LINK_LOSS.POISON_RD 1)
      else if kind = 5 then
        at_ 5 (match d.localOf x with
          | some pa => (match d.region pa with
            | .stacked | .fathom => (d.stewFetch h (if cause = 1 then 0 else 1) (d.hartRq h (if cause = 1 then axFetch else axRead)) (pa / 128)).2
            | _ => d)
          | none => d)
      else if kind < 8 then at_ kind d
      else (d.hartTranslate h tval x (if cause = 12 then 1 else cause - 8)).2.hartPageFault h (kind - 8) x tval
    d.hartTrap h cause tval

/-- Moves past an instruction of `len` bytes. -/
def Dev.hartNext (d : Dev) (h len : Nat) : Dev :=
  d.updHart h (fun t => { t with core := { t.core with pc := (t.core.pc + len) % 2 ^ 64 } }.count)

/-- Writes an x register of a core and moves past a 32-bit instruction. -/
def Dev.hartRd (d : Dev) (h rd v : Nat) : Dev := (d.updHart h (fun t => { t with core := t.core.sx 64 rd v })).hartNext h 4

/-- Reads an x register of a core. -/
def Dev.hx (d : Dev) (h r : Nat) : Nat := (d.hart h).core.gx r

/-- An illegal-instruction exception (R461). -/
def Dev.hartIllegal (d : Dev) (h word : Nat) : Dev := d.hartTrap h causeIllegal word

/-- Marks the floating and vector state dirty where an instruction changed it. -/
def Hart.markDirty (old t : Hart) : Hart :=
  let a := old.core
  let b := t.core
  let t := if a.f ≠ b.f ∨ a.fcsr ≠ b.fcsr then t.setC 0x300 (t.c 0x300 ||| 0x6000) else t
  if a.v ≠ b.v ∨ a.vtype ≠ b.vtype ∨ a.vill ≠ b.vill ∨ a.vl ≠ b.vl ∨ a.vstart ≠ b.vstart ∨ a.vxrm ≠ b.vxrm ∨ a.vxsat ≠ b.vxsat then
    t.setC 0x300 (t.c 0x300 ||| 0x600)
  else t

end Sys2Proof.Machine
end

