-- ==== Sys2Proof/Machine/HartCmds.lean ====
section
/-! DEFINITION. The instructions of the steward cores (13 of the spec; R306 to R315): Xeumtick, the privileged and cache instructions, atomics and
reservations, any instruction from memory, and the services of the resident software (R483). -/

namespace Sys2Proof.Machine

/-- A core can execute: it runs, its die lives, it is awake and waits for nothing. -/
def Dev.hartAlive (d : Dev) (h : Nat) : Bool :=
  d.hartOk h && (d.hart h).running && !d.dieFailed (h / 64) && !d.boot.stopped.contains (h / 64)

/-- An instruction can start. -/
def Dev.hartReady (d : Dev) (h : Nat) : Bool := d.hartAlive h && (d.hart h).power = 0 && decide ((d.hart h).stall = .none)

/-- A command that names an instruction of a core acts where the core can start it. -/
def Dev.hartDo (d : Dev) (h : Nat) (f : Dev → Dev) : Dev := if d.hartReady h then (f d).releaseFree else d

/-- TWAIT (R466): completes at once, or the core waits. -/
def Dev.hartTwait (d : Dev) (h : Nat) (next : Bool) (target rd : Nat) : Dev :=
  let ends := fun (v : Nat) => (d.updHart h (fun t => { t with stall := .none, power := 0 }.setC 0x344 (t.c 0x344 &&& (2 ^ 64 - 1 - 2 ^ 34)))).hartRd h rd v
  if d.rd 0 Reg.TICK_STATUS.STATE = 0 then ends (2 ^ 64 - 1)
  else if !next ∧ target ≤ d.tick then ends d.tick
  else d.updHart h (fun t => { t with stall := .twait next target rd, power := 1 })

/-- At a boundary, TWAIT completes where its condition holds (R466). -/
def Dev.twaitBoundary (d : Dev) (h : Nat) : Dev :=
  match (d.hart h).stall with
  | .twait next target rd => if next then d.hartTwait h false 0 rd else d.hartTwait h false target rd
  | _ => d

/-- FENCE.SC (R467): a fence at system scope waits for the remote stores. -/
def Dev.hartFence (d : Dev) (h scope : Nat) : Dev :=
  if scope = 4 ∧ !(d.hart h).remote.isEmpty then d.updHart h (fun t => { t with stall := .fence scope })
  else (d.updHart h (fun t => { t with stall := .none })).hartNext h 4

/-- FENCE (R307): package scope in native mode, system scope in compatibility mode. -/
def Dev.hartPlainFence (d : Dev) (h : Nat) : Dev :=
  let t := d.hart h
  d.hartFence h (if t.priv < 3 ∧ d.compat t.part then 4 else 3)

/-- The fields that SPANQ returns (R469). -/
def Dev.spanState (d : Dev) (h id : Nat) : Nat :=
  let t := d.hart h
  let i := d.span id
  let hidden : Bool := match d.anyEntry id with
    | some e => id = 0 || (t.priv < 3 && e.partition ≠ t.part)
    | none => true
  if hidden then 0xFF
  else
    let st := match d.entryOf id with
      | none => 0
      | some e =>
        if i.dispatched ∧ i.tick = d.tick then (if i.outcome = 0xFF ∨ i.running ≠ 0 then 2 else 3)
        else if i.dispatched ∧ e.startNs < d.elapsed then 4 else 1
    i.tick % 65536 * 2 ^ 48 + i.dispatch % 65536 * 2 ^ 32 + i.ended % 65536 * 2 ^ 16 + st * 256 + i.outcome % 256

/-- What TREAD returns (R465). -/
def Dev.treadValue (d : Dev) (sel : Nat) : Nat :=
  if sel = 0 then d.tick else if sel = 1 then d.elapsed else d.rd 0 Reg.TICK_STATUS.STATE * 256 + d.opp % 8

/-- SETIPI (R465, R473, R475). -/
def Dev.hartSetipi (d : Dev) (h target identity : Nat) (supervisor : Bool) (word : Nat) : Dev :=
  let t := d.hart h
  let u := d.hart target
  if identity < 32 ∨ 255 < identity ∨ t.priv = 0 then d.hartIllegal h word
  else if t.priv = 1 ∧ !(supervisor && d.hartOk target && u.partValid && u.part = t.part) then d.hartIllegal h word
  else (d.setIdentity target supervisor identity).hartNext h 4

/-- WFI (R479): nothing sleeps while an enabled interrupt is pending; OFF waits for the remote stores and empties the core's caches. -/
def Dev.hartWfi (d : Dev) (h word : Nat) : Dev :=
  let t := d.hart h
  let p := if t.priv = 3 then (if t.c 0x7C4 % 4 = 0 then 1 else t.c 0x7C4 % 4) else 1
  if d.irqWakes t then (d.updHart h (fun t => { t with stall := .none })).hartNext h 4
  else if t.priv < 3 ∧ bit (t.c 0x300) 21 then d.hartIllegal h word
  else if p = 3 ∧ !t.remote.isEmpty then d.updHart h (fun t => { t with stall := .store })
  else ((if p = 3 then d.coreOff h else d).updHart h (fun t => { t with stall := .none, power := p })).hartNext h 4

/-- The Zicbom instructions (R471): 0 inval, 1 clean, 2 flush. S and U mode need the enable bits of menvcfg and senvcfg. -/
def Dev.hartCbo (d : Dev) (h op rs1 word : Nat) : Dev :=
  let t := d.hart h
  let allowed := fun (n : Nat) => if op = 0 then bits (t.c n) 4 2 ≠ 0 else bit (t.c n) 6
  let va := alignDown (d.hx h rs1) 128
  if (t.priv < 3 ∧ !allowed 0x30A) ∨ (t.priv = 0 ∧ !allowed 0x10A) then d.hartIllegal h word
  else match d.hartTranslate h va axRead 7 with
    | (.error e, d2) => (if e / 64 % 32 < 8 then d2 else d).hartFault h e va
    | (.ok target, d) =>
      let d := match d.localOf target with
        | some pa =>
          (match d.region pa with
            | .stacked | .fathom => if op = 1 then d.recallClean (pa / 128) else d.recallDrop (pa / 128)
            | _ => d)
        | none => d
      let bad : Option Nat := match d.localOf target with
        | some pa =>
          (match d.region pa with
            | .unmapped => some 3
            | .stacked | .fathom => if d.dieFailed (d.homeDie pa) then some 4 else none
            | _ => none)
        | none => none
      match bad with
      | some k => d.hartFault h (hartErr 7 k target) va
      | none => d.hartNext h 4

/-- An AMO, LR or SC reaches coherent memory of the package: its local address, or the error (R309, R331). A misaligned one is refused first. -/
def Dev.amoTarget (d : Dev) (h va width cause : Nat) : Except Nat Nat × Dev :=
  if va % width ≠ 0 then (.error (hartErr (if cause = 5 then 4 else 6) 0 0), d)
  else match d.hartTranslate h va axAtomic cause with
    | (.error e, d) => (.error e, d)
    | (.ok target, d) => (.ok target, d)

/-- The local coherent address of a target, or the error of an atomic there (R309). -/
def Dev.amoLocal (d : Dev) (h target cause : Nat) : Except Nat Nat :=
  match d.localOf target with
  | none => .error (hartErr cause 0 0)
  | some pa =>
    match d.region pa with
    | .stacked | .fathom =>
      (match d.accFault (d.hartRq h axAtomic) pa with
        | some k => .error (hartErr cause k target)
        | none => .ok pa)
    | .unmapped => .error (hartErr cause 3 target)
    | _ => .error (hartErr cause 0 0)

/-- Loads a value sign-extended from a width of 4 or 8 bytes. -/
def signedWord (width n : Nat) : Nat := ofSigned 64 (toSigned (8 * width) n)

/-- An AMO of a core (R309): at the home of its line, or at another package. -/
def Dev.hartAmo (d : Dev) (h : Nat) (op : AmoOp) (width rd rs1 rs2 : Nat) : Dev :=
  let va := d.hx h rs1
  let operand := d.hx h rs2
  match d.amoTarget h va width 7 with
  | (.error e, d2) => (if e / 64 % 32 < 8 then d2 else d).hartFault h e va
  | (.ok target, d) =>
    let q := d.hartRq h axAtomic
    let wait := d.updHart h (fun t => { t with stall := .store })
    match d.localOf target with
    | none =>
      if d.amoWaits h target width then wait
      else if d.remoteUp (target / 2 ^ 48) then
        let (tag, d) := d.takeTag
        let p := d.packetTo 3 (target / 2 ^ 48) (q.part % 16) tag target width
        let d := d.issueRemote (.hart h) { p with payload := leBytes 8 (amoToNat op) ++ leBytes 8 operand ++ leBytes 8 0 } width true []
        d.updHart h (fun t => { t with stall := .amo width rd va })
      else d.hartFault h (hartErr 7 6 target) va
    | some _ =>
      match d.amoLocal h target 7 with
      | .error e => d.hartFault h e va
      | .ok pa =>
        if d.amoWaits h target width then wait
        else
        let own := d.hart h
        let (old, d) := d.homeAmo q pa width op operand 0
        let d := d.updHart h (fun t => { t with resv := own.resv, deferring := own.deferring })
        if anyPoison old then d.hartFault h (hartErr 7 5 target) va else d.hartRd h rd (signedWord width (leNat (plain old)))

/-- LR (R309, R310): the line comes with ownership. In compatibility mode an LR with `rl` waits for every remote store of its core (R307). -/
def Dev.hartLr (d : Dev) (h width rd rs1 : Nat) (rl : Bool) : Dev :=
  let va := d.hx h rs1
  match d.amoTarget h va width 5 with
  | (.error e, d2) => (if e / 64 % 32 < 8 then d2 else d).hartFault h e va
  | (.ok target, d) =>
    match d.amoLocal h target 5 with
    | .error e => d.hartFault h e va
    | .ok pa =>
      let t := d.hart h
      if (rl && t.priv < 3 && d.compat t.part && !t.remote.isEmpty) || d.recallDefers h pa width || d.hartHeld h (d.hartRq h axAtomic) target width then
        d.updHart h (fun t => { t with stall := .store })
      else
      let (l, d) := d.stewOwn h (d.hartRq h axAtomic) (pa / 128)
      let b := ((lineView l.data l.poison).drop (pa % 128)).take width
      if anyPoison b then d.hartFault h (hartErr 5 5 target) va
      else (d.updHart h (fun t => { t with resv := some (pa / 128), deferring := true, stall := .none })).hartRd h rd (signedWord width (leNat (plain b)))

/-- SC (R309 to R311): succeeds while the reservation holds its line; the reservation ends. -/
def Dev.hartSc (d : Dev) (h width rd rs1 rs2 : Nat) : Dev :=
  let va := d.hx h rs1
  let v := d.hx h rs2
  match d.amoTarget h va width 7 with
  | (.error e, d2) => (if e / 64 % 32 < 8 then d2 else d).hartFault h e va
  | (.ok target, d) =>
    match d.amoLocal h target 7 with
    | .error e => d.hartFault h e va
    | .ok pa =>
      let held := (d.hart h).resv
      if held = some (pa / 128) ∧ d.storeWaits h target width then d.updHart h (fun t => { t with stall := .store })
      else
        let d := d.updHart h (fun t => { t with resv := none, deferring := false, stall := .none })
        if held = some (pa / 128) then (d.stewStore h (d.hartRq h axAtomic) (pa / 128) (pa % 128) (clean (leBytes width v))).hartRd h rd 0
        else d.hartRd h rd 1

/-- sfence.vma (R472): drops translations of this core alone, by address and ASID where registers name them. -/
def Dev.hartSfence (d : Dev) (h rs1 rs2 word : Nat) : Dev :=
  let t := d.hart h
  if t.priv = 0 ∨ (t.priv = 1 ∧ bit (t.c 0x300) 20) then d.hartIllegal h word
  else
    let va := d.hx h rs1
    let part := d.hx h rs2
    let hit := fun (p dva size : Nat) => (rs1 = 0 || dva = alignDown va (2 ^ size)) && (rs2 = 0 || p = part)
    ({ d with tlb := d.tlb.filter (fun e => !(e.mmu = mmuHart h && hit e.part e.dva e.size)),
              walks := d.walks.filter (fun e => !(e.mmu = mmuHart h && (rs2 = 0 || e.part = part))) } : Dev).hartNext h 4

/-- Xeumtick instructions in custom-0 (R465); fields that are not named are zero. -/
def Dev.hartCustom (d : Dev) (h w : Nat) : Dev :=
  let f3 := bits w 12 3
  let rd := bits w 7 5
  let rs1 := bits w 15 5
  let imm := bits w 20 12
  let bad := d.hartIllegal h w
  if f3 = 0 then (if 1 < imm ∨ (imm = 1 ∧ rs1 ≠ 0) then bad else d.hartTwait h (imm = 1) (d.hx h rs1) rd)
  else if f3 = 1 then (if 4 < imm ∨ rs1 ≠ 0 ∨ rd ≠ 0 then bad else d.hartFence h imm)
  else if f3 = 2 then (if imm ≠ 0 then bad else d.hartRd h rd (d.spanState h (d.hx h rs1 % 65536)))
  else if f3 = 3 then (if 2 < imm ∨ rs1 ≠ 0 then bad else d.hartRd h rd (d.treadValue imm))
  else if f3 = 4 then (if rd ≠ 0 ∨ 511 < imm then bad else d.hartSetipi h (d.hx h rs1) (imm % 256) (bit imm 8) w)
  else bad

/-- The AMO operation of an A-extension code. -/
def amoOfCode (f5 : Nat) : AmoOp :=
  match f5 with
  | 0 => .add | 1 => .swap | 4 => .xor | 8 => .or | 12 => .and | 16 => .min | 20 => .max | 24 => .minu | _ => .maxu

/-- The system, cache, atomic and Xeumtick instructions of a core. -/
def Dev.hartSystem (d : Dev) (h word len : Nat) (i : RvInst) : Dev :=
  let t := d.hart h
  let bad := d.hartIllegal h (if len = 2 then word % 65536 else word)
  match i with
  | .fence .. => d.hartPlainFence h
  | .fenceI => d.hartNext h len
  | .cbo op rs1 => d.hartCbo h op rs1 word
  | .ecall => d.hartTrap h (if t.priv = 3 then 11 else 8 + t.priv) 0
  | .ebreak => d.hartTrap h 3 t.core.pc
  | .mret => if t.priv = 3 then d.updHart h (fun t => t.mret.count) else bad
  | .sret => if t.priv = 0 ∨ (t.priv = 1 ∧ bit (t.c 0x300) 22) then bad else d.updHart h (fun t => t.sret.count)
  | .wfi => d.hartWfi h word
  | .sfenceVma rs1 rs2 => d.hartSfence h rs1 rs2 word
  | .amo f5 dbl rd rs1 rs2 =>
    let w := if dbl then 8 else 4
    if f5 = 2 then d.hartLr h w rd rs1 (bit word 25) else if f5 = 3 then d.hartSc h w rd rs1 rs2 else d.hartAmo h (amoOfCode f5) w rd rs1 rs2
  | .custom 0 w => d.hartCustom h w
  | _ => bad

/-- A vector instruction on floating values needs the floating state too. -/
def needsFp : RvInst → Bool
  | .varith _ _ _ _ f3 _ => f3 = 1 || f3 = 5
  | _ => false

/-- Executes a decoded instruction of a core (R461, R477). -/
def HartSt.run (s : HartSt) (h word len : Nat) (i : RvInst) : Dev :=
  let old := s.d.hart h
  if needsFp i ∧ !(hartBus h).fpOn s then s.d.hartIllegal h word
  else match (hartBus h).exec s word len i with
    | some (.ok s) => s.d.updHart h (fun t => (old.markDirty t).count)
    | some (.trap s c tv) => (s.d.updHart h (fun t => old.markDirty t)).hartFault h c tv
    | none => s.d.hartSystem h word len i

/-- Fetches at the pc and executes (R461, R599). -/
def HartSt.fetchRun (s : HartSt) (h : Nat) : Dev :=
  let pc := (s.d.hart h).core.pc
  match s.read h pc 2 axFetch 1 with
  | .error e => s.d.hartFault h e.1 e.2
  | .ok (b, s) =>
    let go := fun (s : HartSt) (w : Nat) =>
      match rvFetchDecode true w with
      | (some i, len) => s.run h w len i
      | (none, len) => s.d.hartIllegal h (if len = 2 then w % 65536 else w)
    if leNat b % 4 ≠ 3 then go s (leNat b)
    else match s.read h (pc + 2) 2 axFetch 1 with
      | .error e => s.d.hartFault h e.1 e.2
      | .ok (b2, s) => go s (leNat b + 65536 * leNat b2)

/-- STEWARD_INSTRUCTION: a pending interrupt is taken, or the instruction at the pc executes; a core that waits tries again. -/
def Dev.stewardStep (d : Dev) (h : Nat) (ext : Ext) : Dev :=
  let t := d.hart h
  let again := ({ d := d.updHart h (fun t => { t with stall := .none }), ext := ext } : HartSt).fetchRun h
  if !d.hartAlive h ∨ t.power ≠ 0 then d
  else match t.stall with
    | .amo .. | .load _ => d
    | .none => (match d.irqTake t with
      | some (i, toS) => d.updHart h (fun t => t.trap true i 0 toS)
      | none => again)
    | .twait .. => (match d.irqTake t with
      | some (i, toS) => d.updHart h (fun t => t.trap true i 0 toS)
      | none => d.updHart h (fun t => { t with power := 1 }))
    | .fence scope => (match d.irqTake t with
      | some (i, toS) => d.updHart h (fun t => t.trap true i 0 toS)
      | none => d.hartFence h scope)
    | .store => (match d.irqTake t with
      | some (i, toS) => d.updHart h (fun t => t.trap true i 0 toS)
      | none => again)

/-- STEWARD_INSTRUCTION. -/
def execStewardInstruction (hart : Nat) (ext : Ext) (s : State) : Host.Outcome State Fault Refusal := s.onDev (fun d => (d.stewardStep hart ext).releaseFree)

/-- TWAIT (R466). -/
def execTwait (hart : Nat) (next : Bool) (rs1 rd : Nat) (s : State) : Host.Outcome State Fault Refusal :=
  s.onDev (fun d => d.hartDo hart (fun d => d.hartTwait hart next (d.hx hart rs1) rd))

/-- FENCE.SC (R467); codes 5 to 7 are illegal. -/
def execStewardFenceSc (hart scope : Nat) (s : State) : Host.Outcome State Fault Refusal :=
  s.onDev (fun d => d.hartDo hart (fun d => if 4 < scope then d.hartIllegal hart (encI scope 0 1 0 0x0B) else d.hartFence hart scope))

/-- SPANQ (R469). -/
def execSpanq (hart rs1 rd : Nat) (s : State) : Host.Outcome State Fault Refusal :=
  s.onDev (fun d => d.hartDo hart (fun d => d.hartRd hart rd (d.spanState hart (d.hx hart rs1 % 65536))))

/-- TREAD (R465); selector 3 is illegal. -/
def execTread (hart sel rd : Nat) (s : State) : Host.Outcome State Fault Refusal :=
  s.onDev (fun d => d.hartDo hart (fun d => if 2 < sel then d.hartIllegal hart (encI sel 0 3 rd 0x0B) else d.hartRd hart rd (d.treadValue sel)))

/-- SETIPI (R473, R475). -/
def execSetipi (hart rs1 identity : Nat) (supervisor : Bool) (s : State) : Host.Outcome State Fault Refusal :=
  s.onDev (fun d => d.hartDo hart (fun d =>
    d.hartSetipi hart (d.hx hart rs1) identity supervisor (encI (identity % 256 + 256 * b2n supervisor) rs1 4 0 0x0B)))

/-- A write of an M-mode CSR of Xeumtick as csrrw with rd = x0: illegal in S and U mode. The source register is not told: the trap value is free. -/
def Dev.hartCsrSet (d : Dev) (h : Nat) (f : Dev → Dev) : Dev :=
  if (d.hart h).priv < 3 then
    let (w, d) := d.free
    d.hartIllegal h (w % 2 ^ 32)
  else (f d).hartNext h 4

/-- MPART_WRITE (R468, R480). -/
def execMpartWrite (hart : Nat) (value : W64) (s : State) : Host.Outcome State Fault Refusal :=
  s.onDev (fun d => d.hartDo hart (fun d => d.hartCsrSet hart (fun d => d.writeMpart hart value.toNat)))

/-- MLIVE_WRITE (R485). -/
def execMliveWrite (hart : Nat) (value : W64) (s : State) : Host.Outcome State Fault Refusal :=
  s.onDev (fun d => d.hartDo hart (fun d => d.hartCsrSet hart (fun d => d.writeMlive hart value.toNat)))

/-- MLOSTERR_WRITE (R468, R476). -/
def execMlosterrWrite (hart : Nat) (s : State) : Host.Outcome State Fault Refusal :=
  s.onDev (fun d => d.hartDo hart (fun d => d.hartCsrSet hart (fun d => d.writeMlosterr hart)))

/-- MTIMECMPX_EXPIRY (R463, R468): time reaches a core's compare value within this tick; the interrupt then stands in mip. -/
def execMtimecmpxExpiry (hart : Nat) (supervisor : Bool) (s : State) : Host.Outcome State Fault Refusal :=
  s.onDev (fun d =>
    let cmp := (d.hart hart).c (if supervisor then 0x14D else 0x7C1)
    if d.hartOk hart ∧ cmp * 10 - d.timeNs ≤ d.rd 0 Reg.TICK_PERIOD.PERIOD * 1000 then d.toTime (cmp * 10 - d.timeNs) else d)

/-- WFI (R479). -/
def execWfi (hart : Nat) (s : State) : Host.Outcome State Fault Refusal :=
  s.onDev (fun d => d.hartDo hart (fun d => d.hartWfi hart 0x10500073))

/-- CORE_WAKE (R479): a pending, enabled interrupt wakes the core. -/
def execCoreWake (hart : Nat) (s : State) : Host.Outcome State Fault Refusal :=
  s.onDev (fun d => if d.hartAlive hart ∧ d.irqWakes (d.hart hart) then d.updHart hart (fun t => { t with power := 0 }) else d)

/-- CBO_CLEAN (R471). -/
def execCboClean (hart rs1 : Nat) (s : State) : Host.Outcome State Fault Refusal :=
  s.onDev (fun d => d.hartDo hart (fun d => d.hartCbo hart 1 rs1 (encI 1 rs1 2 0 0x0F)))

/-- CBO_FLUSH (R471). -/
def execCboFlush (hart rs1 : Nat) (s : State) : Host.Outcome State Fault Refusal :=
  s.onDev (fun d => d.hartDo hart (fun d => d.hartCbo hart 2 rs1 (encI 2 rs1 2 0 0x0F)))

/-- CBO_INVAL (R471). -/
def execCboInval (hart rs1 : Nat) (s : State) : Host.Outcome State Fault Refusal :=
  s.onDev (fun d => d.hartDo hart (fun d => d.hartCbo hart 0 rs1 (encI 0 rs1 2 0 0x0F)))

/-- STEWARD_AMO (R309): the operations of the A extension, 4 or 8 bytes wide. -/
def execStewardAmo (hart : Nat) (op : AmoOp) (width rd rs1 rs2 : Nat) (s : State) : Host.Outcome State Fault Refusal :=
  s.onDev (fun d => d.hartDo hart (fun d => if (width = 4 ∨ width = 8) ∧ op ≠ .cas then d.hartAmo hart op width rd rs1 rs2 else d))

/-- LOAD_RESERVED (R309, R310). -/
def execLoadReserved (hart width rd rs1 : Nat) (s : State) : Host.Outcome State Fault Refusal :=
  s.onDev (fun d => d.hartDo hart (fun d => if width = 4 ∨ width = 8 then d.hartLr hart width rd rs1 false else d))

/-- STORE_CONDITIONAL (R309 to R311). -/
def execStoreConditional (hart width rd rs1 rs2 : Nat) (s : State) : Host.Outcome State Fault Refusal :=
  s.onDev (fun d => d.hartDo hart (fun d => if width = 4 ∨ width = 8 then d.hartSc hart width rd rs1 rs2 else d))

/-- RESERVATION_TIMEOUT (R310): 1,024 core cycles have passed after the LR. -/
def execReservationTimeout (hart : Nat) (s : State) : Host.Outcome State Fault Refusal :=
  s.onDev (fun d => if d.hartOk hart then (d.updHart hart (fun t => { t with resv := none, deferring := false })).releaseFree else d)

/-- RECALL_DEFERRAL_END (R310): the core yields the line; requests at its home that waited for it go on. -/
def execRecallDeferralEnd (hart : Nat) (s : State) : Host.Outcome State Fault Refusal :=
  s.onDev (fun d => if d.hartOk hart ∧ (d.hart hart).deferring then
    (d.updHart hart (fun t => { t with deferring := false })).releaseFree else d)

/-- SFENCE_VMA (R472). -/
def execSfenceVma (hart rs1 rs2 : Nat) (s : State) : Host.Outcome State Fault Refusal :=
  s.onDev (fun d => d.hartDo hart (fun d => d.hartSfence hart rs1 rs2 (encR 9 rs2 rs1 0 0 0x73)))

/-- The error codes of the SBI that the services return. -/
def sbiFailed : Nat := 2 ^ 64 - 1
def sbiInvalid : Nat := 2 ^ 64 - 3
def sbiDenied : Nat := 2 ^ 64 - 4
def sbiAddress : Nat := 2 ^ 64 - 5

/-- Returns from a service: error in a0, value in a1, past the ecall (R483). -/
def Dev.sbiReturn (d : Dev) (h err v : Nat) : Dev :=
  (d.updHart h (fun t => { t with core := (t.core.sx 64 10 err).sx 64 11 v })).hartNext h 4

/-- A call of the extension 0x0900_0001 from S mode. -/
def Dev.sbiCall (d : Dev) (h fid : Nat) (f : Dev → Dev) : Dev :=
  d.hartDo h (fun d => if d.sealed ∧ (d.hart h).priv = 1 ∧ (d.hart h).partValid ∧ d.hx h 17 = 0x09000001 ∧ d.hx h 16 = fid then f d else d)

/-- Root of a partition's tables that its core uses. -/
def Dev.hartRoot (d : Dev) (h : Nat) : Nat := (d.hart h).c 0x180 % 2 ^ 44 * 4096

/-- The pages of a tier as a range of page indexes. -/
def Dev.tierPages (d : Dev) (tier : Nat) : Nat × Nat := if tier = 0 then (0, d.stackedPages) else (d.stackedPages, d.stackedPages + d.fathomPages)

/-- PAGE_MAP (R483): claims pages, maps them and returns the first page index. It waits while a page-owner command runs (R262). -/
def Dev.pageMap (d : Dev) (h : Nat) : Dev :=
  let part := (d.hart h).part
  let root := d.hartRoot h
  let tier := d.hx h 10
  let count := d.hx h 11
  let dva := d.hx h 12
  let rights := d.hx h 13
  let r := rights % 4 + 8 * bits rights 2 1
  let span := d.tierPages tier
  if count = 0 then d.sbiReturn h 0 0
  else if d.rd 0 Reg.BMC_OWN_STATUS.BUSY = 1 then d
  else if 1 < tier ∨ 8 ≤ rights ∨ rights % 4 = 0 ∨ rights % 4 = 2 then d.sbiReturn h sbiInvalid 0
  else if dva % 65536 ≠ 0 ∨ hostBase < dva + count * 65536 ∨ (List.range count).any (fun i => (d.leafAt d.pkgId part root (dva + i * 65536)).isSome) then d.sbiReturn h sbiAddress 0
  else match d.findFree span.1 span.2 count 1 with
    | none => d.sbiReturn h sbiFailed 0
    | some page =>
      let d1 := d.ownCommand 1 part count page
      if d1.rd 0 Reg.BMC_OWN_STATUS.RESULT ≠ 0 then d1.sbiReturn h sbiFailed 0
      else
        let pool : TablePool := { lo := 0, hi := d.stackedPages, own := d.pkgId }
        let mapped := (List.range count).foldl (fun (o : Option (TablePool × Dev)) i =>
          match o with
          | none => none
          | some (pool, d) => d.mapLeaf part root (dva + i * 65536) 0 (d.leagueAddr (d.pageBase (page + i))) r pool) (some (pool, d1))
        (match mapped with
          | some (_, d) => d.sbiReturn h 0 page
          | none => d.sbiReturn h sbiFailed 0)

/-- PAGE_UNMAP (R483): every page is a 64 KiB leaf of the partition onto a page it owns. It waits, before its first effect, while a page-owner or an MMU command
runs and while an access that its leaves translated is under way (R262, R339; assumption 64). -/
def Dev.pageUnmap (d : Dev) (h : Nat) : Dev :=
  let part := (d.hart h).part
  let root := d.hartRoot h
  let dva := d.hx h 10
  let count := d.hx h 11
  let pageOf := fun (i : Nat) =>
    match d.leafAt d.pkgId part root (dva + i * 65536) with
    | some e => if e.size = 16 ∧ e.target / 2 ^ 48 = d.pkgId ∧ d.hasHome (e.target % 2 ^ 48) then some (d.pageIndex (e.target % 2 ^ 48)) else none
    | none => none
  if count = 0 then d.sbiReturn h 0 0
  else if d.rd 0 Reg.BMC_OWN_STATUS.BUSY = 1 ∨ d.rd 0 Reg.MMU_INV_STATUS.BUSY = 1 then d
  else if dva % 65536 ≠ 0 then d.sbiReturn h sbiAddress 0
  else if (List.range count).any (fun i => (pageOf i).isNone) then d.sbiReturn h sbiInvalid 0
  else if (List.range count).any (fun i => ((pageOf i).map (fun p => decide (d.ownerOf p ≠ part))).getD false) then d.sbiReturn h sbiDenied 0
  else
    let pages := (List.range count).filterMap pageOf
    let u := (List.range count).foldl (fun d i => d.unmapLeaf part root (dva + i * 65536)) d
    let u := (u.wr 0 Reg.MMU_INV_ADDR.ADDR (dva / 65536)).invCommand 1 part count
    match u.invCmd with
    | none => d
    | some c =>
      if u.invWaits c then d
      else (pages.foldl (fun d p => (d.ownCommand 2 part 1 p).ownFinish) (u.invFinish)).sbiReturn h 0 0

/-- FLOW_CMD (R483): returns RESULT of SIO_FLOW_STATUS. -/
def Dev.sbiFlow (d : Dev) (h : Nat) : Dev :=
  let i := d.hx h 10
  let op := d.hx h 11
  if op = 0 ∨ 4 < op ∨ 65536 ≤ i then d.sbiReturn h sbiInvalid 0
  else match d.flowStruct i with
    | some e =>
      if e.partition ≠ (d.hart h).part then d.sbiReturn h sbiDenied 0
      else
        let d := d.flowCommand op i (d.hx h 12)
        d.sbiReturn h 0 (d.rd d.sioDie Reg.SIO_FLOW_STATUS.RESULT)
    | none =>
      let d := d.flowCommand op i (d.hx h 12)
      d.sbiReturn h 0 (d.rd d.sioDie Reg.SIO_FLOW_STATUS.RESULT)

/-- KEY_LOAD (R446, R483): the 48 bytes are the words of SIO_KEY_DATA; they are zeroed. -/
def Dev.sbiKey (d : Dev) (h : Nat) : Dev :=
  let k := d.hx h 10
  let dva := d.hx h 11
  let len := d.hx h 12
  if 65536 ≤ k ∨ (len ≠ 16 ∧ len ≠ 32) then d.sbiReturn h sbiInvalid 0
  else match ({ d := d, ext := ⟨[], false⟩ } : HartSt).read h dva 48 axRead 5 with
    | .error e =>
      if e.1 / 64 % 32 = 31 then d else if e.1 / 64 % 32 = 30 then d.hartFault h e.1 e.2 else d.sbiReturn h sbiAddress 0
    | .ok (b, s) =>
      match s.write h dva (List.replicate 48 0#8) with
      | .error e => if e.1 / 64 % 32 = 31 then d else d.sbiReturn h sbiAddress 0
      | .ok s =>
        let d := (List.range 6).foldl (fun d w => d.wr d.sioDie (Reg.SIO_KEY_DATA.DATA.at 8 w) (fld b (8 * w) 8)) s.d
        (d.loadKey k (len = 32)).sbiReturn h 0 0

/-- SBI_PAGE_MAP; the service waits while a page-owner command runs. -/
def execSbiPageMap (hart : Nat) (s : State) : Host.Outcome State Fault Refusal :=
  s.onDev (fun d => d.sbiCall hart 0 (fun d => if d.ownCmd.isSome then d else d.pageMap hart))

/-- SBI_PAGE_UNMAP; the service waits while a page-owner or an invalidation command runs. -/
def execSbiPageUnmap (hart : Nat) (s : State) : Host.Outcome State Fault Refusal :=
  s.onDev (fun d => d.sbiCall hart 1 (fun d => if d.ownCmd.isSome ∨ d.invCmd.isSome then d else d.pageUnmap hart))

/-- SBI_FLOW_CMD. -/
def execSbiFlowCmd (hart : Nat) (s : State) : Host.Outcome State Fault Refusal := s.onDev (fun d => d.sbiCall hart 2 (fun d => d.sbiFlow hart))

/-- SBI_KEY_LOAD. -/
def execSbiKeyLoad (hart : Nat) (s : State) : Host.Outcome State Fault Refusal := s.onDev (fun d => d.sbiCall hart 3 (fun d => d.sbiKey hart))

end Sys2Proof.Machine
end

