-- ==== Sys2Proof/Machine/MoverCmds.lean ====
section
/-! DEFINITION. The commands of the tier mover and of NVMe placement (07 and 12 of the spec). -/

namespace Sys2Proof.Machine

/-- MOVE_COPY (R249, R254). -/
def execMoveCopy (die entry : Nat) (ext : Ext) (s : State) : Host.Outcome State Fault Refusal :=
  s.onDev (fun d => d.moveBegin die entry 1 (fun e m d => d.moveWhole die entry e m ext (some e.src)))

/-- MOVE_ZERO (R249, R254). -/
def execMoveZero (die entry : Nat) (s : State) : Host.Outcome State Fault Refusal :=
  s.onDev (fun d => d.moveBegin die entry 2 (fun e m d => d.moveWhole die entry e m ⟨[], false⟩ none))

/-- MOVE_KV_IN (R269). -/
def execMoveKvIn (die entry : Nat) (s : State) : Host.Outcome State Fault Refusal :=
  s.onDev (fun d => d.moveBegin die entry 3 (fun e m d => d.kvRun die entry e m false))

/-- MOVE_KV_OUT (R270). -/
def execMoveKvOut (die entry : Nat) (s : State) : Host.Outcome State Fault Refusal :=
  s.onDev (fun d => d.moveBegin die entry 4 (fun e m d => d.kvRun die entry e m true))

/-- MOVE_NVME_RD: the commands of the entry are issued one by one (R448). -/
def execMoveNvmeRd (die entry : Nat) (s : State) : Host.Outcome State Fault Refusal := s.onDev (fun d => d.moveBegin die entry 5 (fun _ _ d => d))

/-- MOVE_NVME_WR. -/
def execMoveNvmeWr (die entry : Nat) (s : State) : Host.Outcome State Fault Refusal := s.onDev (fun d => d.moveBegin die entry 6 (fun _ _ d => d))

/-- MOVE_ENTRY_DONE (R252 to R254): an entry in progress that has failed, or whose bytes have all landed, ends at a time of the tick. -/
def execMoveEntryDone (die entry atNs : Nat) (s : State) : Host.Outcome State Fault Refusal :=
  s.onDev (fun d =>
    let m := d.moveRun die entry
    match d.moveList[entry]? with
    | none => d
    | some e =>
      if m.state ≠ 1 ∨ d.tailGuard ≤ max d.elapsed atNs then d
      else
        let d := d.toTime atNs
        if m.fail ≠ 0 then d.moveCut die entry e m.fail
        else if m.whole && !d.awaits (.mover die entry) then
          d.moveEnd die entry e m (if d.elapsed ≤ e.deadlineNs then 0 else 1)
        else d)

/-- MOVE_TAIL_ABORT (R253): what has not ended is aborted; what has failed ends with its failure (R254). -/
def execMoveTailAbort (die : Nat) (s : State) : Host.Outcome State Fault Refusal :=
  s.onDev (fun d =>
    if d.rd 0 Reg.TICK_STATUS.DISPATCHING ≠ 1 ∨ !d.stewardDies.contains die ∨ d.dieFailed die then d
    else
      let d := d.toTime d.tailGuard
      (d.moveList.zipIdx.filter (fun p => p.1.execDie = die)).foldl (fun d p =>
        let m := d.moveRun die p.2
        if m.state = 2 then d
        else d.moveCut die p.2 p.1 (if m.fail ≠ 0 then m.fail else 2)) d)

/-- Requester of NVMe placement on a port (R348 UNIT 36). -/
def Dev.nvmeXq (d : Dev) (port part : Nat) : Xq := { mmu := mmuSio, part := part, unit := 36, req := port, die := d.sioDie }

/-- Two lists of target pieces share a byte. -/
def piecesMeet (a b : List (Nat × Nat)) : Bool := a.any (fun x => b.any (fun y => x.1 < y.1 + y.2 && y.1 < x.1 + x.2))

/-- The die of a root port (R245). -/
def portDie (port : Nat) : Nat := if port < 4 then 0 else 1

/-- NVME_COMMAND_ISSUE (R448, R449, R337): the next command of an NVMe entry, in LBA order, of at most 1 MiB. -/
def execNvmeCommandIssue (port entry : Nat) (write : Bool) (lba bytes dva : Nat) (s : State) : Host.Outcome State Fault Refusal :=
  s.onDev (fun d =>
    let die := portDie port
    let m := d.moveRun die entry
    match d.moveList[entry]? with
    | none => d
    | some e =>
      let v := d.nvPort port
      let first := if write then e.dst else e.src
      let addr := if write then e.src else e.dst
      let fits : Bool := decide (bytes = min 0x100000 (e.amount - m.issued)) && decide (lba = first + m.issued / 4096) && decide (dva = addr + m.issued)
      if m.state ≠ 1 ∨ m.fail ≠ 0 ∨ e.port ≠ port ∨ e.kind ≠ (if write then 6 else 5) ∨ bytes = 0 ∨ !fits
          ∨ d.rd d.sioDie (Reg.SIO_NVME_STATUS.STATE.at 8 port) ≠ 1 then d
      else
        let x := d.nvmeXq port e.partition
        match d.translateRange x dva bytes (if write then axRead else axWrite) with
        | (.error _, d) => d.moveFail die entry 4
        | (.ok ps, d) =>
          if !write ∧ v.cmds.any (fun c => c.orphan && !c.write && piecesMeet c.targets ps) then d
          else
            let (data, f, d) := if write then d.readTargets (x.rq false true) ps else ([], 0, d)
            if f = moveHeld then d
            else if f ≠ 0 then d.moveFail die entry f
            else
              let mine := d.tlb.filter (fun t => t.mmu = mmuSio && t.part = e.partition && t.dva < dva + bytes && dva < t.dva + 2 ^ t.size)
              let leaves := mine.map (fun t => (t.dva, 2 ^ t.size))
              let c : NvmeCmd := { leaves := leaves, cid := v.nextCid, die := die, entry := entry, write := write, lba := lba, bytes := bytes, part := e.partition, targets := ps }
              let d := d.setNvPort port { v with cmds := v.cmds ++ [c], nextCid := (v.nextCid + 1) % 65536 }
              (d.setMove die entry { d.moveRun die entry with issued := m.issued + bytes }).emit (.nvme port v.nextCid e.nsid write lba bytes (plain data)))

/-- Removes a command of a port. -/
def Dev.dropCmd (d : Dev) (port cid : Nat) : Dev :=
  let v := d.nvPort port
  d.setNvPort port { v with cmds := v.cmds.filter (fun c => c.cid ≠ cid) }

/-- Lands the data of a read at its targets (R448), for its entry while that runs. -/
def Dev.landNvme (d : Dev) (q : Rq) (c : NvmeCmd) (ext : Ext) : CopyRun × Dev :=
  d.putPieces (.mover c.die (if c.orphan then 65535 else c.entry)) q {} c.targets (marked ext.poison (fitTo c.bytes ext.bytes))

/-- NVME_COMMAND_COMPLETE (R448, R449, R460). Data for a line whose recall a core defers wait until the core yields it (R310). -/
def execNvmeCommandComplete (port cid : Nat) (ok : Bool) (ext : Ext) (s : State) : Host.Outcome State Fault Refusal :=
  s.onDev (fun d =>
    match (d.nvPort port).cmds.find? (fun c => c.cid = cid) with
    | none => d
    | some c =>
      if ok && !c.write && c.targets.any (fun t => d.deferredAt (fun _ => false) t.1 t.2) then d
      else
      let d := d.dropCmd port cid
      let q := (d.nvmeXq port c.part).rq false true
      let (run, d) := if ok ∧ !c.write then d.landNvme q c ext else (({} : CopyRun), d)
      let d := if ok then d else d.inc d.sioDie (Reg.SIO_NVME_STATUS.ERRORS.at 8 port) 1
      if c.orphan then d
      else if !ok then d.moveFail c.die c.entry 3
      else if run.fail ≠ 0 then d.moveFail c.die c.entry run.fail
      else
        let m := d.moveRun c.die c.entry
        let total := (d.moveList[c.entry]?.map (·.amount)).getD 0
        d.setMove c.die c.entry { m with done := m.done + c.bytes - run.lost, pos := m.pos + c.bytes, whole := decide (m.pos + c.bytes = total) })

/-- NVME_ABORT_TIMEOUT (R449): the command is aborted and its entry ends with ERROR. -/
def execNvmeAbortTimeout (port cid : Nat) (s : State) : Host.Outcome State Fault Refusal :=
  s.onDev (fun d =>
    let v := d.nvPort port
    match v.cmds.find? (fun c => c.cid = cid) with
    | none => d
    | some c =>
      if c.aborted then d
      else
        let d := d.setNvPort port { v with cmds := v.cmds.map (fun y => if y.cid = cid then { y with aborted := true } else y) }
        let d := (d.inc d.sioDie (Reg.SIO_NVME_STATUS.ABORTS.at 8 port) 1).emit (.nvmeAbort port cid)
        if c.orphan then d else d.moveFail c.die c.entry 3)

/-- NVME_CONTROLLER_RESET (R449, R460, R474): the commands of the port end, their entries with ERROR; the port is ready again or failed. -/
def execNvmeControllerReset (port : Nat) (recovered : Bool) (s : State) : Host.Outcome State Fault Refusal :=
  s.onDev (fun d =>
    let v := d.nvPort port
    if !v.cmds.any (fun c => c.aborted) then d
    else
      let d := v.cmds.foldl (fun d c => if c.orphan then d else d.moveFail c.die c.entry 3) d
      let d := ((d.setNvPort port { v with cmds := [] }).emit (.nvmeReset port)).raiseErr (portDie port) 14
      (d.wr d.sioDie (Reg.SIO_NVME_STATUS.STATE.at 8 port) (if recovered then 1 else 3)).aplic (portDie port) 9)

end Sys2Proof.Machine
end

