-- ==== Sys2Proof/Machine/League.lean ====
section
/-! DEFINITION. The league (R388, R389, R404 to R418, R558): route tables, epochs, plans, beacons, joins and losses. -/

namespace Sys2Proof.Machine

/-- Changes the league state. -/
def Dev.updLeague (d : Dev) (f : League → League) : Dev := { d with league := f d.league }

/-- What the manager holds of a package ID. -/
def Dev.pkgState (d : Dev) (id : Nat) : PkgState := KMap.get {} d.league.pkgs id

/-- Changes it. -/
def Dev.updPkg (d : Dev) (id : Nat) (f : PkgState → PkgState) : Dev := d.updLeague (fun l => { l with pkgs := KMap.upd {} l.pkgs id f })

/-- The plan in force (R423, R631). -/
def Dev.plan (d : Dev) : Nat := d.rd 0 Reg.RAS_PKG.PLAN

/-- Applies one entry of the route and epoch tables (R407, R415, R430): accesses under the old route are lost, and an entry for the own slot gives this
package its ID. -/
def Dev.applyRoute (d : Dev) (e : RouteEntry) : Dev :=
  let i := e.id % 64
  let f := fun (x : Fld) => x.at 8 i
  let same : Bool := e.valid && d.rd 0 (f Reg.LINK_ROUTE.VALID) = 1 && d.rd 0 (f Reg.LINK_ROUTE.EPOCH) = e.epoch && d.rd 0 (f Reg.LINK_ROUTE.SLOT) = e.slot
  let d := if same then d else d.loseOps (fun o => o.pkg = i)
  let d := (((d.wr 0 (f Reg.LINK_ROUTE.VALID) (b2n e.valid)).wr 0 (f Reg.LINK_ROUTE.SLICE) e.slice).wr 0 (f Reg.LINK_ROUTE.SLOT) e.slot).wr 0
    (f Reg.LINK_ROUTE.EPOCH) (if e.valid then e.epoch else 0)
  let own : Bool := e.valid && e.slot = d.rd 0 Reg.LINK_CFG.SLOT
  let d := if same then d else d.updLeague (fun l => { l with peerDown := KMap.set 0 l.peerDown i 0, cut := l.cut.filter (· ≠ i) })
  let d := if same ∧ !own then d else d.setPlanes i (if e.valid && !own then d.upPlanes else 0)
  if own then
    let d := if d.rd 0 Reg.LINK_CFG.ROLE = 3 ∧ i ≠ d.pkgId then d.wr 0 Reg.LINK_CFG.ROLE 2 else d
    (d.wr 0 Reg.LINK_CFG.PKG_ID i).wr 0 Reg.LINK_EPOCH.OWN e.epoch
  else d

/-- Takes the entries of an EPOCH_SET (R407): one that only invalidates takes effect at once, the others at their tick. -/
def Dev.takeEntries (d : Dev) (l : List RouteEntry) : Dev :=
  if l.all (fun e => !e.valid) then l.foldl (fun d e => d.applyRoute e) d
  else l.foldl (fun (d : Dev) (e : RouteEntry) =>
    if e.effective ≤ d.tick then d.applyRoute e else d.updLeague (fun g => { g with entries := g.entries ++ [e] })) d

/-- The manager changes the tables: to the switches and the packages, and its own copy (R407). -/
def Dev.sendEntries (d : Dev) (l : List RouteEntry) : Dev :=
  let d := d.wr 0 Reg.LINK_EPOCH.GEN (d.rd 0 Reg.LINK_EPOCH.GEN + 1)
  (d.emit (.epochSet (d.rd 0 Reg.LINK_EPOCH.GEN) l)).takeEntries l

/-- The slot entries of the topology with their slots. -/
def Dev.slots (d : Dev) : List (SlotEntry × Nat) := d.charter.topo.slots.zipIdx

/-- Bit set of the IDs that the charter gives to managers and workers (R388, R555). -/
def Dev.mainMask (d : Dev) : Nat := d.slots.foldl (fun n s => if s.1.role = 3 then n else n ||| 2 ^ s.1.id) 0

/-- Those of them that are in service in the slot the charter gives them (R414, R416). -/
def Dev.serviceMask (d : Dev) : Nat :=
  d.slots.foldl (fun n s =>
    let i := s.1.id
    if s.1.role ≠ 3 ∧ d.rd 0 (Reg.LINK_ROUTE.VALID.at 8 i) = 1 ∧ d.rd 0 (Reg.LINK_ROUTE.SLOT.at 8 i) = s.2 ∧ d.rd 0 (Reg.LINK_ROUTE.EPOCH.at 8 i) ≠ 0
      ∧ !bit (d.league.lost ||| d.rd 0 Reg.LINK_LOST.LOST) i then n ||| 2 ^ i else n) 0

/-- Bit set of the die numbers of the part. -/
def Dev.dieMask (d : Dev) : Nat := d.dies.foldl (fun n i => n + 2 ^ i) 0

/-- Bit set of the failed dies of a package, as far as this package knows (R613). -/
def Dev.failedOf (d : Dev) (id : Nat) : Nat := if id = d.pkgId then d.lostDies else KMap.get 0 d.league.failed id

/-- A spare that a plan has adopt an ID is in service, or has adopted it (R414, R555). -/
def Dev.adoptOk (d : Dev) (p : Plan) : Bool :=
  p.adopt.all (fun a => a.1 = 0xFF || (List.range 64).any (fun i =>
    d.rd 0 (Reg.LINK_ROUTE.VALID.at 8 i) = 1 && d.rd 0 (Reg.LINK_ROUTE.SLOT.at 8 i) = a.1 && d.rd 0 (Reg.LINK_ROUTE.EPOCH.at 8 i) ≠ 0
      && !bit (d.league.lost ||| d.rd 0 Reg.LINK_LOST.LOST) i))

/-- The plan for a set of IDs in service (R414, R555, R613): plan 0 for every non-spare ID with every die. -/
def Dev.pickPlan (d : Dev) (mask : Nat) : Option Nat :=
  match (List.range 64).filter (fun i => bit mask i && d.failedOf i ≠ 0) with
  | [] =>
    if mask = d.mainMask then some 0
    else (d.charter.plans.find? (fun p => p.dieId = 0xFF && p.pkgMask = mask && d.adoptOk p)).map (·.plan)
  | [i] =>
    (d.charter.plans.find? (fun p => p.dieId = i && p.dieMask = d.dieMask - (d.dieMask &&& d.failedOf i) && p.pkgMask = mask && d.adoptOk p)).map (·.plan)
  | _ => none

/-- The plan of a package in no league for its dies (R613). -/
def Dev.pickAlone (d : Dev) : Option Nat :=
  let failed := d.lostDies
  if failed = 0 then some 0
  else (d.charter.plans.find? (fun p => p.dieId = d.pkgId && p.dieMask = d.dieMask - (d.dieMask &&& failed))).map (·.plan)

/-- The next epoch of the manager (R406): none where the counter has passed 0xFFFF, which is held as 0. -/
def Dev.takeEpoch (d : Dev) : Option Nat × Dev :=
  let n := d.rd 0 Reg.LINK_EPOCH.NEXT
  if n = 0 then (none, d.wr 0 Reg.LINK_STATE.EXHAUSTED 1) else (some n, d.wr 0 Reg.LINK_EPOCH.NEXT (n + 1))

/-- The manager has the spares of a plan adopt their IDs at its tick (R414). -/
def Dev.adopt (d : Dev) (p : Plan) (at_ : Nat) : Dev :=
  p.adopt.foldl (fun (d : Dev) (a : Nat × Nat) =>
    let (slot, id) := a
    if slot = 0xFF ∨ d.rd 0 (Reg.LINK_ROUTE.SLOT.at 8 id) = slot ∧ d.rd 0 (Reg.LINK_ROUTE.VALID.at 8 id) = 1 then d
    else
      match (List.range 64).find? (fun i => d.rd 0 (Reg.LINK_ROUTE.VALID.at 8 i) = 1 && d.rd 0 (Reg.LINK_ROUTE.SLOT.at 8 i) = slot) with
      | none => d
      | some old =>
        match d.takeEpoch with
        | (none, d) => d
        | (some n, d) =>
          let st := d.pkgState old
          let d := (d.updPkg id (fun _ => { st with answered := true, missed := 0 })).updPkg old (fun _ => {})
          let d := d.updLeague (fun l => { l with lost := l.lost - (l.lost &&& 2 ^ id) })
          d.sendEntries [{ id := id, valid := true, slice := d.rd 0 (Reg.LINK_ROUTE.SLICE.at 8 old), slot := slot, epoch := n, effective := at_ },
            { id := old, valid := false, slice := 0, slot := slot, epoch := 0, effective := at_ }]) d

/-- The manager chooses the plan for the IDs in service, to be announced by the next beacon (R414, R416, R613); without one the league halts where
packages were lost. -/
def Dev.replan (d : Dev) (halts : Bool) : Dev :=
  let at_ := d.tick + 3
  match d.pickPlan d.serviceMask with
  | none => if halts then d.updLeague (fun l => { l with haltAt := some at_ }) else d
  | some p =>
    let pending := (d.league.change.map (·.1)).getD (if d.sealed then d.plan else d.league.sealPlan.getD d.plan)
    if p = pending then d
    else
      let d := d.updLeague (fun l => { l with change := some (p, at_) })
      match d.charter.plans.find? (fun q => q.plan = p) with
      | some q => d.adopt q at_
      | none => d

/-- Every slot that is no spare's has been granted an epoch (R558). -/
def Dev.allJoined (d : Dev) : Bool := d.slots.all (fun s => s.1.role = 3 || (d.pkgState s.1.id).joined)

/-- The manager refuses a JOIN: a grant of epoch 0, which is no epoch. -/
def Dev.refuseJoin (d : Dev) (plane : Nat) (e : SlotEntry) : Dev := d.emit (.joinGrant plane { epoch := 0, id := e.id, role := e.role })

/-- JOIN at the manager (R394, R405, R406, R416, R558). -/
def Dev.takeJoin (d : Dev) (plane : Nat) (m : JoinReq) : Dev :=
  let die := plane / 4
  match d.charter.topo.slots[m.slot]? with
  | none => d.inc die Reg.LINK_DROP.SOURCE 1
  | some e =>
    if e.serial ≠ m.serial then d.inc die Reg.LINK_DROP.SOURCE 1
    else if d.rd 0 Reg.LINK_CFG.FW_STRICT = 1 ∧ m.fwVersion ≠ d.rd 0 Reg.BOOT_CHARTER.FW_VERSION then d.emit (.mgmt (.switchTable m.slot m.serial 0xFF))
    else if m.digest ≠ d.digest then d.refuseJoin plane e
    else
      match d.takeEpoch with
      | (none, d) => d.refuseJoin plane e
      | (some n, d) =>
        let coming := d.league.entries.find? (fun x => x.id = e.id && x.valid && x.slot ≠ m.slot)
        let holder := (coming.map (·.slot)).getD (d.rd 0 (Reg.LINK_ROUTE.SLOT.at 8 e.id))
        let taken : Bool := coming.isSome || (d.rd 0 (Reg.LINK_ROUTE.VALID.at 8 e.id) = 1 && holder ≠ m.slot)
        let id := if taken then (d.charter.topo.slots.getD holder {}).id else e.id
        let role := if taken then 3 else e.role
        let d := d.updPkg id (fun _ => { joined := true, allowance := d.rd 0 Reg.PWR_CTRL.OPP_MIN })
        let d := d.updLeague (fun l => { l with lost := l.lost - (l.lost &&& 2 ^ id) })
        let d := d.wr 0 Reg.LINK_LOST.LOST (d.rd 0 Reg.LINK_LOST.LOST - (d.rd 0 Reg.LINK_LOST.LOST &&& 2 ^ id))
        let d := d.emit (.joinGrant plane { epoch := n, id := id, role := role })
        let d := d.sendEntries [{ id := id, valid := true, slice := e.slice, slot := m.slot, epoch := n, effective := (coming.map (·.effective)).getD d.tick }]
        if d.sealed || d.league.sealPlan.isSome then d.replan false else d

/-- Asks the manager to join (R416, R558). -/
def Dev.sendJoin (d : Dev) : Dev :=
  let m : JoinReq :=
    { slot := d.rd 0 Reg.LINK_CFG.SLOT, serial := d.ownSlot.serial, oldEpoch := d.rd 0 Reg.LINK_EPOCH.OWN, digest := d.digest,
      fwVersion := d.rd 0 Reg.BOOT_CHARTER.FW_VERSION }
  (d.updLeague (fun l => { l with joining := true })).emit (.join m)

/-- JOIN_GRANT at a package (R399, R416, R421, R422). -/
def Dev.takeGrant (d : Dev) (m : JoinGrantMsg) : Dev :=
  let d := d.updLeague (fun l => { l with joining := false })
  if m.epoch = 0 then d.wr 0 Reg.LINK_STATE.LEAGUE 4
  else (((d.wr 0 Reg.LINK_EPOCH.OWN m.epoch).wr 0 Reg.LINK_CFG.PKG_ID m.id).wr 0 Reg.LINK_CFG.ROLE m.role).wr 0 Reg.LINK_STATE.LEAGUE 2

/-- The point that the package may run at most (R410, R578): held by the power controller. -/
def Dev.allowance (d : Dev) : Nat := d.power.allowance

/-- A beacon's contents at a worker or spare (R408, R409, R411, R415, R416, R558). -/
def Dev.beaconContents (d : Dev) (m : BeaconMsg) : Dev :=
  let d := (d.wr 0 Reg.LINK_STATE.BEACON_TICK_LO (m.tick % 65536)).wr 0 Reg.LINK_STATE.MISSED 0
  let d := d.updLeague (fun l => { l with seen := true })
  if m.tick = 2 ^ 64 - 1 then d.updLeague (fun l => { l with sealPlan := some m.plan })
  else if m.tick = 2 ^ 64 - 2 then d
  else if !d.sealed then
    d.updLeague (fun l => if d.rd 0 Reg.LINK_STATE.LEAGUE = 2 ∧ l.sealPlan.isNone then { l with sealPlan := some m.plan } else l)
  else
    let new := m.lost - (m.lost &&& d.rd 0 Reg.LINK_LOST.LOST)
    let d := ((d.wr 0 Reg.TICK_COUNT.COUNT m.tick).wr 0 Reg.PWR_STATUS.OPP_NEXT m.oppNext).wr 0 Reg.LINK_LOST.LOST m.lost
    let d := d.loseOps (fun o => bit new o.pkg)
    let d := d.updLeague (fun l => { l with oppNext2 := m.oppNext2 })
    let now := d.plan
    let d := if m.planNext ≠ now ∧ d.league.change.map (·.1) ≠ some m.planNext then
        d.updLeague (fun l => { l with change := some (m.planNext, m.tick + 2) })
      else d
    let d := d.wr 0 Reg.LINK_STATE.PLAN_NEXT m.planNext
    let d := if new ≠ 0 ∧ m.planNext = m.plan ∧ (d.pickPlan d.serviceMask).isNone then d.updLeague (fun l => { l with haltAt := some (m.tick + 2) }) else d
    if d.rd 0 Reg.LINK_STATE.LEAGUE = 3 ∧ !d.halted then (d.wr 0 Reg.LINK_STATE.LEAGUE 1).sendJoin else d

/-- BEACON (R409, R410): its time counts on the lowest plane that is UP; it is answered, unless dispatch is halted (R614). -/
def Dev.takeBeacon (d : Dev) (plane : Nat) (offsetNs : Int) (m : BeaconMsg) : Dev :=
  let first : Bool := decide ((planeList d.upPlanes).head? = some plane)
  let phase := offsetNs - (d.portRd plane Reg.LINK_PORT_STATUS.RTT_NS / 2 : Nat)
  let d := if first then d.updLeague (fun l => { l with phase := if -2000 ≤ phase ∧ phase ≤ 2000 then some phase else none }) else d
  let d := d.beaconContents m
  if d.halted then d
  else d.emit (.beaconAck plane { pkg := d.pkgId, tick := d.tick, league := d.rd 0 Reg.LINK_STATE.LEAGUE, epoch := d.rd 0 Reg.LINK_EPOCH.OWN, allowance := d.allowance })

/-- The manager's count of unanswered beacons (R423). -/
def Dev.showMissed (d : Dev) : Dev := d.wr 0 Reg.LINK_STATE.MISSED (min 255 (d.league.pkgs.foldl (fun n e => max n e.2.missed) 0))

/-- BEACON_ACK at the manager (R405, R410). -/
def Dev.takeAckOf (d : Dev) (plane : Nat) (m : BeaconAckMsg) : Dev :=
  if d.rd 0 (Reg.LINK_ROUTE.VALID.at 8 m.pkg) = 0 then d.inc (plane / 4) Reg.LINK_DROP.SOURCE 1
  else if m.epoch ≠ d.rd 0 (Reg.LINK_ROUTE.EPOCH.at 8 m.pkg) then d.inc (plane / 4) Reg.LINK_DROP.STALE_EPOCH 1
  else (d.updPkg m.pkg (fun s => { s with answered := true, missed := 0, allowance := m.allowance % 8 })).showMissed

/-- No answer has come by 1 ms (R414). -/
def Dev.unanswered (d : Dev) (pkg : Nat) : Dev :=
  let s := d.pkgState pkg
  if !s.joined ∨ s.answered ∨ s.counted then d
  else ((d.toTime 1000000).updPkg pkg (fun s => { s with counted := true, missed := s.missed + 1 })).showMissed

/-- The manager declares a package lost (R414). -/
def Dev.packageLost (d : Dev) (pkg : Nat) : Dev :=
  let s := d.pkgState pkg
  if !s.joined ∨ s.missed < 2 then d
  else
    let d := d.updPkg pkg (fun _ => {})
    let d := d.updLeague (fun l => { l with lost := l.lost ||| 2 ^ pkg })
    let d := d.sendEntries [{ id := pkg, valid := false, slice := 0, slot := d.rd 0 (Reg.LINK_ROUTE.SLOT.at 8 pkg), epoch := 0, effective := d.tick }]
    (d.showMissed.linkEvent).replan true

/-- MGMT (R389, R399, R516, R613). -/
def Dev.takeMgmt (d : Dev) (m : MgmtMsg) : Dev :=
  match m with
  | .routeWrite e => if d.isManager then d else d.takeEntries [e]
  | .switchTable .. => d
  | .relayRequest src die offset =>
    if d.isManager then d
    else
      let (v, d) := d.viewAsk { unit := 40, req := src, part := 0 } die offset
      d.emit (.mgmt (.relayAnswer (v.getD 0)))
  | .relayAnswer v =>
    if d.isManager ∧ d.rd 0 Reg.HIF_RELAY_CMD.GO_BUSY = 1 then
      ((d.wr 0 Reg.HIF_RELAY_CMD.GO_BUSY 0).wr 0 Reg.HIF_RELAY_CMD.RESULT 0).wr 0 Reg.HIF_RELAY_DATA.VALUE v
    else d
  | .dieFailed pkg mask =>
    if d.isManager then (d.updLeague (fun l => { l with failed := KMap.set 0 l.failed pkg mask })).replan false else d

/-- The beacon that the manager sends at a boundary (R408, R558). -/
def Dev.sendBeacon (d : Dev) (tick plan oppNext2 : Nat) : Dev :=
  let next := if tick < 2 ^ 64 - 2 then (d.league.change.map (·.1)).getD plan else plan
  let d := (((d.wr 0 Reg.LINK_STATE.BEACON_TICK_LO (tick % 65536)).wr 0 Reg.LINK_STATE.PLAN_NEXT next).wr 0 Reg.LINK_LOST.LOST d.league.lost)
  let d := d.updLeague (fun l => { l with pkgs := KMap.mapV {} (fun _ p => { p with answered := false, counted := false }) l.pkgs })
  let m : BeaconMsg :=
    { tick := tick, oppNext := d.rd 0 Reg.PWR_STATUS.OPP_NEXT, plan := plan, planNext := next, oppNext2 := oppNext2,
      epochGen := d.rd 0 Reg.LINK_EPOCH.GEN, lost := d.league.lost }
  d.emit (.beacon m)

end Sys2Proof.Machine
end

