-- ==== Sys2Proof/Machine/TickGen.lean ====
section
/-! DEFINITION. The tick generator (R37 to R43): sources, locking, holdover and phase correction. -/

namespace Sys2Proof.Machine

/-- The states of R39. -/
def tsStopped : Nat := 0
def tsAcquiring : Nat := 1
def tsLocked : Nat := 2
def tsHoldover : Nat := 3
def tsFreerun : Nat := 4

/-- The sources of R37. -/
def srcInternal : Nat := 1
def srcTickIn : Nat := 2
def srcPps : Nat := 3
def srcPtp : Nat := 4
def srcBeacon : Nat := 5

/-- State of the generator. -/
def Dev.tickState (d : Dev) : Nat := d.rd 0 Reg.TICK_STATUS.STATE

/-- TICK_PERIOD in µs. -/
def Dev.period (d : Dev) : Nat := d.rd 0 Reg.TICK_PERIOD.PERIOD

/-- Changes the generator. -/
def Dev.updGen (d : Dev) (f : TickGen → TickGen) : Dev := { d with gen := f d.gen }

/-- The coming boundary falls on a PPS edge (R37). -/
def Dev.ppsDue (d : Dev) : Bool := d.period ≠ 0 && (d.gen.marks + 1) % (1000000 / d.period) = 0

/-- What a source gives for the boundary that is marked now: not expected, missing, or its phase error in ns (R39). -/
inductive SrcEvent where
  | unexpected
  | missing
  | err (ns : Int)
  deriving DecidableEq, Repr

/-- An event by its phase error. -/
def srcEvent (e : Option Int) : SrcEvent :=
  match e with
  | some n => .err n
  | none => .missing

/-- The event of a source; `ptp` is the phase error that the PTP unit measures. -/
def Dev.sourceEvent (d : Dev) (src : Nat) (ptpValid : Bool) (ptp : Option Int) : SrcEvent :=
  if src = srcInternal then .err 0
  else if src = srcTickIn then srcEvent d.gen.tickIn
  else if src = srcPps then (if d.ppsDue then srcEvent d.gen.pps else .unexpected)
  else if src = srcPtp then srcEvent (if ptpValid then ptp else none)
  else if src = srcBeacon then srcEvent d.league.phase
  else .unexpected

/-- Ticks in a row in which a source's phase error stayed within ±1 µs (R39). A tick without an expected event keeps the last error. -/
def lockRun (n : Nat) (e : SrcEvent) : Nat :=
  match e with
  | .unexpected => if n = 0 then 0 else n + 1
  | .missing => 0
  | .err i => if -1000 ≤ i ∧ i ≤ 1000 then n + 1 else 0

/-- Enters a state with an active source; the counts of loss start anew (R39, R40, R70), and so does what was measured where the source is another. A change
of state counts for the tick-overrun event (R67). -/
def Dev.tickEnter (d : Dev) (state src : Nat) (alt : Bool) : Dev :=
  let changed : Bool := d.tickState ≠ state
  let same : Bool := d.rd 0 Reg.TICK_STATUS.ACTIVE_SRC = src
  let d := (((d.wr 0 Reg.TICK_STATUS.STATE state).wr 0 Reg.TICK_STATUS.ACTIVE_SRC src).wr 0 Reg.TICK_STATUS.ALT_ACTIVE (b2n alt)).wr 0
    Reg.TICK_STATUS.NO_REF (b2n (state = tsFreerun))
  d.updGen (fun g => { g with missRun := 0, farRun := 0, srcEvent := g.srcEvent || changed,
                              left := if same then g.left else 0, seen := if same then g.seen else none, measured := if same then g.measured else none })

/-- The generator leaves its state where a source meets the lock condition: the primary before the alternate (R39, R40). -/
def Dev.tickLock (d : Dev) : Dev :=
  let pri := d.rd 0 Reg.TICK_CTRL.SRC_PRI
  let alt := d.rd 0 Reg.TICK_CTRL.SRC_ALT
  let st := d.tickState
  if 16 ≤ d.gen.priRun ∧ (st ≠ tsLocked ∨ d.rd 0 Reg.TICK_STATUS.ALT_ACTIVE = 1) then d.tickEnter tsLocked pri false
  else if 16 ≤ d.gen.altRun ∧ st ≠ tsLocked then d.tickEnter tsLocked alt true
  else d

/-- The active source is lost while LOCKED: 3 events missing in a row, or beyond ±100 µs for 10 ticks (R39). -/
def Dev.tickLoss (d : Dev) : Dev :=
  if d.tickState = tsLocked ∧ (3 ≤ d.gen.missRun ∨ 10 ≤ d.gen.farRun) then
    (d.wr 0 Reg.TICK_STATUS.SRC_LOST 1).tickEnter tsHoldover (d.rd 0 Reg.TICK_STATUS.ACTIVE_SRC) (d.rd 0 Reg.TICK_STATUS.ALT_ACTIVE = 1)
  else d

/-- Clamps a correction to ±500 ns, none within ±50 ns (R41). -/
def slewOf (e : Int) : Int := if -50 ≤ e ∧ e ≤ 50 then 0 else if 500 < e then 500 else if e < -500 then -500 else e

/-- The length of the tick that runs, in ns (R37, R40, R41). -/
def Dev.tickLength (d : Dev) : Nat := (((d.period * 1000 : Nat) : Int) + d.gen.adj).toNat

/-- What an event of the active source measures (R40): the source's interval since its last event is the local one and the change of the phase error. -/
def TickGen.measure (g : TickGen) (length : Nat) (e : SrcEvent) : TickGen :=
  let since := g.seen.map (fun s => (s.1, s.2.1 + length, s.2.2 + 1))
  match e with
  | .err n => { g with seen := some (n, 0, 0), left := n, measured := match since with
      | some (e0, ns, ticks) => some (ns + n - e0, ticks)
      | none => g.measured }
  | _ => { g with seen := since }

/-- The correction of the tick that begins: a step while ACQUIRING, a slew while LOCKED for as long as an error is left (R41), the measured period in
HOLDOVER (R40), none in FREERUN. -/
def Dev.correct (d : Dev) (stepBy : Int) : Dev :=
  let st := d.tickState
  d.updGen (fun g =>
    if st = tsAcquiring then { g with adj := stepBy, left := 0 }
    else if st = tsLocked then { g with adj := slewOf g.left, left := g.left - slewOf g.left }
    else if st = tsHoldover then
      { g with left := 0, adj := match g.measured with
          | some (ns, n) => ns / n - ((d.period * 1000 : Nat) : Int)
          | none => 0 }
    else { g with adj := 0, left := 0 })

/-- The generator at a boundary: events, missing events (R43), loss and lock, and the correction of the next tick (R40, R41). A tick in which no event came
leaves the run of ticks beyond ±100 µs as it is (DESIGN CHOICE, assumption 79), and the active source's missing events alone are counted in SRC_MISS
(DESIGN CHOICE, assumption 79). -/
def Dev.generatorBoundary (d : Dev) (o : BoundaryObs) : Dev :=
  let length := d.tickLength
  let pri := d.rd 0 Reg.TICK_CTRL.SRC_PRI
  let alt := d.rd 0 Reg.TICK_CTRL.SRC_ALT
  let ep := d.sourceEvent pri o.ptpValid o.priErr
  let ea := d.sourceEvent alt o.ptpValid o.altErr
  let act := if d.rd 0 Reg.TICK_STATUS.ALT_ACTIVE = 1 then ea else ep
  let free : Bool := d.tickState = tsFreerun
  let far : Bool := match act with
    | .err e => e < -100000 || 100000 < e
    | _ => false
  let d := d.updGen (fun g =>
    { (if free then g else g.measure length act) with
      priRun := lockRun g.priRun ep, altRun := lockRun g.altRun ea, tickIn := none, pps := none,
      marks := g.marks + 1,
      missRun := match act with
        | .missing => g.missRun + 1
        | .unexpected => g.missRun
        | .err _ => 0
      farRun := match act with
        | .err _ => if far then g.farRun + 1 else 0
        | _ => g.farRun })
  let d := d.updLeague (fun l => { l with phase := none })
  let d := if free then d.wr 0 Reg.TICK_TIME.PHASE_ERR 0
    else match act with
      | .err e => d.wr 0 Reg.TICK_TIME.PHASE_ERR (ofSigned 32 e)
      | .missing => (d.inc 0 Reg.TICK_OVERRUN_CNT.SRC_MISS 1).updGen (fun g => { g with srcEvent := true })
      | .unexpected => d
  d.tickLoss.tickLock.correct (match act with
    | .err e => e
    | _ => 0)

/-- Boot loads the period and the sources (R39, R42): with INTERNAL as primary the generator locks at once. -/
def Dev.tickAcquire (d : Dev) : Dev :=
  let pri := d.rd 0 Reg.TICK_CTRL.SRC_PRI
  let d := { d with gen := {} }.tickEnter (if pri = srcInternal then tsLocked else tsAcquiring) pri false
  { d with timeNs := d.timeNs + d.elapsed, elapsed := 0 }

/-- An edge of a timing input, by its offset from the predicted boundary (R43): within ±2 µs it counts; while ACQUIRING the generator steps its
phase to meet its primary source (R41). -/
def Dev.timingEdge (d : Dev) (src : Nat) (offset : Int) : Option Int × Dev :=
  if d.tickState = tsAcquiring ∧ d.rd 0 Reg.TICK_CTRL.SRC_PRI = src then (some 0, d.updGen (fun g => { g with adj := g.adj + offset }))
  else if d.tickState ≠ tsStopped ∧ -2000 ≤ offset ∧ offset ≤ 2000 then (some offset, d)
  else (none, d)

/-- A PPS edge that counts: the boundary it belongs to is one that falls on PPS edges, whichever boundaries were placed there before (R37). -/
def Dev.ppsAccept (d : Dev) (offset : Int) : Dev := d.updGen (fun g => { g with pps := some offset, marks := 1000000 / d.period - 1 })

end Sys2Proof.Machine
end

