-- ==== Sys2Proof/Machine/PowerOps.lean ====
section
/-! DEFINITION. The power controller (R574 to R597, R640, R641): the cap rule, thermal ceilings, the points of the coming ticks, voltages and energy. -/

namespace Sys2Proof.Machine

/-- Changes the power controller. -/
def Dev.updPower (d : Dev) (f : Power → Power) : Dev := { d with power := f d.power }

/-- Perch clock of a point in units of 100 MHz (R1, R584). -/
def oppClock (x : Nat) : Nat := 9 + x

/-- Voltage of a point of a die, mV (R574, R593). -/
def Dev.oppMv (d : Dev) (die x : Nat) : Nat := 500 + 2 * bits (d.rd die Reg.PWR_VTABLE.VCODE) (8 * x) 8

/-- PWR_IDLE of a die at a point, W (R594). -/
def Dev.idleW (d : Dev) (die x : Nat) : Nat := bits (d.rd die Reg.PWR_IDLE.IDLE_W) (8 * x) 8

/-- The compute dies that are present. -/
def Dev.liveCompute (d : Dev) : List Nat := d.computeDies.filter (fun die => d.placed die && !d.dieFailed die)

/-- Predicted package power at a point from the measurements of a tick at point `o` (R577). -/
def Dev.predicted (d : Dev) (o : Nat) (obs : BoundaryObs) (x : Nat) : Rat :=
  d.liveCompute.foldl (fun (p : Rat) die =>
    let r : Rat := ((oppClock x * d.oppMv die x * d.oppMv die x : Nat) : Rat) / ((oppClock o * d.oppMv die o * d.oppMv die o : Nat) : Rat)
    let idle : Rat := d.idleW die o
    p + ((d.idleW die x : Rat) - idle) + ((obs.railW.getD (die - 2) 0 : Rat) - idle) * (r - 1)) (obs.powerW : Rat)

/-- The cap choice C and whether the cap cannot be met (R577). -/
def Dev.capChoice (d : Dev) (obs : BoundaryObs) : Nat × Bool :=
  let o := d.opp
  let cap : Rat := d.rd 0 Reg.PWR_CTRL.CAP_W
  let lo := d.rd 0 Reg.PWR_CTRL.OPP_MIN
  let hi := d.rd 0 Reg.PWR_CTRL.OPP_MAX
  let pred := d.predicted o obs
  let c :=
    if cap < pred o then ((List.range o).reverse.find? (fun x => decide (pred x ≤ cap))).getD lo
    else if o < hi ∧ 100 * pred (o + 1) ≤ 97 * cap then o + 1
    else o
  let unmet : Bool := (List.range 8).all (fun x => x < lo || decide (cap < pred x))
  if unmet then (lo, true) else (max lo (min c hi), false)

/-- Effective temperature of stack `s` of a compute die (R580). -/
def effTemp (o : BoundaryObs) (die s : Nat) : Nat := max (o.stackTemp.getD ((die - 2) * 4 + s) 0) (o.underTemp.getD ((die - 2) * 4 + s) 0 - 8)

/-- Ticks of a window of 100 ms (R580). -/
def Dev.heatWindow (d : Dev) : Nat := ceilDiv 100000 (max 1 d.period)

/-- The ceiling, counts and stack marks of a compute die after a sample (R580). -/
def Dev.heatStep (d : Dev) (die : Nat) (o : BoundaryObs) : Nat × DieHeat :=
  let h := KMap.get {} d.power.heat die
  let ceil := d.rd die Reg.PWR_THERM.CEIL
  let eff := (List.range 4).map (effTemp o die)
  let t := o.dieTemp.getD die 0
  let w := d.heatWindow
  let marks := (List.range 4).foldl (fun n s =>
    if 85 ≤ eff.getD s 0 ∨ (bit h.hotStacks s ∧ 82 < eff.getD s 0) then n + 2 ^ s else n) 0
  let h := { h with hotStacks := marks }
  if eff.any (fun e => 95 ≤ e) ∨ 105 ≤ t then (0, { h with hot := 0, cool := 0 })
  else if eff.any (fun e => 85 ≤ e) ∨ 100 ≤ t then
    if h.hot = 0 then (min ceil (d.opp - 1), { h with hot := 1, cool := 0 })
    else (if (h.hot + 1) % w = 0 then ceil - 1 else ceil, { h with hot := h.hot + 1, cool := 0 })
  else if eff.all (fun e => e ≤ 82) ∧ t ≤ 97 then
    if w ≤ h.cool + 1 then (min 7 (ceil + 1), { h with hot := 0, cool := 0 }) else (ceil, { h with hot := 0, cool := h.cool + 1 })
  else (ceil, { h with hot := 0, cool := 0 })

/-- The temperature registers of a compute die (R203, R591, R592). -/
def Dev.showHeat (d : Dev) (die : Nat) (o : BoundaryObs) (ceil : Nat) (h : DieHeat) : Dev :=
  let e := fun (s : Nat) => effTemp o die s
  let hot := (List.range 4).foldl (fun n s => if 85 ≤ e s then n + 2 ^ s else n) 0
  let d := (((((d.wr die Reg.PWR_TEMP.DIE_MAX (o.dieTemp.getD die 0)).wr die Reg.PWR_TEMP.EFF0 (e 0)).wr die Reg.PWR_TEMP.EFF1 (e 1)).wr die
    Reg.PWR_TEMP.EFF2 (e 2)).wr die Reg.PWR_TEMP.EFF3 (e 3)).wr die Reg.PWR_THERM.STACK_HOT hot
  let t := fun (s : Nat) => o.stackTemp.getD ((die - 2) * 4 + s) 0
  let d := ((((d.wr die Reg.MEMC_STATUS.TEMP0 (t 0)).wr die Reg.MEMC_STATUS.TEMP1 (t 1)).wr die Reg.MEMC_STATUS.TEMP2 (t 2)).wr die
    Reg.MEMC_STATUS.TEMP3 (t 3)).wr die Reg.MEMC_STATUS.REFRESH_2X h.hotStacks
  d.wr die Reg.PWR_THERM.CEIL ceil

/-- Thermal ceilings and steward clocks at a boundary (R580, R592). CAPPED_TICKS counts ticks below ceiling 7. -/
def Dev.thermalBoundary (d : Dev) (o : BoundaryObs) : Dev :=
  let d := d.liveCompute.foldl (fun (d : Dev) die =>
    let old := d.rd die Reg.PWR_THERM.CEIL
    let d := if old < 7 then d.inc die Reg.PWR_THERM.CAPPED_TICKS 1 else d
    let (ceil, h) := d.heatStep die o
    let d := d.updPower (fun p => { p with heat := KMap.set {} p.heat die h, event := p.event || decide (ceil ≠ old) })
    d.showHeat die o ceil h) d
  d.stewardDies.foldl (fun (d : Dev) die =>
    let t := o.dieTemp.getD die 0
    let h := KMap.get {} d.power.heat die
    let half : Bool := d.rd die Reg.PWR_THERM.STEWARD_HALF = 1
    let cool := if t ≤ 97 then h.stewCool + 1 else 0
    let now : Bool := decide (100 ≤ t) || (half && decide (cool < d.heatWindow))
    let d := d.updPower (fun p => { p with heat := KMap.set {} p.heat die { h with stewCool := if now then cool else 0 }, event := p.event || now != half })
    (d.wr die Reg.PWR_TEMP.DIE_MAX t).wr die Reg.PWR_THERM.STEWARD_HALF (b2n now)) d

/-- The lowest thermal ceiling of any die. -/
def Dev.lowCeil (d : Dev) : Nat := d.liveCompute.foldl (fun n die => min n (d.rd die Reg.PWR_THERM.CEIL)) 7

/-- The controller's choice at a boundary (R577, R578, R583, R590): the allowance, and what limits it. -/
def Dev.choosePoint (d : Dev) (o : BoundaryObs) : Nat × Dev :=
  let (c, unmet) := d.capChoice o
  let ceil := d.lowCeil
  let a := min c ceil
  let lim := if ceil < c then 2 else if unmet then 4 else if c < d.rd 0 Reg.PWR_CTRL.OPP_MAX then 1 else 0
  let before := d.rd 0 Reg.PWR_STATUS.CAP_UNMET = 1
  let d := (((d.wr 0 Reg.PWR_STATUS.POWER_W o.powerW).wr 0 Reg.PWR_STATUS.CAP_CHOICE c).wr 0 Reg.PWR_STATUS.CEIL_THERM ceil).wr 0
    Reg.PWR_STATUS.CAP_UNMET (b2n unmet)
  let d := d.liveCompute.foldl (fun d die => d.wr die Reg.PWR_RAIL.RAIL_W (o.railW.getD (die - 2) 0)) d
  (lim, d.updPower (fun p => { p with allowance := a, event := p.event || (unmet && !before) }))

/-- The voltages for the points ahead (R574, R640): a die's rail takes the code of the highest of them; a rise waits for its confirmation. -/
def Dev.setRails (d : Dev) (points : List Nat) : Dev :=
  let x := points.foldl max 0
  (d.liveCompute.filter (fun die => !d.boot.stopped.contains die)).foldl (fun (d : Dev) die =>
    let code := bits (d.rd die Reg.PWR_VTABLE.VCODE) (8 * x) 8
    let old := d.rd die Reg.PWR_AVS.VCODE
    if code = old then d
    else
      let d := ((d.wr die Reg.PWR_AVS.VCODE code).wr die Reg.PWR_AVS.SETTLED 0).emit (.avs die code)
      d.updPower (fun p => { p with rising := p.rising.filter (· ≠ die) ++ (if old < code then [die] else []) })) d

/-- This package belongs to a league. -/
def Dev.inLeague (d : Dev) : Bool := d.rd 0 Reg.LINK_CFG.ROLE ≠ 0

/-- The lowest allowance that the manager holds of the packages in service, its own included (R578). -/
def Dev.leagueAllowance (d : Dev) (own : Nat) : Nat :=
  (d.slots.map (fun s => s.1.id)).foldl (fun n i => if i ≠ d.pkgId ∧ (d.pkgState i).joined then min n (d.pkgState i).allowance else n) own

/-- The points of the ticks ahead at a boundary (R65, R578, R579): `dispatching` where the tick that begins is one of dispatch. -/
def Dev.applyPoints (d : Dev) (own lim : Nat) (dispatching : Bool) : Dev :=
  let lo := d.rd 0 Reg.PWR_CTRL.OPP_MIN
  let set := fun (d : Dev) (cur next next2 limiter : Nat) =>
    (((d.wr 0 Reg.PWR_STATUS.OPP_CUR cur).wr 0 Reg.PWR_STATUS.OPP_NEXT next).wr 0 Reg.PWR_STATUS.LIMITER limiter).updLeague (fun l => { l with oppNext2 := next2 })
  let head := (d.power.limiters.head?).getD 5
  let d :=
    if !dispatching then (set d lo lo lo 5).updPower (fun p => { p with limiters := [], ramp := 0 })
    else if d.power.ramp = 0 ∧ !(d.inLeague ∧ !d.isManager ∧ !d.boot.fresh) then
      (set d lo lo lo 5).updPower (fun p => { p with ramp := 1, limiters := if d.inLeague then [5, 5, 5] else [5] })
    else if !d.inLeague then
      (set d (d.rd 0 Reg.PWR_STATUS.OPP_NEXT) d.power.allowance 0 head).updPower (fun p => { p with ramp := min 4 (p.ramp + 1), limiters := [lim] })
    else if d.isManager then
      let low := if d.power.ramp < 2 then lo else d.leagueAllowance own
      let why := if d.power.ramp < 2 then 5 else if low < own then 3 else lim
      (set d (d.rd 0 Reg.PWR_STATUS.OPP_NEXT) d.league.oppNext2 low head).updPower (fun p =>
        { p with ramp := min 4 (p.ramp + 1), limiters := p.limiters.drop 1 ++ [why] })
    else
      let cur := d.rd 0 Reg.PWR_STATUS.OPP_NEXT
      (set d cur d.league.oppNext2 d.league.oppNext2 (if d.power.ramp < 4 then 5 else if cur < own then 3 else lim)).updPower (fun p => { p with ramp := min 4 (p.ramp + 1) })
  d.setRails [d.rd 0 Reg.PWR_STATUS.OPP_CUR, d.rd 0 Reg.PWR_STATUS.OPP_NEXT, if d.inLeague then d.league.oppNext2 else 0]

/-- Adds to an energy counter, modulo 2^64. -/
def Dev.addEnergy (d : Dev) (f : Fld) (uj : Nat) : Dev := d.wr 0 f ((d.rd 0 f + uj) % 2 ^ 64)

/-- The queues that executed something in the tick that ends (R587): engine commands, or a RUN whose host span was dispatched in it. -/
def Dev.workedQueues (d : Dev) : List Nat :=
  d.runs.foldl (fun l r =>
    let ran : Bool := match d.groupEntry r.1 with
      | some e => (d.span e.spanId).dispatched && (d.span e.spanId).tick = d.tick
      | none => false
    match r.2.queue with
    | some q => if ran && !l.contains q then l ++ [q] else l
    | none => l) d.hif.worked

/-- The energy of a tick (R585 to R587): the spec gives no estimate, only that the shares add up, that a queue's energy is part of its partition's, and
that a queue that executed nothing receives nothing. The shares are free values. -/
def Dev.energyBoundary (d : Dev) (o : BoundaryObs) : Dev :=
  let d := d.addEnergy Reg.PWR_ENERGY_PKG.UJ o.energyUj
  let r := (List.range 16).foldl (fun (r : Nat × Dev) p =>
    if !bit (d.charter.parts.getD p {}).flags 0 then r
    else
      let (w, d) := r.2.free
      let e := w % (r.1 + 1)
      let d := d.addEnergy (Reg.PWR_PART_ENERGY.UJ.at 8 p) e
      let qs := d.workedQueues.filter (fun q => d.hqPart q = p)
      let t := qs.foldl (fun (t : Nat × Dev) q =>
        let (w, d) := t.2.free
        let x := w % (t.1 + 1)
        (t.1 - x, d.addEnergy (Reg.PWR_Q_ENERGY.UJ.at 8 q) x)) (e, d)
      (r.1 - e, t.2)) (o.energyUj, d)
  r.2.addEnergy Reg.PWR_ENERGY_UNATTR.UJ r.1

/-- The regulator of a die reports that it has settled (R640, R642). -/
def Dev.avsConfirm (d : Dev) (die : Nat) : Dev :=
  if d.dies.contains die then (d.wr die Reg.PWR_AVS.SETTLED 1).updPower (fun p => { p with rising := p.rising.filter (· ≠ die) }) else d

end Sys2Proof.Machine
end

