-- ==== Sys2Proof/Machine/TickOps.lean ====
section
/-! DEFINITION. What happens at a tick boundary (R44 to R47, R58 to R67, R263, R376, R408 to R415, R466, R476, R503, R583, R610 to R614). -/

namespace Sys2Proof.Machine

/-- Classes that raise the error event whatever EVENT_EN holds (R609). -/
def errAlways : Nat := 2 ^ 3 + 2 ^ 5 + 2 ^ 12 + 2 ^ 13 + 2 ^ 16

/-- The error event at the end of a tick (R610): while dispatch is halted, for the HALTED class alone. -/
def Dev.errorEvent (d : Dev) : Dev :=
  let on := if d.halted then 2 ^ 13 else d.charter.ras.eventEn ||| errAlways
  let due := d.errNew.any (fun e => e.2 &&& on ≠ 0)
  let dies := d.stewardDies.filter (fun die => KMap.get 0 d.errNew die ≠ 0)
  let d := if due then dies.foldl (fun d die => d.aplic die 1) (d.raiseEvent 0) else d
  { d with errNew := [] }

/-- The thermal event (R583). -/
def Dev.thermalEvent (d : Dev) : Dev :=
  let d := if d.power.event then d.stewardDies.foldl (fun d die => d.aplic die 2) (d.raiseEvent 1) else d
  d.updPower (fun p => { p with event := false })

/-- The tick-overrun event (R67). -/
def Dev.overrunEvent (d : Dev) : Dev :=
  let src : Bool := d.gen.srcEvent && d.rd 0 Reg.TICK_IRQ.SRC_EN = 1
  let d := if d.overrunDue || src then (d.raiseEvent 3).aplic 0 4 else d
  ({ d with overrunDue := false }).updGen (fun g => { g with srcEvent := false })

/-- The health event (R611). -/
def Dev.healthEvent (d : Dev) : Dev := if d.healthDue then { d.raiseEvent 4 with healthDue := false } else d

/-- JOURNAL_FULL calls for the health event where it became set in the tick (R611). -/
def Dev.journalFull (d : Dev) : Dev := { d with healthDue := d.healthDue || d.errNew.any (fun e => bit e.2 16) }

/-- The events at the end of a tick of a sealed device. What a boundary before seal latches waits for the first boundary after it (DESIGN CHOICE, assumption 83).
-/
def Dev.tickEvents (d : Dev) : Dev := if d.sealed then d.journalFull.errorEvent.thermalEvent.overrunEvent.healthEvent else d

/-- Dispatch halts (R614). -/
def Dev.haltDispatch (d : Dev) (cause : Nat) : Dev :=
  if d.halted then d
  else (((d.wr 0 Reg.RAS_PKG.HALTED 1).wr 0 Reg.RAS_PKG.HALT_CAUSE cause).wr 0 Reg.TICK_STATUS.DISPATCHING 0).raiseErr 0 13

/-- The plan change after a die has been marked (R613, R614). -/
def Dev.planAfterMark (d : Dev) : Dev :=
  let failed := d.lostDies
  let left := d.dieMask - (d.dieMask &&& failed)
  if bit failed 1 ∧ !d.sh4 then d.haltDispatch 2
  else if !d.inLeague then
    match d.pickAlone with
    | some p => d.updLeague (fun l => { l with change := some (p, d.tick + 1) })
    | none => d.haltDispatch 1
  else if !d.charter.plans.any (fun p => p.dieId = d.pkgId && p.dieMask = left) then d.haltDispatch 1
  else if d.isManager then d.replan false
  else d.emit (.mgmt (.dieFailed d.pkgId failed))

/-- S0 marks a die failed (R612, R613). -/
def Dev.markFailed (d : Dev) (die : Nat) : Dev :=
  let d := ((d.wr 0 Reg.RAS_PKG.DIE_FAILED (d.rd 0 Reg.RAS_PKG.DIE_FAILED ||| 2 ^ die)).wr 0 Reg.RAS_PKG.FAIL_TICK_LO d.tick).raiseErr 0 12
  let mine := d.perches.filter (fun e => perchDie e.1 = die)
  let d := mine.foldl (fun d e => if e.2.pstate = 3 then d.report e.1 ocFault else d) d
  let d : Dev := { d with perches := KMap.dropIf (fun p => perchDie p = die) d.perches }
  let due := (d.spans.filter (fun e => e.2.recordDue)).map (·.1)
  (due.foldl (fun d s => d.statusRecord s) d).planAfterMark

/-- Acknowledgements over the side path (R612): the dies that are marked at this boundary. -/
def Dev.sidePath (d : Dev) (acks : List Nat) : Dev :=
  let watched := d.dies.filter (fun die => die ≠ 0 && d.placed die && !bit (d.rd 0 Reg.RAS_PKG.DIE_FAILED) die)
  let miss := fun (d : Dev) (die : Nat) => if acks.contains die && !d.boot.stopped.contains die then 0 else KMap.get 0 d.boot.noAck die + 1
  watched.foldl (fun (d : Dev) die =>
    let n := miss d die
    let d : Dev := { d with boot := { d.boot with noAck := KMap.set 0 d.boot.noAck die n } }
    if 2 ≤ n ∨ d.cutOff die then (if d.boot.stopped.contains die then d else d.stopDie die).markFailed die else d) d

/-- The epoch and route entries whose tick has come (R407). -/
def Dev.dueEntries (d : Dev) : Dev :=
  let due := d.league.entries.filter (fun e => e.effective ≤ d.tick)
  due.foldl (fun d e => d.applyRoute e) (d.updLeague (fun l => { l with entries := l.entries.filter (fun e => d.tick < e.effective) }))

/-- The perches that the schedule in force uses no more go OFF, those that can (R88). -/
def Dev.perchesOff (d : Dev) : Dev := (d.perches.map (·.1)).foldl (fun d p => d.perchOff p) d

/-- A plan takes effect (R415, R613, R631): every suspended continuation is discarded (R62), and runs end. -/
def Dev.takePlan (d : Dev) (p : Nat) : Dev :=
  let d := (d.wr 0 Reg.RAS_PKG.PLAN p).wr 0 Reg.LINK_STATE.PLAN p
  (d.conts.map (·.1)).foldl (fun d id => d.discardCont id) d

/-- A pending change of plan whose tick has come, and a halt for want of a plan (R408, R414, R415). -/
def Dev.duePlan (d : Dev) : Dev :=
  let d := match d.league.change with
    | some (p, t) => if t ≤ d.tick then (d.updLeague (fun l => { l with change := none })).takePlan p else d
    | none => d
  match d.league.haltAt with
  | some t => if t ≤ d.tick then (d.updLeague (fun l => { l with haltAt := none })).haltDispatch 3 else d
  | none => d

/-- A worker or spare that has missed two beacons in a row detaches (R411). -/
def Dev.detach (d : Dev) : Dev :=
  let out : Bool := (d.rd 0 Reg.LINK_CFG.ROLE = 2 || d.rd 0 Reg.LINK_CFG.ROLE = 3) && d.rd 0 Reg.LINK_STATE.LEAGUE = 2 && 2 ≤ d.rd 0 Reg.LINK_STATE.MISSED
  let d := if out then d.wr 0 Reg.LINK_STATE.LEAGUE 3 else d
  d.updLeague (fun l => { l with seen := false, missCounted := false })

/-- S0 dispatches the patterns of the ticks that begin (R47, R411, R614): a spare runs nothing until it adopts an ID. -/
def Dev.mayDispatch (d : Dev) : Bool :=
  d.sealed && !d.halted && (!d.inLeague || (d.rd 0 Reg.LINK_STATE.LEAGUE = 2 && d.rd 0 Reg.LINK_CFG.ROLE ≠ 3))

/-- USED and HIT_LAST of every home (R263). -/
def Dev.budgetBoundary (d : Dev) : Dev :=
  let d := d.dies.foldl (fun d die => (List.range 16).foldl (fun (d : Dev) p =>
    let b := d.budget die p
    (d.wr die ((hitFld die).at 8 p) (b2n (b ≠ 0 && b * 4096 ≤ d.charged die p))).wr die ((usedFld die).at 8 p) 0) d) d
  { d with charge := [] }

/-- The TICK interrupt of every core that runs, and TWAIT (R466, R476). -/
def Dev.hartBoundary (d : Dev) : Dev :=
  (d.harts.map (·.1)).foldl (fun (d : Dev) h =>
    if d.hartAlive h then (d.updHart h (fun t => t.setC 0x344 (t.c 0x344 ||| 2 ^ 34))).twaitBoundary h else d) d

/-- The manager's beacon at a boundary (R408, R558): before seal its TICK tells that nothing runs yet, and the seal beacon names the plan. -/
def Dev.beaconBoundary (d : Dev) : Dev :=
  if !d.isManager ∨ d.halted then d
  else if d.sealed then d.sendBeacon d.tick d.plan d.league.oppNext2
  else if !d.boot.ready ∨ !d.boot.fresh ∨ d.league.sealPlan.isSome then d
  else if d.allJoined ∨ d.league.waited then
    match d.pickPlan d.serviceMask with
    | some p => (d.updLeague (fun l => { l with sealPlan := some p })).sendBeacon (2 ^ 64 - 1) p d.league.oppNext2
    | none => d.sendBeacon (2 ^ 64 - 2) 0 d.league.oppNext2
  else d.sendBeacon (2 ^ 64 - 2) 0 d.league.oppNext2

/-- What begins with a tick of a device that has been sealed (R47, R48, R263, R503, R514): TICK_COUNT already names the tick. -/
def Dev.tickWork (d : Dev) : Dev :=
  let d := d.dueEntries.detach.duePlan
  let go := d.mayDispatch
  let d := d.wr 0 Reg.TICK_STATUS.DISPATCHING (b2n go)
  let d := if go then
      let d := d.incMod 0 Reg.HIF_HEARTBEAT.COUNT 1
      let d := if d.boot.again then { d.wr 0 Reg.TICK_STATUS.GAP 1 with boot := { d.boot with again := false } } else d
      d.runGroups.foldl (fun d g => d.runHandover g) d
    else d
  d.dies.foldl (fun d die => d.wr die Reg.TICK_SCHED.PATTERN_CUR (d.tick % max 1 d.sched.patterns.length)) d

/-- TICK_COUNT at a boundary (R47): it stands until the first seal, whose next boundary begins tick 0. -/
def Dev.countTick (d : Dev) : Dev :=
  if !d.boot.fresh then d.wr 0 Reg.TICK_COUNT.COUNT ((d.tick + 1) % 2 ^ 64)
  else if !d.sealed then d
  else
    let p := (d.league.sealPlan).getD d.plan
    ({ d with boot := { d.boot with fresh := false } }.wr 0 Reg.RAS_PKG.PLAN p).wr 0 Reg.LINK_STATE.PLAN p

/-- Power at a boundary (R577 to R587): measurements of the tick that ended, and the points of the ticks that follow. -/
def Dev.powerBoundary (d : Dev) (o : BoundaryObs) : Dev :=
  let own := d.power.allowance
  let d := d.thermalBoundary o
  let (lim, d) := if d.sealed then d.choosePoint o else (5, d.updPower (fun p => { p with allowance := d.rd 0 Reg.PWR_CTRL.OPP_MIN }))
  (d.applyPoints own lim d.sealed).energyBoundary o

/-- The end of a tick: no span is in progress at the boundary (R63), and every due status record has been written (R51). -/
def Dev.endSpans (d : Dev) : Dev :=
  let d := (d.perches.map (·.1)).foldl (fun d p => if d.runs? p then d.spanEnds p else d) d
  ((d.spans.filter (fun e => e.2.recordDue)).map (·.1)).foldl (fun d s => d.statusRecord s) d

/-- A tick boundary. -/
def Dev.boundary (d : Dev) (o : BoundaryObs) : Dev :=
  let length := d.tickLength
  let d := d.endSpans.toTime length
  let d := d.generatorBoundary { o with ptpValid := o.ptpValid && d.sio.chosen.isSome && !d.sio.changed }
  let d := (d.powerBoundary o).tickEvents
  let d : Dev := { d with timeNs := d.timeNs + length, elapsed := 0, moves := [], overrunDue := false, spanStarts := [], lateIn := [],
                          hif := { d.hif with windows := [], worked := [] } }
  let began := d.sealed || !d.boot.fresh
  let d := (if began && d.sealed then d.collBoundary else d).countTick
  let d := d.emit (.boundary d.tick)
  let d := if began ∧ d.rd 0 Reg.TICK_CTRL.TICK_OUT_WIDTH ≠ 0 then d.emit (.tickOut (d.rd 0 Reg.TICK_CTRL.TICK_OUT_WIDTH)) else d
  let d := if d.sealed then d.sidePath o.acks else d
  let d := d.budgetBoundary
  let d := if began && d.sealed then d.tickWork.perchesOff else d
  let d := d.releaseFree.dmaBoundary
  let d := if d.sealed then d.sioBoundary o.ptpValid else d
  d.beaconBoundary.hartBoundary

/-- TICK_BOUNDARY: the generator marks a boundary unless it is stopped (R39). -/
def execTickBoundary (o : BoundaryObs) (s : State) : Host.Outcome State Fault Refusal :=
  s.onDev (fun d => if d.tickState = tsStopped then d else d.boundary o)

/-- TICK_IN_PULSE (R43, R649): a pulse shorter than 100 ns is none. -/
def execTickInPulse (offsetNs : Int) (widthNs : Nat) (s : State) : Host.Outcome State Fault Refusal :=
  s.onDev (fun d =>
    if widthNs < 100 then d
    else
      let (e, d) := d.timingEdge srcTickIn offsetNs
      match e with
      | some n => d.updGen (fun g => { g with tickIn := some n })
      | none => d)

/-- PPS_EDGE (R37, R43). -/
def execPpsEdge (offsetNs : Int) (s : State) : Host.Outcome State Fault Refusal :=
  s.onDev (fun d =>
    let (e, d) := d.timingEdge srcPps offsetNs
    match e with
    | some n => d.ppsAccept n
    | none => d)

/-- HOLDOVER_EXPIRY (R40). -/
def execHoldoverExpiry (s : State) : Host.Outcome State Fault Refusal :=
  s.onDev (fun d => if d.tickState = tsHoldover then (d.tickEnter tsFreerun srcInternal false).wr 0 Reg.TICK_TIME.PHASE_ERR 0 else d)

/-- AVS_CONFIRM (R640, R642). -/
def execAvsConfirm (die : Nat) (s : State) : Host.Outcome State Fault Refusal := s.onDev (fun d => d.avsConfirm die)

/-- AVS_RISE_LATE (R641): the die stops as on loss of its clock. -/
def execAvsRiseLate (die : Nat) (s : State) : Host.Outcome State Fault Refusal :=
  s.onDev (fun d =>
    if d.power.rising.contains die then
      ((d.inc die Reg.PWR_AVS.LATE 1).updPower (fun p => { p with rising := p.rising.filter (· ≠ die) })).stopDie die
    else d)

/-- Every clock of the package stops: nothing acts, and the links and the host interface go down (R582, R614, R648). -/
def Dev.stopAll (d : Dev) : Dev :=
  { d with on := false,
           hif := { d.hif with linkUp := false },
           perches := KMap.mapV {} (fun _ p => { p with pstate := 0 }) d.perches,
           harts := KMap.mapV {} (fun _ t => { t with running := false }) d.harts }

/-- THERMAL_TRIP (R582, R592): 1 compute-die sensor, 2 stack, 3 steward-die sensor. The device is inert but for the registers that R653 names. -/
def execThermalTrip (cause die : Nat) (s : State) : Host.Outcome State Fault Refusal :=
  s.onDev (fun d =>
    let right : Bool := if cause = 3 then d.stewardDies.contains die else (cause = 1 || cause = 2) && d.computeDies.contains die
    if right then
      let d := (d.wr die Reg.PWR_THERM.TRIP_CAUSE cause).stopAll
      { d with boot := { d.boot with tripped := true }, hif := { d.hif with linkUp := true } }
    else d)

/-- ETHREF_LOSS (R648): a loss longer than 1 µs stops every die. -/
def execEthrefLoss (durationNs : Nat) (s : State) : Host.Outcome State Fault Refusal :=
  s.onDev (fun d => if durationNs ≤ 1000 then d else d.stopAll)

/-- DIE_CLOCK_LOSS (R612, R614): a loss of S0 stops the whole package. -/
def execDieClockLoss (die : Nat) (s : State) : Host.Outcome State Fault Refusal :=
  s.onDev (fun d =>
    if die = 0 then d.stopAll
    else if d.dies.contains die ∧ d.placed die ∧ !d.dieFailed die then d.stopDie die
    else d)

end Sys2Proof.Machine
end

