-- ==== Sys2Proof/Machine/Validate.lean ====
section
/-! DEFINITION. The checks on a charter (R556): the rules that the spec gives the validator, and those against the hardware. A check names the section by
its position in R542 and the entry. -/

namespace Sys2Proof.Machine

/-- A check: whether it holds, the section and entry that fail it, and the halt code (R557). -/
structure Check where
  ok : Bool
  sec : Nat
  idx : Nat := 0
  code : Nat := 5
  deriving DecidableEq, Repr

/-- One check for each entry of a table. -/
def checkEach {α : Type} (sec : Nat) (l : List α) (f : α → Bool) : List Check := l.zipIdx.map (fun x => { ok := f x.1, sec := sec, idx := x.2 })

/-- The first check that fails: its halt code and DETAIL (R556, R567). -/
def firstFailure (l : List Check) : Option (Nat × Nat) := (l.find? (fun c => !c.ok)).map (fun c => (c.code, c.sec * 4096 + min c.idx 4095))

/-- What a charter is checked against. -/
structure Facts where
  sh4 : Bool
  serial : Nat
  fwVersion : Nat
  fathomGib : List Nat
  ssds : List Ssd
  /-- Die numbers found by discovery. -/
  found : List Nat
  deriving DecidableEq, Repr

/-- Compute dies of the part. -/
def Facts.nd (f : Facts) : Nat := if f.sh4 then 3 else 6

/-- Every die of the part. -/
def Facts.dies (f : Facts) : List Nat := if f.sh4 then [0, 2, 3, 4] else [0, 1, 2, 3, 4, 5, 6, 7]

/-- Root ports of the part (R245). -/
def Facts.nvmePorts (f : Facts) : Nat := if f.sh4 then 4 else 8

/-- A set of dies as bits. -/
def maskOf (l : List Nat) : Nat := l.foldl (fun n i => n ||| 2 ^ i) 0

/-- The slot of a serial (R546). -/
def Topo.slotOf (t : Topo) (serial : Nat) : Option Nat := t.slots.findIdx? (fun s => s.serial = serial)

/-- A partition that the charter defines (R322, R547). -/
def Charter.defined (c : Charter) (p : Nat) : Bool := bit (c.parts.getD p {}).flags 0

/-- An ID that the topology names (R13). -/
def Charter.knowsId (c : Charter) (id : Nat) : Bool := c.topo.slots.any (fun s => s.id = id)

/-- FOR_ID: every package, or an ID of the topology. -/
def Charter.forIdOk (c : Charter) (i : Nat) : Bool := i = 0xFF || c.knowsId i

/-- HEAD (R545, R556). -/
def headChecks (f : Facts) (c : Charter) : List Check :=
  [⟨c.head.part = b2n f.sh4, 0, 0, 5⟩, ⟨c.head.minFw ≤ f.fwVersion, 0, 0, 5⟩, ⟨1 ≤ c.head.joinWaitS && c.head.joinWaitS ≤ 600, 0, 0, 5⟩,
   ⟨c.head.flags < 4, 0, 0, 5⟩]

/-- TOPO (R20, R242, R387, R388, R546). -/
def topoChecks (f : Facts) (c : Charter) : List Check :=
  let t := c.topo
  let n := t.slots.length
  let edges := if f.sh4 then 4 else 11
  [⟨1 ≤ n && n ≤ 64, 1, 0, 5⟩, ⟨(t.slotOf f.serial).isSome, 1, 0, 5⟩, ⟨t.planes = (if n = 1 then 0 else if f.sh4 then 4 else 8), 1, 0, 5⟩,
   ⟨[16, 32, 64, 128].contains t.fathomGib, 1, 0, 5⟩, ⟨t.nvmePorts < 2 ^ f.nvmePorts, 1, 0, 5⟩,
   ⟨t.switchSerial.zipIdx.all (fun s => s.2 < t.planes || s.1 = 0), 1, 0, 5⟩,
   ⟨t.edgeReserve.zipIdx.all (fun s => s.1 ≤ 8 && (s.2 < 2 * edges || s.1 = 0)), 1, 0, 5⟩,
   ⟨(t.slots.filter (fun s => s.role = 1)).length = 1 && (t.slots.getD t.managerSlot {}).role = 1, 1, t.managerSlot, 5⟩,
   ⟨(t.slots.map (fun s => s.id)).Nodup && (t.slots.map (fun s => s.serial)).Nodup, 1, 0, 5⟩]
  ++ checkEach 1 t.slots (fun s => s.id < 64 && 1 ≤ s.role && s.role ≤ 3 && s.slice < 64
      && (if s.role = 3 then t.slots.any (fun x => x.role ≠ 3 && x.id = s.standsFor) else s.standsFor = 0xFF))

/-- A core exists on the part (R462). -/
def Facts.hartOk (f : Facts) (h : Nat) : Bool := h % 64 < 48 && h / 64 < (if f.sh4 then 1 else 2)

/-- The harts of a partition (R480). -/
def Facts.hartsOk (f : Facts) (c : Charter) (p : Nat) (r : PartRec) : Bool :=
  (List.range 128).all (fun h => !bit r.harts h
    || (f.hartOk h && 4 ≤ h && !(64 ≤ h && h < 68) && c.parts.zipIdx.all (fun x => x.2 = p || !bit x.1.harts h)))

/-- Size of a leaf (R327). -/
def leafBytes (leaf : Nat) : Nat := if leaf = 0 then 0x10000 else if leaf = 1 then 0x200000 else 0x40000000

/-- An interleave mode of a band and a GiB within it (R198, R547, R548): 0xFF for a package-interleaved band. -/
def bandOk (f : Facts) (c : Charter) (band gib : Nat) : Bool := band < 64 && (bit c.topo.bandMode band || gib < f.nd)

/-- A mapping entry of partition `p` (R259, R324, R327, R330, R548). -/
def mapOk (f : Facts) (c : Charter) (p : Nat) (m : MapEntry) : Bool :=
  let size := leafBytes m.leaf
  let len := m.count * 0x10000
  let host := 0x400000000000
  m.kind ≤ 4 && m.leaf ≤ 2 && m.dva % size = 0 && len % size = 0 && m.target % size = 0 && m.dva + len ≤ 2 ^ 47
  && m.rights < 16 && m.rights % 8 ≠ 0 && !(bit m.rights 1 && !bit m.rights 0) && c.forIdOk m.forId
  && (m.kind = 3 || m.dva + len ≤ host)
  && (match m.kind with
      | 0 => (if m.target = 0 then bandOk f c m.band m.gib else m.target + len ≤ f.nd * 2 ^ 36)
      | 1 => m.target = 0 || (0x100004000000 ≤ m.target && m.target + len ≤ 0x100000000000 + (if f.sh4 then 8 else 16) * c.topo.fathomGib * 2 ^ 30)
      | 2 => m.leaf = 0 && (List.range m.count).all (fun i =>
          let a := m.target + i * 0x10000
          scratchBase ≤ a && a % 0x200000 < 0x180000 && (a - scratchBase) / 0x200000 < 352 * f.nd
            && bit (c.quots.getD p {}).scratch ((a - scratchBase) / 0x200000))
      | 3 => m.target = m.dva && host ≤ m.dva && (m.dva + len ≤ 0x700000000000 || 0x700100000000 ≤ m.dva)
      | _ => c.knowsId m.pkg && m.target < 2 ^ 48 && (c.parts.getD p {}).maps.any (fun x =>
          x.kind ≤ 2 && x.target ≠ 0 && (x.forId = 0xFF || x.forId = m.pkg) && x.dva ≤ m.dva && m.dva + len ≤ x.dva + x.count * 0x10000
            && x.target + (m.dva - x.dva) = m.target))

/-- APLIC routes (R474): a supervisor file belongs to the partition of the hart. -/
def routeOk (f : Facts) (r : PartRec) (x : AplicRoute) : Bool := x.identity = 0 || !f.hartOk x.hart || (x.file ≤ 1 && (x.file = 0 || bit r.harts x.hart))

/-- PART (R474, R480, R547, R548). -/
def partChecks (f : Facts) (c : Charter) : List Check :=
  c.parts.zipIdx.flatMap (fun x =>
    let (r, p) := x
    if !bit r.flags 0 then [⟨r.harts = 0 && r.maps.isEmpty, 2, p, 5⟩]
    else
      [⟨r.flags < 8 && bandOk f c r.tableBand r.tableGib, 2, p, 5⟩, ⟨f.hartsOk c p r, 2, p, 5⟩,
       ⟨r.service = 0xFFFFFFFF || r.service < c.kern.models.length, 2, p, 5⟩, ⟨r.routes.all (fun y => routeOk f r y), 2, p, 5⟩,
       ⟨r.maps.all (fun m => mapOk f c p m), 2, p, 5⟩])

/-- QUOT (R258, R259, R265, R549). -/
def quotChecks (f : Facts) (c : Charter) : List Check :=
  let sum := fun (g : QuotRec → Nat) => c.quots.foldl (fun n q => n + g q) 0
  checkEach 3 c.quots (fun q => q.scratch < 2 ^ (352 * f.nd) && q.nvme.length ≤ 8 && q.nvme.all (fun x => x.1 < f.nvmePorts))
  ++ c.quots.zipIdx.map (fun x => { ok := c.quots.zipIdx.all (fun y => y.2 = x.2 || x.1.scratch &&& y.1.scratch = 0), sec := 3, idx := x.2 })
  ++ (List.range 6).map (fun i => { ok := sum (fun q => q.stackedBw.getD i 0) * 4096 ≤ 7200000 * c.sched.period, sec := 3 })
  ++ (List.range 2).map (fun i => { ok := sum (fun q => q.fathomBw.getD i 0) * 4096 ≤ 348160 * c.sched.period, sec := 3 })

/-- Earliest slot end over the perches of an entry's group. -/
def slotEndMin (s : Sched) (es : List SpanEntry) (e : SpanEntry) : Nat :=
  let g := s.groups.getD e.group 0
  (es.filter (fun x => e.startNs < x.startNs && s.groups.getD x.group 0 &&& g ≠ 0)).foldl (fun n x => min n x.startNs) (s.period * 1000 - 20000)

/-- Latest slot end over the perches of an entry's group. -/
def slotEndMax (s : Sched) (es : List SpanEntry) (e : SpanEntry) : Nat :=
  ((List.range 2112).filter (fun p => bit (s.groups.getD e.group 0) p)).foldl (fun n p => max n (slotEndOn s es e p)) 0

/-- The entries of each pattern. -/
def Sched.byPattern (s : Sched) : List (List SpanEntry) := s.patterns.map (fun p => (s.spans.drop p.firstSpan).take p.spanCount)

/-- The move entries of each pattern with the pattern's span entries. -/
def Sched.movesBy (s : Sched) : List (List SpanEntry × List MoveEntry) :=
  s.patterns.map (fun p => ((s.spans.drop p.firstSpan).take p.spanCount, (s.moves.drop p.firstMove).take p.moveCount))

/-- A span entry's fields (R49, R50, R54, R259, R322). -/
def spanFieldsOk (c : Charter) (s : Sched) (e : SpanEntry) : Bool :=
  let live : Bool := e.kind = 1 || e.kind = 2
  e.spanId ≠ 0 && e.kind ≤ 2 && e.flags < 4 && e.group < s.groups.length && e.kernel < c.kern.kernels.length && e.partition < 16 && c.defined e.partition
  && (if e.kind = 1 then 1 ≤ e.carryLimit else e.carryLimit = 0)
  && (if live then 1 ≤ e.contId && e.contId ≤ 4095 && e.saveBytes % 64 = 0 && e.saveBytes ≤ 0x180000 && e.saveDva % 0x10000 = 0
      else e.contId = 0 && e.saveBytes = 0 && e.saveDva = 0)
  && (let g := s.groups.getD e.group 0; g &&& (c.quots.getD e.partition {}).scratch = g)
  && 10000 ≤ e.startNs

/-- Entries of one pattern in order of START_NS, then of SPAN_ID (R48). -/
def spansSorted : List SpanEntry → Bool
  | a :: b :: t => (a.startNs < b.startNs || (a.startNs = b.startNs && a.spanId < b.spanId)) && spansSorted (b :: t)
  | _ => true

/-- The channel word of an endpoint of a perch in an entry. -/
def chanWord (c : Charter) (s : Sched) (e : SpanEntry) (p ep : Nat) : Nat :=
  ((c.kern.kernels.getD e.kernel {}).chanRows.getD (ordinalOf (s.groups.getD e.group 0) p) []).getD ep 0

/-- The die edges that a stream channel crosses, with their directions: along the row, then along the column (R19, R20). -/
def meshPath (edges : List (Nat × Nat × Nat × Nat)) : Nat → Nat → Nat → List Nat
  | 0, _, _ => []
  | fuel + 1, a, b =>
    if a = b then []
    else
      let n := if a % 3 < b % 3 then a + 1 else if b % 3 < a % 3 then a - 1 else if a < b then a + 3 else a - 3
      let here := edges.zipIdx.filterMap (fun e =>
        if e.1.1 = a + 2 ∧ e.1.2.2.1 = n + 2 then some (2 * e.2) else if e.1.1 = n + 2 ∧ e.1.2.2.1 = a + 2 then some (2 * e.2 + 1) else none)
      here ++ meshPath edges fuel n b

/-- The stream channels of a pattern from their senders: entry, perch, endpoint, word. -/
def senders (c : Charter) (s : Sched) (es : List SpanEntry) : List (SpanEntry × Nat × Nat × Nat) :=
  es.flatMap (fun e => ((List.range 2112).filter (fun p => bit (s.groups.getD e.group 0) p)).flatMap (fun p =>
    (List.range 32).filterMap (fun ep => let w := chanWord c s e p ep; if epRole w = 0 then none else some (e, p, ep, w))))

/-- One end of a channel (R20, R54, R110). -/
def channelOk (c : Charter) (edges : List (Nat × Nat × Nat × Nat)) (s : Sched) (es : List SpanEntry) (x : SpanEntry × Nat × Nat × Nat) : Bool :=
  let (e, p, ep, w) := x
  let q := epPeer w
  epRole w ≤ 2 && w % 2 ^ 19 = 0 && 1 ≤ epRingKib w && epRingKib w ≤ 256
  && (if epRole w = 1 then epRingBase w = 0 else epRingBase w + epRingKib w ≤ 1536)
  && es.any (fun f =>
      bit (s.groups.getD f.group 0) q && f.partition = e.partition && f.startNs < slotEndOn s es e p && e.startNs < slotEndOn s es f q
      && (let v := chanWord c s f q (epPeerEp w); epRole v = 3 - epRole w && epPeer v = p && epPeerEp v = ep && epRingKib v = epRingKib w))
  && (epRole w ≠ 1 || (meshPath edges 8 (p / 352) (q / 352)).all (fun k => c.topo.edgeReserve.getD k 0 ≠ 0))

/-- Removes the arrows whose source nothing points to, so often. -/
def pruneArrows : Nat → List (Nat × Nat) → List (Nat × Nat)
  | 0, l => l
  | n + 1, l => pruneArrows n (l.filter (fun a => l.any (fun b => b.2 = a.1)))

/-- The channel graph of a pattern has no cycle (R54): perches are its nodes. -/
def channelsAcyclic (ends : List (SpanEntry × Nat × Nat × Nat)) : Bool :=
  let l := (ends.filter (fun x => epRole x.2.2.2 = 1)).map (fun x => (x.2.1, epPeer x.2.2.2))
  (pruneArrows l.length l).isEmpty

/-- Two entries of one continuation agree (R54). -/
def sameCont (a b : SpanEntry) : Bool :=
  a.kind = b.kind && a.group = b.group && a.kernel = b.kernel && a.partition = b.partition && a.saveBytes = b.saveBytes && a.saveDva = b.saveDva
    && a.carryLimit = b.carryLimit

/-- Rules for the entries of one pattern (R48, R54). -/
def patternOk (f : Facts) (c : Charter) (edges : List (Nat × Nat × Nat × Nat)) (s : Sched) (es : List SpanEntry) : Bool :=
  let ends := senders c s es
  let queued := (List.range 16).filter (fun p => c.host.any (fun w => bit w 63 && bits w 48 4 = p))
  spansSorted es && (es.map (fun e => e.spanId)).Nodup && f.nd ≠ 0
  && es.all (fun e => e.startNs * (9 + s.floorOpp) + (e.budget + endWindow e) * 10 ≤ slotEndMin s es e * (9 + s.floorOpp))
  && es.all (fun e => es.all (fun x => x.spanId = e.spanId || x.startNs ≠ e.startNs || s.groups.getD x.group 0 &&& s.groups.getD e.group 0 = 0))
  && ends.all (fun x => channelOk c edges s es x) && channelsAcyclic ends
  && queued.all (fun p => es.any (fun e => e.kind = 2 && e.partition = p))

/-- The window of two move entries overlaps. -/
def windowsMeet (a b : MoveEntry) : Bool := a.startNs < b.deadlineNs && b.startNs < a.deadlineNs

/-- One move entry (R248, R250). -/
def moveOk (f : Facts) (c : Charter) (s : Sched) (m : MoveEntry) : Bool :=
  let nvme : Bool := m.kind = 5 || m.kind = 6
  let kv : Bool := m.kind = 3 || m.kind = 4
  1 ≤ m.kind && m.kind ≤ 6 && m.flags < 4 && m.partition < 16 && c.defined m.partition && m.execDie < (if f.sh4 then 1 else 2)
  && (nvme || (m.port = 0 && m.nsid = 0)) && (!bit m.flags 0 || m.doneDva % 16 = 0) && (!kv || m.src % 64 = 0)
  && (if nvme then m.amount % 4096 = 0 else kv || m.amount ≤ 0x40000000)
  && (!nvme || (m.port < f.nvmePorts && m.port / 4 = m.execDie && (c.quots.getD m.partition {}).nvme.contains (m.port, m.nsid)))
  && 10000 ≤ m.startNs && m.startNs < m.deadlineNs && m.deadlineNs ≤ s.period * 1000 - 20000
  && (!nvme || m.amount ≤ 7 * (m.deadlineNs - m.startNs - 250000) && m.startNs + 250000 ≤ m.deadlineNs)

/-- Rules for the move list of one pattern (R247, R250) beside the budgets. -/
def movesOk (s : Sched) (es : List SpanEntry) (l : List MoveEntry) : Bool :=
  let writes := fun (m : MoveEntry) => m.kind = 1 || m.kind = 2 || m.kind = 5
  let pairs := fun (g : MoveEntry → MoveEntry → Bool) => l.zipIdx.all (fun a => l.zipIdx.all (fun b => a.2 = b.2 || g a.1 b.1))
  (l.zip (l.drop 1)).all (fun x => x.1.startNs ≤ x.2.startNs)
  && pairs (fun a b => !(writes a && writes b && windowsMeet a b && a.partition = b.partition && a.dst < b.dst + b.amount && b.dst < a.dst + a.amount))
  && pairs (fun a b => !((a.kind = 3 || a.kind = 4) && a.kind = b.kind && windowsMeet a b && a.partition = b.partition && a.src = b.src))
  && l.all (fun m => !(m.kind = 3 || m.kind = 4) || es.any (fun e => e.spanId = m.userSpan && (m.deadlineNs ≤ e.startNs || slotEndMax s es e ≤ m.startNs)))

/-- Bytes that an engine reads and writes for one member of an instance of MAX_COUNT elements (R362, R657). -/
def collTraffic (d : CollDef) (isRoot : Bool) : Nat :=
  let n := d.maxCount
  d.readBytes n isRoot + d.writeBytes n + (if d.op = 5 then 8 * n else 0)

/-- Bytes that finite buckets of `n` elements take on the wire (R369). -/
def bucketBytes (n : Nat) : Nat := n / 256 * 36 + (if n % 256 = 0 then 0 else 4 + ceilDiv (n % 256) 8)

/-- Bytes that an engine sends to another for its members (R657): one partial, or the members' own data. -/
def collWire (d : CollDef) (ms : List (CollMember × Nat)) : Nat :=
  let n := d.maxCount
  if d.exactSum then 13 * n
  else if d.isPick then 4 * n
  else if d.op = 5 then ms.length * bucketBytes n
  else if d.op = 3 then (if ms.any (fun m => m.2 = d.root) then n * elemSize d.dtype else 0)
  else ms.length * n * elemSize d.dtype

/-- The directions of the edges of a way from a die, as EDGE_RESERVE numbers them (R21, R546). -/
def directed (edges : List (Nat × Nat × Nat × Nat)) : Nat → List Nat → List Nat
  | _, [] => []
  | a, e :: t => match edges[e]? with
    | some x => if x.1 = a then 2 * e :: directed edges x.2.2.1 t else (2 * e + 1) :: directed edges x.1 t
    | none => directed edges a t

/-- ns that the busiest edge direction takes for flows (from, to, bytes), at the bandwidth of R18 less the reservation of R20. -/
def edgeTime (c : Charter) (edges : List (Nat × Nat × Nat × Nat)) (flows : List (Nat × Nat × Nat)) : Nat :=
  let ways := flows.map (fun x => (directed edges x.1 (edgeWay (edges.length = 4) x.1 x.2.1), x.2.2))
  (List.range (2 * edges.length)).foldl (fun t k =>
    let load := ((ways.filter (fun w => w.1.contains k)).map (·.2)).sum
    let steward : Bool := (edges[k / 2]?.map (fun x => decide (x.1 < 2))).getD false
    max t (ceilDiv (load * 16) ((if steward then 2000 else 4000) * (16 - c.topo.edgeReserve.getD k 0)))) 0

/-- The flows of an instance inside a package and its bytes on the links, out and in (R352): each engine sends to every other with members, and in a league by the
coordinator on S0 to the other packages, whose data it hands to each engine (assumption 70). -/
def collFlows (edges : List (Nat × Nat × Nat × Nat)) (d : CollDef) (ms : List (CollMember × Nat)) (pkg : Nat) : List (Nat × Nat × Nat) × Nat × Nat :=
  let inPkg := ms.filter (fun m => m.1.package = pkg)
  let dies := (List.range 6).filter (fun i => inPkg.any (fun m => m.1.perch / 352 = i))
  let wire := fun (i : Nat) => collWire d (inPkg.filter (fun m => m.1.perch / 352 = i))
  let pkgs := (ms.map (·.1.package)).eraseDups.filter (· ≠ pkg)
  let own := if d.exactSum || d.isPick then collWire d inPkg else (dies.map wire).sum
  let far := (pkgs.map (fun p => collWire d (ms.filter (fun m => m.1.package = p)))).sum
  let pairs := dies.flatMap (fun a => (dies.filter (· ≠ a)).map (fun b => (a + 2, b + 2, wire a)))
  let out := own * pkgs.length
  let away := if pkgs.isEmpty then [] else
    dies.map (fun a => (a + 2, 0, wire a)) ++ dies.map (fun b => (0, b + 2, far)) ++ (if edges.length = 4 then [] else [(0, 1, out / 2), (1, 0, far / 2)])
  (pairs ++ away, out, far)

/-- The budget of an instance in ns (R377, R657). -/
def collBudget (c : Charter) (edges : List (Nat × Nat × Nat × Nat)) (d : CollDef) (ms : List CollMember) : Nat :=
  let latency := if d.scope = 0 then 3000 else 8000
  if d.op = 4 then latency
  else
    let n := d.maxCount
    let ms := ms.zipIdx
    let pkgs := (ms.map (·.1.package)).eraseDups
    let keys := (ms.map (fun m => (m.1.package, m.1.perch / 352))).eraseDups
    let onDie := fun (k : Nat × Nat) => ms.filter (fun m => m.1.package = k.1 && m.1.perch / 352 = k.2)
    let most := fun (f : Nat × Nat → Nat) => keys.foldl (fun b k => max b (f k)) 0
    let rw := ceilDiv (most (fun k => ((onDie k).map (fun m => collTraffic d (m.2 = d.root))).sum)) 1000
    let partials := fun (k : Nat × Nat) => (keys.filter (fun x => x.1 = k.1)).length - 1 + (if d.scope = 1 ∧ 1 < pkgs.length then 1 else 0)
    let combine := if d.op = 5 then ceilDiv (most (fun k => ((onDie k).length + ms.length) * n)) 256
      else if d.op = 1 then ceilDiv (most (fun k => ((onDie k).length + partials k) * n)) 512 else 0
    let leagueAdd := if d.scope = 1 ∧ d.op = 1 then ceilDiv ((pkgs.length - 1) * n) 256 else 0
    let ports := if edges.length = 4 then 4 else 8
    let transfer := pkgs.foldl (fun t p =>
      let (flows, out, far) := collFlows edges d ms p
      max t (max (edgeTime c edges flows) (if d.scope = 0 then 0 else ceilDiv (ceilDiv (max out far) ports) 200))) 0
    latency + rw + combine + leagueAdd + transfer

/-- The operation fields of a definition (R354, R362). -/
def collOpOk (d : CollDef) : Bool :=
  match d.op with
  | 1 => d.dtype ≤ 1 && d.redop ≤ 2 && d.root = 0
      && (if d.mode = 0 then d.resultFmt = 0 || (d.resultFmt = 1 && d.redop = 0 && d.dtype = 0)
          else d.mode = 1 && d.redop = 0 && d.dtype = 0 && d.resultFmt = 0)
  | 2 => d.dtype ≤ 2 && d.mode = 0 && d.redop = 0 && d.resultFmt = 0 && d.root = 0
  | 3 => d.dtype ≤ 2 && d.mode = 0 && d.redop = 0 && d.resultFmt = 0 && d.root < d.memberCount
  | 4 => d.dtype = 0 && d.mode = 0 && d.redop = 0 && d.resultFmt = 0 && d.root = 0
  | 5 => d.dtype = 0 && d.mode = 0 && d.redop = 0 && d.resultFmt = 0 && d.root = 0
  | _ => false

/-- A collective definition of a schedule (R356). -/
def collOk (c : Charter) (edges : List (Nat × Nat × Nat × Nat)) (own : SlotEntry) (s : Sched) (n : Nat) (d : CollDef) : Bool :=
  let ms := (s.collMembers.drop d.memberFirst).take d.memberCount
  let slices := ms.map (fun m => ((c.topo.slots.find? (fun x => x.id = m.package)).map (fun x => x.slice)).getD 64)
  d.collId = n + 1 && collOpOk d && d.scope ≤ 1 && d.partition < 16 && c.defined d.partition && d.maxCount ≤ 0x1000000
  && 1 ≤ d.memberCount && d.memberCount ≤ 16384 && ms.length = d.memberCount && 10000 ≤ d.deadlineNs
  && (ms.map (fun m => (m.package, m.perch))).Nodup
  && (if d.scope = 0 then ms.all (fun m => m.package = own.id) else ms.all (fun m => c.knowsId m.package) && slices.all (fun x => x = slices.headD 64))
  && ms.all (fun m => m.readyCtr ≠ m.doneCtr && m.readyCtr < 64 && (m.doneCtr < 64 || m.doneCtr = 0xFF) && m.postOff % 16 = 0 && m.postOff + 16 ≤ 0x180000
      && m.statusDva % 256 = 0 && (if d.op = 5 then m.resDva ≠ 0 && m.resDva % 4 = 0 else m.resDva = 0)
      && s.spans.any (fun e => e.spanId = m.spanId && e.kind = 0 && e.partition = d.partition && bit (s.groups.getD e.group 0) m.perch))
  && s.byPattern.all (fun es => es.all (fun e => ms.all (fun m => m.spanId ≠ e.spanId
      || (d.deadlineNs + collBudget c edges d ms) * (9 + s.floorOpp) + endWindow e * 10 ≤ slotEndOn s es e m.perch * (9 + s.floorOpp))))

/-- The sources that R38 allows a package: BEACON alone as the primary of a worker, and BEACON nowhere on the manager and on a package without a league. A spare is
held to the rule of a worker (DEDUCED, assumption 22). -/
def sourcesOk (c : Charter) (own : SlotEntry) (s : Sched) : Bool :=
  if 1 < c.topo.slots.length ∧ 2 ≤ own.role then s.srcPri = 5 else s.srcPri ≠ 5 && s.srcAlt ≠ 5

/-- A schedule (R37, R38, R45, R48 to R54, R247, R250, R356), as section `sec`. -/
def schedChecks (f : Facts) (c : Charter) (own : SlotEntry) (edges : List (Nat × Nat × Nat × Nat)) (sec : Nat) (s : Sched) : List Check :=
  let top := fun (b : Bool) => ({ ok := b, sec := sec } : Check)
  [top (1000 ≤ s.period && s.period ≤ 40000), top (1 ≤ s.srcPri && s.srcPri ≤ 5), top (s.srcAlt ≤ 5 && s.srcAlt ≠ s.srcPri),
   top ((s.srcPri ≠ 3 && s.srcAlt ≠ 3) || 1000000 % s.period = 0), top (sourcesOk c own s), top (s.tickOutWidth < s.period),
   top (1 ≤ s.patternCount && s.patternCount ≤ 256 && s.patterns.length = s.patternCount), top (s.floorOpp ≤ 7 && c.pwr.oppMin ≤ s.floorOpp),
   top (s.patterns.all (fun p => p.firstSpan + p.spanCount ≤ s.spans.length && p.firstMove + p.moveCount ≤ s.moves.length)),
   top (s.groups.length ≤ 4096 && s.groups.all (fun g => g < 2 ^ (352 * f.nd))),
   top (s.collDefs.length ≤ 1023 && s.collMembers.length ≤ 1048575)]
  ++ checkEach sec s.spans (fun e => spanFieldsOk c s e)
  ++ checkEach sec s.spans (fun e => s.spans.all (fun x => (x.spanId ≠ e.spanId || decide (x = e)) && (e.contId = 0 || x.contId ≠ e.contId || sameCont x e)
      && (e.kind ≠ 2 || x.kind ≠ 2 || x.partition ≠ e.partition || x.group ≠ e.group || x.contId = e.contId)))
  ++ checkEach sec s.byPattern (fun es => patternOk f c edges s es)
  ++ [⟨s.badMove.isNone, sec, s.badMove.getD 0, 5⟩, ⟨s.badDef.isNone, sec, s.badDef.getD 0, 5⟩, ⟨s.badMember.isNone, sec, s.badMember.getD 0, 5⟩]
  ++ checkEach sec s.moves (fun m => moveOk f c s m)
  ++ checkEach sec s.movesBy (fun x => movesOk s x.1 x.2)
  ++ s.collDefs.zipIdx.map (fun x => { ok := collOk c edges own s x.2 x.1, sec := sec, idx := x.2 })

/-- KERN (R84, R551, R552, R556). -/
def kernChecks (f : Facts) (c : Charter) : List Check :=
  checkEach 5 c.kern.kernels (fun k => 1 ≤ k.imageSize && k.imageSize ≤ 2 ^ 24 && k.imageOff + k.imageSize ≤ c.kern.image.length && k.entry < k.imageSize)
  ++ checkEach 5 c.kern.models (fun m => m.partition < 16 && c.defined m.partition && m.port < f.nvmePorts && c.forIdOk m.forId && m.flags < 2
      && m.bytes % 4096 = 0 && m.dva % 0x10000 = 0 && (c.quots.getD m.partition {}).nvme.contains (m.port, m.nsid))

/-- Blocks of a namespace of an SSD, if it is there. -/
def Facts.blocks (f : Facts) (port nsid : Nat) : Option Nat :=
  (f.ssds.find? (fun s => s.port = port)).bind (fun s => (s.spaces.find? (fun x => x.1 = nsid)).map (fun x => x.2))

/-- Every namespace that KERN or QUOT names is there with the blocks that its entries need, and every SSD (R556). -/
def nvmeChecks (f : Facts) (c : Charter) : List Check :=
  (List.range 8).map (fun p => { ok := !bit c.topo.nvmePorts p || f.ssds.any (fun s => s.port = p), sec := 1, idx := 0, code := 7 })
  ++ c.quots.zipIdx.map (fun q => { ok := q.1.nvme.all (fun x => (f.blocks x.1 x.2).isSome), sec := 3, idx := q.2, code := 7 })
  ++ c.kern.models.zipIdx.map (fun m =>
    let room := f.blocks m.1.port m.1.nsid
    { ok := m.1.bytes = 0 || (room.isSome && m.1.lba + m.1.bytes / 4096 ≤ room.getD 0), sec := 5, idx := m.2, code := 7 })

/-- ROUT agrees with TOPO (R430, R554). -/
def routChecks (c : Charter) : List Check :=
  c.rout.zipIdx.map (fun x =>
    let want := match c.topo.slots.zipIdx.find? (fun s => s.1.id = x.2) with
      | some s => 2 ^ 63 + s.1.slice * 2 ^ 40 + s.2 * 2 ^ 32
      | none => 0
    { ok := x.1 = want, sec := 6, idx := x.2 })

/-- Cells in a slot of a flow (R434). -/
def cellsOf (e : FlowEntry) : Nat := if e.kind = 1 then max 1 (e.tsPerTick / max 1 e.tsPerCell) else (e.slotBytes - 64) / max 1 e.cellBytes

/-- A flow entry (R433, R434) beside where its ring lies. -/
def flowOk (c : Charter) (e : FlowEntry) : Bool :=
  e.kind = 0 || (e.kind ≤ 3 && e.port ≤ 1 && e.partition < 16 && c.defined e.partition && e.flags < 16 && e.pt < 128
  && e.jitter ≤ (if e.kind = 1 then 15 else if e.kind = 3 then 3 else 0)
  && 1 ≤ e.tsPerTick && e.tsPerTick ≤ 2 ^ 24 && (if e.kind = 1 then 1 ≤ e.tsPerCell && e.tsPerCell ≤ 2 ^ 24 else e.tsPerCell = 0)
  && e.ringDva % 256 = 0 && e.slotBytes % 256 = 0 && 1 ≤ e.slotBytes && 1 ≤ e.slotCount && e.slotCount ≤ 4096 && e.cellBytes % 64 = 0 && 64 ≤ e.cellBytes
  && e.cellBytes ≤ 9216 && 64 + cellsOf e * e.cellBytes ≤ e.slotBytes
  && (if e.kind = 1 then (e.tsPerTick % e.tsPerCell = 0 && e.tsPerTick / e.tsPerCell ≤ 16 || e.tsPerCell % e.tsPerTick = 0) && e.jitter + 3 ≤ e.slotCount
      else c.sched.spans.any (fun x => x.spanId = e.producer && x.kind = 0 && x.partition = e.partition)))

/-- SIOF (R433 to R435). -/
def siofChecks (c : Charter) : List Check :=
  ⟨c.flows.length ≤ 65536, 7, 0, 5⟩ :: checkEach 7 c.flows (fun e => flowOk c e)
  ++ c.flows.zipIdx.map (fun x =>
  { ok := x.1.kind ≠ 1 || x.1.localUdp = 0 || c.flows.zipIdx.all (fun y => y.2 = x.2 || y.1.kind ≠ 1 || !x.1.sameKey y.1), sec := 7, idx := x.2 })

/-- HOST (R54, R258, R322, R493, R526, R554). -/
def hostChecks (c : Charter) : List Check :=
  checkEach 8 c.host (fun w => !bit w 63
    || (c.defined (bits w 48 4) && 16 ≤ bits w 0 13 && bits w 0 13 ≤ 4096 && (c.quots.getD (bits w 48 4) {}).scratch ≠ 0
        && c.sched.spans.any (fun e => e.kind = 2 && e.partition = bits w 48 4 && e.contId = bits w 32 12)))

/-- PWR and RAS (R165, R166, R554, R575, R601). -/
def pwrChecks (f : Facts) (c : Charter) : List Check :=
  let p := c.pwr
  [⟨(if f.sh4 then 600 else 1200) ≤ p.capW && p.capW ≤ (if f.sh4 then 1500 else 3000), 9, 0, 5⟩, ⟨p.oppMin ≤ p.oppMax && p.oppMax ≤ 7, 9, 0, 5⟩,
   ⟨1000 ≤ p.stewardMhz && p.stewardMhz ≤ 3000 && p.stewardMhz % 100 = 0, 9, 0, 5⟩, ⟨p.policy ≤ 2 && p.keeperQ ≤ 16, 9, 0, 5⟩,
   ⟨c.ras.scrubH ≤ 720 && c.ras.scrupleKib ≤ 64 && c.ras.eventEn < 2 ^ 18, 10, 0, 5⟩]

/-- Entries with a FOR_ID agree for two IDs (R555). -/
def Charter.sameFor (c : Charter) (a b : Nat) : Bool :=
  decide (c.parts.map (fun r => (r.maps.filter (fun m => m.forId = a)).map (fun m => { m with forId := 0 }))
    = c.parts.map (fun r => (r.maps.filter (fun m => m.forId = b)).map (fun m => { m with forId := 0 })))
  && decide ((c.kern.models.filter (fun m => m.forId = a)).map (fun m => { m with forId := 0 })
    = (c.kern.models.filter (fun m => m.forId = b)).map (fun m => { m with forId := 0 }))

/-- DEGR (R555). -/
def degrChecks (f : Facts) (c : Charter) (own : SlotEntry) (edges : List (Nat × Nat × Nat × Nat)) : List Check :=
  c.plans.zipIdx.flatMap (fun x =>
    let (p, i) := x
    let here := fun (b : Bool) => ({ ok := b, sec := 11, idx := i } : Check)
    [here (1 ≤ p.plan && p.plan ≤ 255), here (c.plans.zipIdx.all (fun y => y.2 = i
        || (y.1.plan ≠ p.plan && !(y.1.dieId = p.dieId && y.1.dieMask = p.dieMask && y.1.pkgMask = p.pkgMask)))),
     here (p.dieId = 0xFF || (c.knowsId p.dieId && p.dieMask &&& maskOf f.dies = p.dieMask)),
     here (p.adopt.all (fun a => (match c.topo.slots[a.1]? with
        | some s => s.role = 3 && (s.standsFor = a.2 || c.sameFor a.2 s.standsFor)
        | none => false)))]
    ++ (schedChecks f c (if p.dieId = 0xFF then own else (c.topo.slots.find? (fun x => x.id = p.dieId)).getD own) edges 11 p.sched).map (fun k => { k with idx := i }))

/-- The dies found agree with the charter (R33). -/
def dieCheck (f : Facts) (c : Charter) (own : SlotEntry) : Check :=
  { ok := decide (maskOf f.found = maskOf f.dies) || c.plans.any (fun p => p.dieId = own.id && p.dieMask = maskOf f.found), sec := 11, code := 1 }

/-- The capacity found on each fathom channel (R242). -/
def fathomCheck (f : Facts) (c : Charter) : Check :=
  { ok := decide (f.fathomGib = List.replicate (if f.sh4 then 8 else 16) c.topo.fathomGib), sec := 1, code := 6 }

/-- All checks of R556, in the order of the sections; those against the memories and the SSDs last. -/
def charterChecks (f : Facts) (c : Charter) (edges : List (Nat × Nat × Nat × Nat)) : List Check :=
  let own := (c.topo.slotOf f.serial).bind (fun i => c.topo.slots[i]?) |>.getD {}
  headChecks f c ++ topoChecks f c ++ partChecks f c ++ quotChecks f c ++ schedChecks f c own edges 4 c.sched ++ kernChecks f c ++ routChecks c
    ++ siofChecks c ++ hostChecks c ++ pwrChecks f c ++ degrChecks f c own edges ++ [dieCheck f c own, fathomCheck f c] ++ nvmeChecks f c

end Sys2Proof.Machine
end

