-- ==== Sys2Proof/Machine/Place.lean ====
section
/-! DEFINITION. Step 7 of boot (R536): the allocation of pages, the device structures, the page tables, the checks against them, and the RS fields that
the charter gives. -/

namespace Sys2Proof.Machine

/-- A halt of boot: code and DETAIL (R557). -/
abbrev Halt := Nat × Nat

/-- The page that a pattern of pages names could not be had (R548): section and entry. -/
def noPages (sec idx : Nat) : Halt := (0x09, sec * 4096 + min idx 4095)

/-- An option as a step that may halt boot. -/
def orHalt {α : Type} (h : Halt) (o : Option α) : Except Halt α :=
  match o with
  | some a => .ok a
  | none => .error h

/-- What boot found at its start. -/
def Dev.brd (d : Dev) : Board :=
  d.boot.board.getD { strapAddr := 0, testN := true, edges := [], isolated := [], fwA := none, fwB := none, hangFw := false, hangMem := false, hangNvme := false,
                      memOk := true, fathomGib := [], ssds := [], images := [] }

/-- The ID for which the package applies FOR_ID entries (R548, R553): a spare those of its STANDS_FOR. -/
def Dev.workId (d : Dev) : Nat := if d.ownSlot.role = 3 then d.ownSlot.standsFor else d.ownSlot.id

/-- An entry with a FOR_ID applies to this package. -/
def Dev.appliesHere (d : Dev) (forId : Nat) : Bool := forId = 0xFF || forId = d.workId

/-- First and last + 1 page of a band, or of one GiB of a die-local band (R198, R548). -/
def Dev.bandPages (d : Dev) (band gib : Nat) : Nat × Nat :=
  let per := d.nd * 16384
  if bit (d.rd 2 Reg.MEMC_BAND_MODE.MODE) band then (band * per, (band + 1) * per) else (band * per + gib * 16384, band * per + (gib + 1) * 16384)

/-- The die-local pages of a compute die. -/
def Dev.localPages (d : Dev) (die : Nat) : List (Nat × Nat) :=
  ((List.range 64).filter (fun b => !bit (d.rd 2 Reg.MEMC_BAND_MODE.MODE) b)).map (fun b => d.bandPages b (die - 2))

/-- Stacked pages for a structure: die-local ones of the dies named, before any other. -/
def Dev.stackPages (d : Dev) (dies : List Nat) : List (Nat × Nat) := dies.flatMap (fun die => d.localPages die) ++ [(0, d.stackedPages)]

/-- The fathom pages. -/
def Dev.fathomRange (d : Dev) : List (Nat × Nat) := [(d.stackedPages, d.stackedPages + d.fathomPages)]

/-- Takes the lowest run of free pages of the first range that has one (R548), for an owner. -/
def Dev.takeRun (d : Dev) (ranges : List (Nat × Nat)) (count align owner : Nat) : Option (Nat × Dev) :=
  (ranges.findSome? (fun r => d.findFree r.1 r.2 count align)).map (fun p =>
    (p, (List.range count).foldl (fun d i => if owner < 16 then d.givePage owner (p + i) else d.setOwner (p + i) owner) d))

/-- Places a device structure of a size in pages of the device (R261): its address, 0 where it is empty. -/
def Dev.placeStruct (d : Dev) (ranges : List (Nat × Nat)) (size : Nat) (b : List Byte) : Option (Nat × Dev) :=
  if size = 0 then some (0, d)
  else (d.takeRun ranges (ceilDiv size 65536) 1 0xFE).map (fun r => (r.2.pageBase r.1, r.2.devWrite (r.2.pageBase r.1) b))

/-- The span entries of the charter's schedules that name a perch of a compute die (R47, R550). -/
def Charter.spansOf (c : Charter) (die : Nat) : List SpanEntry :=
  (c.sched :: c.plans.map (·.sched)).flatMap (fun s =>
    s.spans.filter (fun e => s.groups.getD e.group 0 / 2 ^ (352 * (die - 2)) % 2 ^ 352 ≠ 0))

/-- The move entries of the charter's schedules for a unit (R247, R550). -/
def Charter.movesOf (c : Charter) (die : Nat) : List MoveEntry :=
  (c.sched :: c.plans.map (·.sched)).flatMap (fun s => s.moves.filter (fun m => m.execDie = die))

/-- The collective table: definitions, then members (R354, R355). -/
def Sched.collBytes (s : Sched) : List Byte := s.collDefs.flatMap CollDef.bytes ++ s.collMembers.flatMap CollMember.bytes

/-- Places a structure and records its address in a register of a die. -/
def Dev.placeAt (d : Dev) (die : Nat) (f : Fld) (ranges : List (Nat × Nat)) (size : Nat) (b : List Byte) : Option Dev :=
  (d.placeStruct ranges size b).map (fun r => r.2.wr die f r.1)

/-- EARLIEST_NS of an egress flow (R443): 4,000 ns after the latest slot end of PRODUCER in any pattern. -/
def Charter.earliest (c : Charter) (e : FlowEntry) : Nat :=
  if e.kind ≤ 1 then e.earliestNs
  else 4000 + c.sched.byPattern.foldl (fun n es => es.foldl (fun n x => if x.spanId = e.producer then max n (slotEndMax c.sched es x) else n) n) 0

/-- The flow table as it is placed (R433): the charter's bytes with EARLIEST_NS. -/
def Charter.flowTable (c : Charter) : List Byte :=
  c.flows.zipIdx.flatMap (fun x => ((c.flowBytes.drop (128 * x.2)).take 96) ++ leBytes 4 (c.earliest x.1) ++ ((c.flowBytes.drop (128 * x.2 + 100)).take 28))

/-- The span copies and the collective tables of the compute dies, and S0's collective table. -/
def Dev.placeTables (d : Dev) : Option Dev :=
  let spans := fun (d : Dev) (die : Nat) =>
    let l := d.charter.spansOf die
    (d.placeAt die Reg.TICK_SCHED_BASE.BASE (d.stackPages [die]) (48 * l.length) (l.flatMap SpanEntry.bytes)).map (fun d =>
      d.wr die Reg.TICK_SCHED.SPAN_COUNT l.length)
  let moves := fun (d : Dev) (die : Nat) =>
    let l := d.charter.movesOf die
    d.placeAt die Reg.BMC_MOVE_BASE.BASE (d.stackPages d.liveCompute) (64 * l.length) (l.flatMap MoveEntry.bytes)
  let colls := fun (d : Dev) (die : Nat) =>
    let b := d.sched.collBytes
    d.placeAt die Reg.COLL_TABLE_BASE.BASE (d.stackPages (if die = 0 then d.liveCompute else [die])) b.length b
  let all := fun (f : Dev → Nat → Option Dev) (l : List Nat) (o : Option Dev) => l.foldl (fun (o : Option Dev) die => o.bind (fun d => f d die)) o
  all colls (0 :: d.liveCompute) (all moves (d.stewardDies.filter d.placed) (all spans d.liveCompute (some d)))

/-- Kernel images in device pages (R551). -/
def Dev.placeKernels (d : Dev) : Option Dev :=
  d.charter.kern.kernels.zipIdx.foldl (fun (o : Option Dev) k => o.bind (fun d =>
    (d.placeStruct (d.stackPages d.liveCompute) k.1.imageSize ((d.charter.kern.image.drop k.1.imageOff).take k.1.imageSize)).map (fun r =>
      { r.2 with kernelPa := KMap.set 0 r.2.kernelPa k.2 r.1 }))) (some d)

/-- The flow table with its statistics records, the repair log, the dump region and the charter copy (R433, R442, R561, R608, R620). -/
def Dev.placeRest (d : Dev) (copy : List Byte) (signed : Nat) : Option Dev := do
  let r := d.stackPages d.liveCompute
  let n := d.charter.flows.length
  let d ← d.placeAt d.sioDie Reg.SIO_FLOW_BASE.BASE r (128 * n) d.charter.flowTable
  let d ← d.placeAt d.sioDie Reg.SIO_STATS_BASE.BASE r (32 * n) []
  let d ← d.placeAt 0 Reg.RAS_LOG_BASE.BASE r (32 * 4096) []
  let d ← d.placeAt 0 Reg.RAS_DUMP_BASE.BASE r d.dumpSize []
  let c ← d.placeStruct r copy.length copy
  some (c.2.updBoot (fun b => { b with copyAt := (c.1, copy.length, signed) }))

/-- The mapping entries that apply to a partition here. -/
def Dev.mapsOf (d : Dev) (part : Nat) : List MapEntry := (d.charter.parts.getD part {}).maps.filter (fun m => d.appliesHere m.forId)

/-- Gives a pinned page to its partition; none where it is not free (R548). -/
def Dev.pinPage (d : Dev) (part page : Nat) : Option Dev :=
  if d.ownerOf page = part then some d else if d.ownerOf page = 0xFF then some (d.givePage part page) else none

/-- Gives every pinned range to its partition. -/
def Dev.pinAll (d : Dev) : Except Halt Dev :=
  (List.range 16).foldlM (fun (d : Dev) p =>
    ((d.mapsOf p).filter (fun m => m.kind ≤ 1 && m.target ≠ 0)).foldlM (fun (d : Dev) m =>
      (List.range m.count).foldlM (fun (d : Dev) i => orHalt (noPages 2 p) (d.pinPage p (d.pageIndex (m.target + i * 65536)))) d) d) d

/-- The target of leaf `i` of a mapping entry (R548): for pages of this package with the ID that the tables are for. -/
def Dev.leafTarget (d : Dev) (part : Nat) (m : MapEntry) (i : Nat) : Option (Nat × Dev) :=
  let size := leafBytes m.leaf
  if m.kind = 4 then some (m.pkg * 2 ^ 48 + m.target + i * size, d)
  else if 2 ≤ m.kind ∨ m.target ≠ 0 then some (d.workId * 2 ^ 48 + m.target + i * size, d)
  else
    let n := size / 65536
    (d.takeRun (if m.kind = 0 then [d.bandPages m.band m.gib] else d.fathomRange) n n part).map (fun r =>
      (r.2.workId * 2 ^ 48 + r.2.pageBase r.1, r.2))

/-- Builds the leaves of a mapping entry. -/
def Dev.buildMap (d : Dev) (part root : Nat) (pool : TablePool) (m : MapEntry) : Option (TablePool × Dev) :=
  let size := leafBytes m.leaf
  (List.range (m.count * 65536 / size)).foldlM (fun (r : TablePool × Dev) i =>
    (r.2.leafTarget part m i).bind (fun t => t.2.mapLeaf part root (m.dva + i * size) m.leaf t.1 m.rights r.1)) (pool, d)

/-- The highest free page of the DVA range below the host window, for the environment block (R482). -/
def Dev.envDva (d : Dev) (part : Nat) : Nat :=
  let used := fun (a : Nat) => (d.mapsOf part).any (fun m => m.dva ≤ a && a < m.dva + m.count * 65536)
  let at_ := fun (i : Nat) => hostBase - (i + 1) * 65536
  at_ (((List.range 65536).find? (fun i => !used (at_ i))).getD 0)

/-- The environment block's page of a partition with harts (R482). -/
def Dev.buildEnv (d : Dev) (part root : Nat) (pool : TablePool) (range : Nat × Nat) : Option Dev := do
  let r ← d.takeRun [range] 1 1 part
  let dva := d.envDva part
  let pa := d.pageBase r.1
  let m ← r.2.mapLeaf part root dva 0 (d.workId * 2 ^ 48 + pa) 1 pool
  some (m.2.updBoot (fun b => { b with env := b.env ++ [(part, dva, pa)] }))

/-- Builds the tables of a partition in its band (R547, R548), and points MMU_ROOT of every die at them. -/
def Dev.buildPart (d : Dev) (part : Nat) : Option Dev := do
  let r := d.charter.parts.getD part {}
  let range := d.bandPages r.tableBand r.tableGib
  let (root, pool, d) ← d.takeTable part { lo := range.1, hi := range.2, own := d.workId }
  let (pool, d) ← (d.mapsOf part).foldlM (fun (x : TablePool × Dev) m => x.2.buildMap part root x.1 m) (pool, d)
  let d ← if r.harts = 0 then some d else d.buildEnv part root pool range
  some (d.dies.foldl (fun d die => (d.wr die (Reg.MMU_ROOT.VALID.at 8 part) 1).wr die (Reg.MMU_ROOT.ROOT.at 8 part) (root / 4096)) d)

/-- A partition that the charter does not define has no root (R322, R342). -/
def Dev.dropRoot (d : Dev) (part : Nat) : Dev :=
  d.dies.foldl (fun d die => (d.wr die (Reg.MMU_ROOT.VALID.at 8 part) 0).wr die (Reg.MMU_ROOT.ROOT.at 8 part) 0) d

/-- Builds the tables of every partition. -/
def Dev.buildTables (d : Dev) : Except Halt Dev :=
  (List.range 16).foldlM (fun (d : Dev) p => if d.charter.defined p then orHalt (noPages 2 p) (d.buildPart p) else .ok (d.dropRoot p)) d

/-- The leaf of a DVA in the tables that boot has built: target and rights. -/
def Dev.builtLeaf (d : Dev) (part dva : Nat) : Option (Nat × Nat) :=
  (d.leafAt d.workId part (d.rd 0 (Reg.MMU_ROOT.ROOT.at 8 part) * 4096) dva).map (fun e => (e.target + (dva - e.dva), e.rights))

/-- The DRAM of this package that a DVA leads to. -/
def Dev.builtDram (d : Dev) (part dva : Nat) : Option Nat :=
  match d.builtLeaf part dva with
  | none => none
  | some (t, _) =>
    if t / 2 ^ 48 ≠ d.workId then none
    else match d.region (t % 2 ^ 48) with
      | .stacked | .fathom => some (t % 2 ^ 48)
      | _ => none

/-- Bytes of a range at each home, added to a count by partition × 8 + die. -/
def Dev.addHomes (d : Dev) (part dva n : Nat) (m : KMap Nat) : KMap Nat :=
  (granuleSegs dva n).foldl (fun m s => match d.builtDram part s.1 with
    | some pa => KMap.upd 0 m (part * 8 + d.homeDie pa) (· + s.2)
    | none => m) m

/-- The entries of the model table that apply here, with their indices (R553). -/
def Dev.modelsHere (d : Dev) : List (ModelEntry × Nat) := d.charter.kern.models.zipIdx.filter (fun m => d.appliesHere m.1.forId)

/-- What the model images put at a range of a partition's addresses (R553), where one of them covers it. -/
def Dev.imageAt (d : Dev) (part dva n : Nat) : Option (List Byte) :=
  d.modelsHere.findSome? (fun m =>
    if m.1.partition = part ∧ m.1.dva ≤ dva ∧ dva + n ≤ m.1.dva + m.1.bytes then
      (d.brd.images.getD m.2 none).map (fun b => (b.drop (dva - m.1.dva)).take n)
    else none)

/-- The pages of a KV page table that a model image brings (R267): first stage slot, stage slots, recent slots, backings. Boot knows no other (assumption 26). -/
def Dev.kvPages (d : Dev) (part dva : Nat) : Option (Nat × Nat × Nat × List Nat) :=
  (d.imageAt part dva 64).map (fun b =>
    let stage := fld b 14 2
    let at_ := dva + alignUp (64 + 4 * stage) 16
    let backs := (d.imageAt part at_ (16 * fld b 8 4)).getD []
    (fld b 16 8, stage, fld b 12 2, ((List.range (backs.length / 16)).map (fun i => fld backs (16 * i) 8)).filter (· ≠ 0)))

/-- What a move entry charges (R250): a KV entry its pages at the homes of the backings and at those of the slots, of which each takes its share where they have
several homes, and 4 KiB at the home of its table. -/
def Dev.addMove (d : Dev) (e : MoveEntry) (m : KMap Nat) : KMap Nat :=
  let p := e.partition
  match e.kind with
  | 1 => d.addHomes p e.src e.amount (d.addHomes p e.dst e.amount m)
  | 2 | 5 => d.addHomes p e.dst e.amount m
  | 6 => d.addHomes p e.src e.amount m
  | _ =>
    let m := d.stewardDies.foldl (fun m die => KMap.upd 0 m (p * 8 + die) (· + e.amount * 65536 / d.stewardDies.length)) m
    let m := match d.kvPages p e.src with
      | some (base, stage, recent, _) =>
        let first := if e.kind = 3 then base else base + stage * 65536
        let n := if e.kind = 3 then stage else recent
        (d.addHomes p first (n * 65536) []).foldl (fun m h => KMap.upd 0 m h.1 (· + ceilDiv (e.amount * h.2) (max 1 n))) m
      | none => m
    match d.builtDram p e.src with
    | some pa => KMap.upd 0 m (p * 8 + d.homeDie pa) (· + 4096)
    | none => m

/-- The Fit rule of a schedule (R250): the first pattern that exceeds a budget. -/
def Dev.fitFails (d : Dev) (s : Sched) : Option Nat :=
  s.movesBy.findIdx? (fun x => (x.2.foldl (fun m e => d.addMove e m) []).any (fun c => d.budget (c.1 % 8) (c.1 / 8) * 4096 < c.2))

/-- The ring of a flow lies in pages of its partition (R434). -/
def Dev.ringOwned (d : Dev) (e : FlowEntry) : Bool :=
  (pageSegs e.ringDva (e.slotCount * e.slotBytes)).all (fun s => match d.builtDram e.partition s.1 with
    | some pa => decide (d.ownerOf (d.pageIndex pa) = e.partition)
    | none => false)

/-- A range lies in memory that a plan for a set of dies keeps (R202): no package-interleaved band, no die left out. -/
def Dev.rangeKept (d : Dev) (mask part dva n : Nat) : Bool :=
  (pageSegs dva n).all (fun s => match d.builtDram part s.1 with
    | some pa =>
      (match d.region pa with
        | .stacked => !bit (d.rd 2 Reg.MEMC_BAND_MODE.MODE) (pa / (d.nd * 2 ^ 30)) && bit mask (d.homeDie pa)
        | _ => true)
    | none => true)

/-- The KV pages of a move entry that boot knows lie in memory that a plan keeps (R202). -/
def Dev.kvKept (d : Dev) (mask : Nat) (m : MoveEntry) : Bool :=
  match d.kvPages m.partition m.src with
  | some (base, stage, recent, backs) =>
    d.rangeKept mask m.partition base ((stage + recent) * 65536) && backs.all (fun a => d.rangeKept mask m.partition a 65536)
  | none => true

/-- A degraded plan's span addresses, flow slots, move-list targets and KV pages lie in memory that it keeps (R202). -/
def Dev.planKept (d : Dev) (p : Plan) : Bool :=
  p.dieId ≠ d.workId || p.dieMask = d.dieMask
    || (p.sched.spans.all (fun e => [e.argDva, e.statusDva].all (fun a => a = 0 || d.rangeKept p.dieMask e.partition a 1)
          && (e.saveBytes = 0 || d.rangeKept p.dieMask e.partition e.saveDva (e.saveBytes * popcount (p.sched.groups.getD e.group 0) 2112)))
      && p.sched.moves.all (fun m => if m.kind = 3 || m.kind = 4 then d.kvKept p.dieMask m else (d.rangeKept p.dieMask m.partition m.dst m.amount && d.rangeKept p.dieMask m.partition m.src m.amount))
      && d.charter.flows.all (fun e => e.kind = 0 || d.rangeKept p.dieMask e.partition e.ringDva (e.slotCount * e.slotBytes)))

/-- The rules that need the tables (R202, R250, R434, R556). -/
def Dev.builtChecks (d : Dev) : Option Halt :=
  match d.fitFails d.charter.sched with
  | some i => some (0x05, 4 * 4096 + i)
  | none => firstFailure (checkEach 7 d.charter.flows (fun e => e.kind = 0 || d.ringOwned e)
      ++ checkEach 11 d.charter.plans (fun p => (d.fitFails p.sched).isNone && d.planKept p))

/-- Writes the same value for each partition. -/
def Dev.wrParts (d : Dev) (die stride : Nat) (f : Fld) (g : QuotRec → Nat) : Dev :=
  (List.range 16).foldl (fun d p => d.wr die (f.at stride p) (g (d.charter.quots.getD p {}))) d

/-- The registers of the tick unit (R37, R68 to R70). -/
def Dev.loadTick (d : Dev) : Dev :=
  let s := d.sched
  let d := d.wr 0 Reg.TICK_PERIOD.PERIOD s.period
  let d := ((((((d.wr 0 Reg.TICK_CTRL.SRC_PRI s.srcPri).wr 0 Reg.TICK_CTRL.SRC_ALT s.srcAlt).wr 0
    Reg.TICK_CTRL.REQ_LOCK (b2n s.reqLock)).wr 0 Reg.TICK_CTRL.TICK_IN_EDGE (b2n s.tickInEdge)).wr 0 Reg.TICK_CTRL.PTP_DOMAIN s.ptpDomain).wr 0
    Reg.TICK_CTRL.TICK_OUT_WIDTH s.tickOutWidth)
  d.dies.foldl (fun d die => (d.wr die Reg.TICK_SCHED.PATTERN_COUNT s.patterns.length).wr die Reg.TICK_SCHED.FLOOR_OPP s.floorOpp) d

/-- The registers of the power controller (R588) and its first points: OPP_MIN. -/
def Dev.loadPower (d : Dev) : Dev :=
  let p := d.charter.pwr
  let d := (((((((d.wr 0 Reg.PWR_CTRL.GATE_US p.gateUs).wr 0 Reg.PWR_CTRL.CAP_W p.capW).wr 0 Reg.PWR_CTRL.STEWARD_MHZ p.stewardMhz).wr 0
    Reg.PWR_CTRL.KEEPER_Q p.keeperQ).wr 0 Reg.PWR_CTRL.POLICY p.policy).wr 0 Reg.PWR_CTRL.OPP_MAX p.oppMax).wr 0 Reg.PWR_CTRL.OPP_MIN p.oppMin)
  let d := (d.wr 0 Reg.PWR_STATUS.OPP_CUR p.oppMin).wr 0 Reg.PWR_STATUS.OPP_NEXT p.oppMin
  ((d.updPower (fun x => { x with allowance := p.oppMin })).updLeague (fun l => { l with oppNext2 := p.oppMin })).setRails [p.oppMin]

/-- Caches, masks and budgets of the compute dies (R213, R216, R263) and of the steward dies. -/
def Dev.loadQuotas (d : Dev) : Dev :=
  let d := d.computeDies.foldl (fun (d : Dev) die =>
    let d := (List.range 22).foldl (fun (d : Dev) c =>
      ((d.wr die (chainFld Reg.CHAIN_CTRL.EN c) 1).wr die (chainFld Reg.CHAIN_CTRL.PF_EN c) 1).wrParts die 8 (chainFld Reg.CHAIN_WAYMASK.MASK c) (·.chainMask)) d
    (d.wrParts die 8 Reg.MEMC_SC_WAYMASK.MASK (fun q => q.scMask.getD (die - 2) 0)).wrParts die 8 Reg.MEMC_BW_BUDGET.BUDGET (fun q => q.stackedBw.getD (die - 2) 0)) d
  let d := d.stewardDies.foldl (fun (d : Dev) die =>
    (d.wrParts die 8 Reg.BMC_SC_WAYMASK.MASK (fun q => q.stewardMask.getD die 0)).wrParts die 8 Reg.BMC_BW_BUDGET.BUDGET (fun q => q.fathomBw.getD die 0)) d
  (d.wrParts 0 16 Reg.BMC_PAGES_STACKED.QUOTA (·.stackedPages)).wrParts 0 16 Reg.BMC_PAGES_FATHOM.QUOTA (·.fathomPages)

/-- The league's registers: slot, slice, role and ID (R388, R421), and the routes of ROUT (R554). -/
def Dev.loadLink (d : Dev) : Dev :=
  let t := d.charter.topo
  let n := (t.slotOf d.nv.serial).getD 0
  let s := t.slots.getD n {}
  let d := (((d.wr 0 Reg.LINK_CFG.FW_STRICT (bits d.charter.head.flags 0 1)).wr 0 Reg.LINK_CFG.SLOT n).wr 0 Reg.LINK_CFG.SLICE s.slice).wr 0
    Reg.LINK_CFG.ROLE (if t.slots.length ≤ 1 then 0 else s.role)
  let d := d.wr 0 Reg.LINK_CFG.PKG_ID s.id
  d.charter.rout.zipIdx.foldl (fun (d : Dev) x =>
    ((d.wr 0 (Reg.LINK_ROUTE.VALID.at 8 x.2) (bits x.1 63 1)).wr 0 (Reg.LINK_ROUTE.SLICE.at 8 x.2) (bits x.1 40 6)).wr 0 (Reg.LINK_ROUTE.SLOT.at 8 x.2) (bits x.1 32 6)) d

/-- Stream I/O and host interface (R450, R451, R526), the tables' sizes (R380) and the owner table (R279). -/
def Dev.loadRest (d : Dev) : Dev :=
  let d := (d.wr d.sioDie Reg.SIO_CTRL.FLOW_COUNT d.charter.flows.length).wr d.sioDie Reg.SIO_CTRL.EXC_UNMATCHED (b2n d.charter.excUnmatched)
  let d := (0 :: d.computeDies).foldl (fun (d : Dev) die =>
    (d.wr die Reg.COLL_TABLE_SIZE.MEMBERS d.sched.collMembers.length).wr die Reg.COLL_TABLE_SIZE.DEFS d.sched.collDefs.length) d
  let d := d.charter.host.zipIdx.foldl (fun (d : Dev) x =>
    (((d.wr 0 (Reg.HIF_Q_BIND.VALID.at 8 x.2) (bits x.1 63 1)).wr 0 (Reg.HIF_Q_BIND.PART.at 8 x.2) (bits x.1 48 4)).wr 0
      (Reg.HIF_Q_BIND.GROUP.at 8 x.2) (bits x.1 32 12)).wr 0 (Reg.HIF_Q_BIND.MAX_DEPTH.at 8 x.2) (bits x.1 0 13)) d
  d.wr 0 Reg.BMC_OWN_BASE.BASE fathomBase

/-- The flow entries take the EARLIEST_NS that boot writes (R443). -/
def Charter.withEarliest (c : Charter) : Charter := { c with flows := c.flows.map (fun e => { e with earliestNs := c.earliest e }) }

/-- Step 7 of R536 at a cold start. -/
def Dev.configure (d : Dev) (copy : List Byte) (signed : Nat) : Except Halt Dev := do
  let d := { d with charter := d.charter.withEarliest }.loadLink
  let d := d.computeDies.foldl (fun d die => d.wr die Reg.MEMC_BAND_MODE.MODE d.charter.topo.bandMode) d
  let d := d.loadTick.loadQuotas.loadRest
  let d ← d.pinAll
  let d ← orHalt (noPages 4 0) d.placeTables
  let d ← orHalt (noPages 5 0) d.placeKernels
  let d ← orHalt (noPages 7 0) (d.placeRest copy signed)
  let d ← d.buildTables
  match d.builtChecks with
  | some h => .error h
  | none => .ok (d.loadPower)

end Sys2Proof.Machine
end

