-- ==== Sys2Proof/Machine/BootOps.lean ====
section
/-! DEFINITION. Boot (R535 to R558): firmware, charter, memory, configuration, model images, readiness, and the halt. -/

namespace Sys2Proof.Machine

/-- BOOT_STATE.STAGE (R567). -/
def Dev.stage (d : Dev) : Nat := d.rd 0 Reg.BOOT_STATE.STAGE

/-- Enters a stage of boot. -/
def Dev.setStage (d : Dev) (n : Nat) : Dev := d.wr 0 Reg.BOOT_STATE.STAGE n

/-- Boot waits in a step of R536. -/
def Dev.waitIn (d : Dev) (step : Nat) : Dev := d.updBoot (fun b => { b with wait := step })

/-- Offset of the register that a key of the register store names. -/
def keyOff (k : Nat) : Nat := k % 2 ^ 40 / 64

/-- GLB, BOOT and HIF blocks: they keep their values through a halt (R557). -/
def viewOff (o : Nat) : Bool := o < 0x10000 || (0x2500000 ≤ o && o < 0x2510000) || (0x2700000 ≤ o && o < 0x2710000)

/-- The fuses and the words of S0's OTP show in their registers (R34, R570, R593, R594). -/
def Dev.applyFuses (d : Dev) : Dev :=
  let dies := if d.nv.part = 1 then [0, 2, 3, 4] else List.range 8
  let d := dies.foldl (fun (d : Dev) die =>
    let fuse := KMap.get 0 d.nv.dieFuse die
    let d := ((d.wr die Reg.GLB_DIE_ID.SERIAL (fuse / 256)).wr die Reg.GLB_DIE_ID.REV_MAJOR (fuse / 16)).wr die Reg.GLB_DIE_ID.REV_MINOR fuse
    (((d.wr die Reg.GLB_DIE_ID.PART d.nv.part).wr die Reg.GLB_DIE_ID.KIND (if stewardSite die then 1 else 2)).wr die Reg.PWR_VTABLE.VCODE
      (KMap.get 0 d.nv.vtable die)).wr die Reg.PWR_IDLE.IDLE_W (KMap.get 0 d.nv.idleW die)) d
  ((d.wr 0 Reg.BOOT_OTP.FLOOR (d.nv.rollback.getLast?.getD 0)).wr 0 Reg.BOOT_OTP.FLOOR_LEFT (64 - d.nv.rollback.length)).wr 0 Reg.BOOT_OTP.KEY_VALID
    (b2n d.nv.keyHash.isSome)

/-- Every unit is as R535 has it: perches off, cores in reset, caches, translations and requests gone. -/
def Dev.unitsOff (d : Dev) : Dev :=
  { d with perches := [], spans := [], conts := [], runs := [], spanStarts := [], lateIn := [], overrunDue := false, moves := [], nvme := [], colls := [], noPlane := [], tlb := [],
           walks := [], tlbTree := [], walkTree := [], chains := KMap.mapV {} (fun _ c => { cache := { c.cache with lines := [], trees := [] } }) d.chains,
           sysCache := KMap.mapV {} (fun _ c => { c with lines := [], trees := [] }) d.sysCache, wcb := [], stew := [], coreCache := [], findings := [], charge := [], held := [], peerHeld := [], harts := [],
           invCmd := none, ownCmd := none, remote := [], sio := {}, power := {} }

/-- Registers return to their reset values, but for those of blocks that `keep` names (R12). -/
def Dev.clearRegs (d : Dev) (keep : Nat → Bool) : Dev := { d with regs := KMap.dropIf (fun k => !keep k) d.regs }.applyFuses

/-- A halt of boot (R557): the units return to the state of R535, and vector 5 is raised. -/
def Dev.bootHalt (d : Dev) (h : Halt) : Dev :=
  let ms := d.bootMs
  let d := { d.unitsOff with gen := {}, league := {} }.clearRegs (fun k => viewOff (keyOff k))
  let d := ((((d.setStage 9).wr 0 Reg.BOOT_STATE.HALT h.1).wr 0 Reg.BOOT_STATE.DETAIL h.2).wr 0 Reg.BOOT_STATE.ELAPSED_MS ms).wr 0 Reg.HIF_STATUS.IN_RESET 0
  (d.updBoot (fun b => { b with wait := 0, ready := false, resetDue := 0 })).raiseEvent 5

/-- Goes on, or halts. -/
def orBootHalt (d : Dev) (r : Except Halt Dev) (f : Dev → Dev) : Dev :=
  match r with
  | .ok d => f d
  | .error h => d.bootHalt h

/-- Bytes of the flash from an offset. -/
def Dev.flashSrc (d : Dev) (base i : Nat) : Byte := KMap.get 0xFF#8 d.nv.flash (base + i)

/-- A good charter header: HEAD with its CRC, magic and format (R542, R545). -/
def headOk (b : Nat → Byte) : Bool :=
  let len := le b 4 4
  srcList b 0 4 = [0x48, 0x45, 0x41, 0x44] && len ≤ 4096 && crc32 (srcList b 16 len) = le b 8 4 && le b 16 4 = 0x48435847 && le b 20 2 = 1

/-- The two charter copies, BOOT_STATE.COPY code and offset, in the order in which boot tries them (R538, R544). -/
def Dev.copyOrder (d : Dev) : List (Nat × Nat) :=
  let rank := fun (base : Nat) => if headOk (d.flashSrc base) then le (d.flashSrc base) 24 4 + 1 else 0
  if rank 0x1000000 < rank 0x4800000 then [(2, 0x4800000), (1, 0x1000000)] else [(1, 0x1000000), (2, 0x4800000)]

/-- What a charter is checked against. -/
def Dev.facts (d : Dev) : Facts :=
  { sh4 := d.sh4, serial := d.nv.serial, fwVersion := d.rd 0 Reg.BOOT_CHARTER.FW_VERSION, fathomGib := d.brd.fathomGib, ssds := d.brd.ssds,
    found := d.dies.filter d.placed }

/-- The checks of a charter copy (R543, R544, R556, R570). -/
def Dev.checkCopy (d : Dev) (base : Nat) : Except Halt CharterCopy :=
  match parseCharter (d.flashSrc base) with
  | none => .error (0x02, 0)
  | some c =>
    if d.nv.keyHash ≠ some (sha384 c.pubkey) ∨ !ecdsaVerify c.pubkey c.digest c.sigR c.sigS then .error (0x03, 0)
    else if c.charter.head.seq < d.rd 0 Reg.BOOT_OTP.FLOOR then .error (0x04, 0)
    else match firstFailure (charterChecks d.facts c.charter d.edgeEnds) with
      | some h => .error h
      | none => .ok c

/-- The first copy that passes every check, or the cause of the copy with the higher SEQ (R544). -/
def Dev.chooseCopy (d : Dev) : Except Halt (Nat × CharterCopy) :=
  match d.copyOrder with
  | [a, b] =>
    (match d.checkCopy a.2 with
      | .ok c => .ok (a.1, c)
      | .error h => match d.checkCopy b.2 with
        | .ok c => .ok (b.1, c)
        | .error _ => .error h)
  | _ => .error (0x02, 0)

/-- The plan for the dies found (R33). -/
def Dev.bootPlan (d : Dev) : Nat := d.pickAlone.getD 0

/-- The charter is accepted (R544, R565, R569). -/
def Dev.acceptCharter (d : Dev) (code : Nat) (c : CharterCopy) : Dev :=
  let d := { d with charter := c.charter }.updBoot (fun b => { b with copyUsed := code, copyAt := (0, c.charter.head.totalLen, c.signed), env := [] })
  let d := (d.wr 0 Reg.BOOT_STATE.COPY code).wr 0 Reg.BOOT_CHARTER.SEQ c.charter.head.seq
  let n := leNat c.digest
  let d := (d.dies.filter d.placed).foldl (fun (d : Dev) die =>
    (List.range 6).foldl (fun (d : Dev) i => d.wr die (Reg.GLB_CHARTER_DIGEST.DIGEST.at 8 i) (bits n (64 * i) 64)) d) d
  let d := d.loadLink
  d.wr 0 Reg.RAS_PKG.PLAN d.bootPlan

/-- The segments of the journal with a good header, by SEGMENT_SEQ (R540, R541). -/
def Dev.journalSegments (d : Dev) : List Nat :=
  let at_ := fun (i : Nat) => 0x900000 + i * 65536
  let good := (List.range 112).filter (fun i =>
    let b := d.flashSrc (at_ i)
    le b 0 4 = 0x4A524E4C && crc32 (srcList b 0 8) = le b 8 4)
  (sortBy (fun i => le (d.flashSrc (at_ i)) 4 4) good).map at_

/-- The records of a segment up to the first erased one: their bytes. -/
def Dev.segmentRecords (d : Dev) (base : Nat) : List (List Byte) :=
  ((List.range 2047).map (fun j => srcList (d.flashSrc (base + 32 + 32 * j)) 0 32)).takeWhile (fun r => fld r 0 1 ≠ 0xFF)

/-- Applies one record of the journal (R541). -/
def Dev.applyRecord (d : Dev) (r : List Byte) : Dev :=
  let type := fld r 0 1
  if crc32 (r.take 28) ≠ fld r 28 4 then d.inc 0 Reg.BOOT_JOURNAL.BAD 1
  else if type = 1 then
    let bk := (fld r 1 1 * 128 + fld r 2 1) * 32 + fld r 3 1
    let d := d.inc 0 Reg.BOOT_JOURNAL.RECORDS 1
    { d with rowMaps := KMap.upd 0 d.rowMaps (rowKey (fld r 1 1) (fld r 2 1) (fld r 3 1) (fld r 4 2)) (· + 1),
             bankSpares := KMap.upd 0 d.bankSpares bk (fun n => max n (fld r 6 1 + 1)) }
  else if type = 2 then
    let d := d.inc 0 Reg.BOOT_JOURNAL.RECORDS 1
    match d.region (fld r 8 8) with
    | .stacked | .fathom =>
      let page := d.pageIndex (fld r 8 8)
      if d.ownerOf page = 0xFD then d else (d.inc 0 Reg.BOOT_JOURNAL.RETIRED 1).setOwner page 0xFD
    | _ => d
  else d

/-- The memories found show in BMC_STATUS (R276). -/
def Dev.showMemory (d : Dev) : Dev :=
  d.stewardDies.foldl (fun (d : Dev) die =>
    ((d.wr die Reg.BMC_STATUS.PRESENT 0xFF).wr die Reg.BMC_STATUS.TRAINED 0xFF).wr die Reg.BMC_STATUS.CAP_GIB d.charter.topo.fathomGib) d

/-- Step 6 of R536: the memories are trained and zeroed, the owner table begins (R261), and the journal's repairs are applied. -/
def Dev.initMemory (d : Dev) : Dev :=
  let d := d.showMemory
  let d := { d with mem := [], poison := [], flaws := [], spadPoison := [], owner := [], rowMaps := [], bankSpares := [], rowTrack := [], fathomCorr := [], pagePend := [], pageLate := [],
                    kernelPa := [] }
  let d := d.liveCompute.foldl (fun (d : Dev) die => d.incMod die Reg.MEMC_WR_BYTES.BYTES (d.stackedSize / d.nd)) d
  let d := (List.range 16).foldl (fun (d : Dev) p =>
    (d.wr 0 (Reg.BMC_PAGES_STACKED.USED.at 16 p) 0).wr 0 (Reg.BMC_PAGES_FATHOM.USED.at 16 p) 0) d
  let d := (List.range 1024).foldl (fun (d : Dev) i => d.setOwner (d.stackedPages + i) 0xFE) d
  let d := ((d.wr 0 Reg.BOOT_JOURNAL.RECORDS 0).wr 0 Reg.BOOT_JOURNAL.BAD 0).wr 0 Reg.BOOT_JOURNAL.RETIRED 0
  let d := d.journalSegments.foldl (fun d base => (d.segmentRecords base).foldl (fun d r => d.applyRecord r) d) d
  d.wr 0 Reg.BOOT_JOURNAL.ERASED d.erasedSegments

/-- The package is READY (R536 step 10, R558): in a league the manager takes epoch 1, and the others ask to join. A package that a reset has taken from
its league rejoins it (R416, R418). -/
def Dev.bootReady (d : Dev) : Dev :=
  let d := (d.updBoot (fun b => { b with ready := true, wait := 0 })).updLeague (fun l => { l with waited := false })
  if !d.inLeague then d
  else
    let d := if d.stage = 10 then d else d.setStage 7
    let again := d.boot.again
    if d.isManager then
      let d := if again then d else d.wr 0 Reg.LINK_EPOCH.NEXT 1
      let d := d.wr 0 Reg.LINK_STATE.LEAGUE 2
      match d.takeEpoch with
      | (none, d) => d
      | (some n, d) =>
        (d.updPkg d.pkgId (fun _ => { joined := true, answered := true, allowance := d.rd 0 Reg.PWR_CTRL.OPP_MIN })).sendEntries
          [{ id := d.pkgId, valid := true, slice := d.rd 0 Reg.LINK_CFG.SLICE, slot := d.rd 0 Reg.LINK_CFG.SLOT, epoch := n, effective := d.tick }]
    else if again then d.wr 0 Reg.LINK_STATE.LEAGUE 3
    else
      let d := (d.wr 0 Reg.LINK_STATE.LEAGUE 1).sendJoin
      if d.lostDies = 0 then d else d.emit (.mgmt (.dieFailed d.pkgId d.lostDies))

/-- A model-table entry is placed through its partition's tables (R553): none on a read error, a translation fault or a wrong digest. -/
def Dev.loadModel (d : Dev) (i : Nat) (m : ModelEntry) : Option Dev :=
  if m.bytes = 0 then some d
  else
    let d := d.emit (.nvme m.port i m.nsid false m.lba m.bytes [])
    match d.brd.images.getD i none with
    | none => none
    | some b =>
      if b.length ≠ m.bytes ∨ sha384 b ≠ m.digest then none
      else (pageSegs m.dva m.bytes).foldlM (fun (d : Dev) s =>
        match d.builtLeaf m.partition s.1, d.builtDram m.partition s.1 with
        | some (_, rights), some pa =>
          if bit rights 1 ∧ d.ownerOf (d.pageIndex pa) = m.partition then some (d.devWrite pa ((b.drop (s.1 - m.dva)).take s.2)) else none
        | _, _ => none) d

/-- Loads the model images in table order (R553, R568). -/
def Dev.loadModels (d : Dev) : Except Halt Dev :=
  d.modelsHere.foldlM (fun (d : Dev) m =>
    (orHalt (0x08, m.2) (d.loadModel m.2 m.1)).map (fun d => d.wr 0 Reg.BOOT_PROGRESS.LOADED_MIB (d.rd 0 Reg.BOOT_PROGRESS.LOADED_MIB + ceilDiv m.1.bytes (2 ^ 20)))) d

/-- The NVMe ports that TOPO names are ready (R460). -/
def Dev.portsReady (d : Dev) : Dev :=
  (List.range 8).foldl (fun (d : Dev) p => if bit d.charter.topo.nvmePorts p then d.wr d.sioDie (Reg.SIO_NVME_STATUS.STATE.at 8 p) 1 else d) d

/-- Steps 8 to 10 of R536: the SSDs are ready, the images are loaded, and the package is READY. -/
def Dev.bootLoad (d : Dev) : Dev :=
  let d := d.setStage 6
  let d := d.portsReady
  let d := (d.wr 0 Reg.BOOT_PROGRESS.TOTAL_MIB (d.modelsHere.foldl (fun n m => n + ceilDiv m.1.bytes (2 ^ 20)) 0)).wr 0 Reg.BOOT_PROGRESS.LOADED_MIB 0
  orBootHalt d d.loadModels Dev.bootReady

/-- Step 7 of R536, and the wait for the SSDs (step 8). -/
def Dev.bootConfigure (d : Dev) : Dev :=
  let d := d.setStage 5
  let base := if d.boot.copyUsed = 1 then 0x1000000 else 0x4800000
  let (_, len, signed) := d.boot.copyAt
  orBootHalt d (d.configure (srcList (d.flashSrc base) 0 len) signed) (fun d =>
    let d := d.tickAcquire
    if d.brd.hangNvme then d.waitIn 8 else d.bootLoad)

/-- Step 6 of R536. -/
def Dev.bootMemory (d : Dev) : Dev :=
  let d := d.setStage 4
  if d.brd.hangMem then d.waitIn 6
  else if !d.brd.memOk then d.bootHalt (0x06, 0)
  else d.initMemory.bootConfigure

/-- Step 4 of R536. -/
def Dev.bootCharter (d : Dev) : Dev :=
  let d := d.setStage 3
  match d.chooseCopy with
  | .error h => d.bootHalt h
  | .ok (code, c) => (d.acceptCharter code c).bootMemory

/-- Step 3 of R536: the boot ROM runs the valid firmware copy with the higher version (R537). -/
def Dev.bootFirmware (d : Dev) : Dev :=
  let d := d.setStage 2
  if d.brd.hangFw then d.waitIn 3
  else
    let pick : Option (Nat × Nat) := match d.brd.fwA, d.brd.fwB with
      | some a, some b => if a < b then some (2, b) else some (1, a)
      | some a, none => some (1, a)
      | none, some b => some (2, b)
      | none, none => none
    match pick with
    | none => d.bootHalt (0x0C, 0)
    | some (code, v) => (((d.updBoot (fun b => { b with fwUsed := code })).wr 0 Reg.BOOT_STATE.FW_COPY code).wr 0 Reg.BOOT_CHARTER.FW_VERSION v).bootCharter

/-- The kept charter copy still has the digest that was accepted (R562). -/
def Dev.copyIntact (d : Dev) : Bool :=
  let (pa, _, signed) := d.boot.copyAt
  let b := d.peek pa signed
  !anyPoison b && leNat (sha384 (plain b)) = d.digest

/-- The memories leave self-refresh and show what was found (R617 step 7), and the BOOT block shows what is in use and runs (R567, R571, R573). -/
def Dev.wake (d : Dev) : Dev :=
  let d := (d.computeDies.foldl (fun (d : Dev) die => d.wr die Reg.MEMC_STATUS.SELF_REFRESH 0) d).showMemory
  (((d.wr 0 Reg.BOOT_STATE.COPY d.boot.copyUsed).wr 0 Reg.BOOT_STATE.FW_COPY d.boot.fwUsed).wr 0 Reg.BOOT_JOURNAL.ERASED d.erasedSegments).wr 0
    Reg.BOOT_FLASH_CMD.BUSY (b2n d.boot.flashOp.isSome)

/-- The rebuild of a device reset (R561, R562, R617 steps 7 and 8). -/
def Dev.rebuild (d : Dev) : Dev :=
  let d := d.wake.wr 0 Reg.RAS_PKG.PLAN d.bootPlan
  let fit := dieCheck d.facts d.charter d.ownSlot
  if !fit.ok then d.bootHalt (fit.code, fit.sec * 4096)
  else if d.copyIntact then
    let d := d.loadTick.loadQuotas.loadRest.loadPower
    d.portsReady.bootReady
  else (d.wr 0 Reg.BOOT_STATE.DETAIL 0xFFFF).bootFirmware

/-- Discovery goes on with what the edges have shown (R30, R31): it waits while one trains. -/
def Dev.bootDiscover (d : Dev) : Dev :=
  if !d.edgesKnown then d.showTraining.waitIn 2
  else
    let d := (d.waitIn 0).endDiscovery
    if d.stage = 10 then d.rebuild else d.bootFirmware

/-- Step 2 of R536: discovery begins. -/
def Dev.bootStart (d : Dev) (b : Board) : Dev :=
  (d.updBoot (fun x => { x with board := some b, evidence := b.edges, isolated := b.isolated, absent := [], wait := 0, ready := false, noAck := [], stopped := [],
                                edgeFails := [] })).bootDiscover

end Sys2Proof.Machine
end

