-- ==== Sys2Proof/Machine/SealOps.lean ====
section
/-! DEFINITION. Seal (R481 to R483, R559), and the device reset (R225, R478, R561, R616, R617). -/

namespace Sys2Proof.Machine

/-- PMP entries of resident software (R483): S and U mode reach no control space, and everything else by their tables (assumption 46). -/
def Hart.withPmp (t : Hart) : Hart :=
  (((t.setC 0x3B0 (controlBase / 4 + 2 ^ 32 - 1)).setC 0x3BF (2 ^ 54 - 1)).setC 0x3A0 0x18).setC 0x3A2 (0x1F * 2 ^ 56)

/-- A core that runs resident software after seal: M mode at the boot ROM (assumption 46). -/
def residentHart : Hart := Hart.withPmp { running := true, core := { pc := bootBase } }

/-- The state in which a core of a partition is entered (R481). -/
def Dev.partHart (d : Dev) (part h ordinal count : Nat) : Hart :=
  let env := ((d.boot.env.find? (fun e => e.1 = part)).map (·.2.1)).getD 0
  let core : RvCore := { pc := (d.charter.parts.getD part {}).entryDva }
  let core := (((core.sx 64 10 h).sx 64 11 env).sx 64 12 ordinal).sx 64 13 count
  let t : Hart := { running := true, core := core, priv := 1 }
  ((((t.setC 0x180 (9 * 2 ^ 60 + part * 2 ^ 44 + d.rd 0 (Reg.MMU_ROOT.ROOT.at 8 part))).setC 0x7C0 (2 ^ 63 + part)).setC 0x300 0x2200).setC 0x14D
    (2 ^ 64 - 1)).withPmp

/-- The environment block of a partition (R482). -/
def Dev.envBlock (d : Dev) (part : Nat) : List Byte :=
  leBytes 2 1 ++ leBytes 1 part ++ leBytes 1 (if d.inLeague then d.pkgId else 0) ++ leBytes 4 d.period ++ leBytes 8 d.tick
    ++ leBytes 16 (d.charter.parts.getD part {}).harts ++ leBytes 4 (d.charter.quots.getD part {}).stackedPages
    ++ leBytes 4 (d.charter.quots.getD part {}).fathomPages ++ leBytes 24 0

/-- The cores of the part. -/
def Dev.allHarts (d : Dev) : List Nat := (List.range 128).filter (fun h => d.hartOk h && d.placed (h / 64))

/-- Resident software enters every core (R480, R481). -/
def Dev.enterHarts (d : Dev) : Dev :=
  let d := d.boot.env.foldl (fun (d : Dev) e => d.devWrite e.2.2 (d.envBlock e.1)) d
  let d := d.allHarts.foldl (fun (d : Dev) h => d.updHart h (fun _ => residentHart)) d
  (List.range 16).foldl (fun (d : Dev) p =>
    let mine := d.allHarts.filter (fun h => bit (d.charter.parts.getD p {}).harts h)
    mine.zipIdx.foldl (fun (d : Dev) x => d.updHart x.1 (fun _ => d.partHart p x.1 x.2 mine.length)) d) d

/-- The perches of the schedule in force are idle from seal on (R88): one that was off has an empty scratchpad. -/
def Dev.perchesOn (d : Dev) : Dev :=
  let used := d.sched.spans.foldl (fun n e => n ||| d.groupMap e) 0
  let d := { d with perches := KMap.dropIf (fun p => d.dieFailed (perchDie p)) d.perches }
  let d := (List.range d.perchCount).foldl (fun (d : Dev) p =>
    if bit used p ∧ (d.perch p).pstate = 0 ∧ !d.dieFailed (perchDie p) then (d.clearSpad p).updPerch p (fun v => { v with pstate := 2 }) else d) d
  d.perchesOff

/-- The rollback word (R543): written where the charter raises the floor and a word is unused. -/
def Dev.raiseFloor (d : Dev) : Dev :=
  if bit d.charter.head.flags 1 ∧ d.nv.rollback.length < 64 then { d with nv := { d.nv with rollback := d.nv.rollback ++ [d.charter.head.seq] } }.applyFuses
  else d

/-- The end of a device reset (R617 step 9). -/
def Dev.endReset (d : Dev) : Dev :=
  if d.rd 0 Reg.HIF_STATUS.IN_RESET = 0 then d
  else
    let d := (d.dies.filter d.placed).foldl (fun (d : Dev) die => d.inc die Reg.GLB_SEAL_STATUS.DEV_RESETS 1) d
    let d := (d.wr 0 Reg.HIF_STATUS.IN_RESET 0).wr 0 Reg.RAS_RESET.LAST_MS ((d.timeNs + d.elapsed - d.boot.resetAt) / 1000000)
    d.raiseEvent 6

/-- Boot may seal: it is READY, the tick has a state in which boundaries are marked, and in a league the seal beacon has named the boundary (R42, R558, R559). -/
def Dev.maySeal (d : Dev) : Bool :=
  d.boot.ready && !d.sealed && d.tickState ≠ tsStopped && d.tickState ≠ tsAcquiring && (!d.inLeague || !d.boot.fresh || d.league.sealPlan.isSome)

/-- Seal (R559). -/
def Dev.doSeal (d : Dev) : Dev :=
  let ms := d.bootMs
  let d := d.raiseFloor.perchesOn.enterHarts
  let d := (d.dies.filter d.placed).foldl (fun (d : Dev) die => d.wr die Reg.GLB_SEAL_STATUS.SEALED 1) d
  let d := ((d.wr 0 Reg.HIF_STATUS.SEALED 1).setStage 8).wr 0 Reg.BOOT_STATE.ELAPSED_MS ms
  d.endReset.raiseEvent 5

/-- Boot restarts at step 2 (R557): before seal, and after a halt. Every field but the sticky ones is at its reset value (R12); the PCIe link stays up. -/
def Dev.bootRestart (d : Dev) (b : Board) : Dev :=
  let d := { d.unitsOff with gen := {}, league := {} }.clearRegs (fun k => keyOff k = Reg.HIF_STATUS.RATE.off)
  let d := (d.wr 0 Reg.HIF_STATUS.SEALED 0).wr 0 Reg.HIF_STATUS.IN_RESET 0
  ((d.setStage 1).updBoot (fun x => { x with resetDue := 0 })).bootStart b

/-- Dirty lines of the steward dies go to their homes (R478 step 3). -/
def Dev.drainStewards (d : Dev) : Dev := d.stew.foldl (fun (d : Dev) e => if d.dieFailed (e.1 / 2 ^ 48) then d else d.recallClean (e.1 % 2 ^ 48)) d

/-- Dirty lines of the compute dies' system caches go to the write-combining buffers, and these issue every entry (R225). -/
def Dev.drainCaches (d : Dev) : Dev :=
  let live := fun (die : Nat) => !d.dieFailed die
  let d := (d.sysCache.filter (fun e => live e.1)).foldl (fun (d : Dev) e =>
    e.2.lines.foldl (fun (d : Dev) l =>
      let c := l.2
      if c.valid && c.dirty ≠ 0 then
        d.wcbPut e.1 (channelOf (d.stackedPlace (c.tag * 128)).2) c.tag c.dirtyPatch
      else d) d) d
  ((d.wcb.filter (fun e => live e.die)).foldl (fun d e => d.wcbIssue e) d).settle

/-- What a scratchpad holds after a reset is open (R87). -/
def Dev.spadsOpen (d : Dev) : Dev :=
  (List.range d.perchCount).foldl (fun (d : Dev) p =>
    if (d.perch p).pstate = 0 then d
    else let (b, d) := d.freeBytes spadSize; d.spadWrite p 0 (clean b)) d

/-- A key of the register store is an RS field (R8). -/
def Dev.rsKey (d : Dev) (k : Nat) : Bool :=
  match d.regAt (k / 2 ^ 40) (keyOff k) with
  | some (fs, _) => fs.any (fun f => decide (f.acc = .rs) && f.lo = k % 64)
  | none => false

/-- Registers that a device reset keeps beside the sticky ones (R47, R418, R561): RS fields, which boot rewrites with the values that they hold, the tick
generator, routes and epochs, the dump in the window, and the speed of the PCIe link, which stays up. -/
def Dev.resetKeeps (d : Dev) (k : Nat) : Bool :=
  let o := keyOff k
  d.rsKey k || o = Reg.TICK_STATUS.STATE.off || o = Reg.TICK_COUNT.COUNT.off || o = Reg.TICK_TIME.PHASE_ERR.off || o = Reg.RAS_DUMP_READ.READY.off
    || o = Reg.LINK_EPOCH.GEN.off || (Reg.LINK_ROUTE.VALID.off ≤ o && o < Reg.LINK_ROUTE.VALID.off + 512) || o = Reg.HIF_STATUS.RATE.off

/-- Steps 1 and 2 of R617. -/
def Dev.resetBegin (d : Dev) : Dev :=
  let cause := if d.boot.resetDue = 2 then 2 else 1
  let d := ((d.wr 0 Reg.HIF_STATUS.IN_RESET 1).setStage 10).raiseEvent 6
  let d := (d.wr 0 Reg.RAS_RESET.CAUSE cause).wr 0 Reg.RAS_RESET.START_TICK d.tick
  let d := d.updBoot (fun b => { b with resetDue := 0, resetAt := d.timeNs + d.elapsed, dumping := none, again := true })
  let d := (d.wr 0 Reg.TICK_STATUS.DISPATCHING 0).wr 0 Reg.RAS_DUMP_STATUS.BUSY 0
  d.updHif (fun h => { h with queues := [], windows := [], last := [], lastRun := [], worked := [] })

/-- Steps 3 to 6 of R617: samples, dump, and the dirty data of the steward and compute dies. -/
def Dev.resetSave (d : Dev) : Dev :=
  let d := d.takeSamples.dumpBegin 1
  (d.dumpUnitsFrom false d.dumpUnits 0 4096).drainStewards.drainCaches

/-- What the reset clears (R561): registers, units, and what of the league a package forgets (R418). The stacks are then in self-refresh (R225). -/
def Dev.resetClear (d : Dev) : Dev :=
  let on := (d.perches.filter (fun e => e.2.pstate ≠ 0)).map (·.1)
  let d := { d.spadsOpen.unitsOff with
    league := { pkgs := d.league.pkgs, lost := d.league.lost, failed := d.league.failed, oppNext2 := d.league.oppNext2 } }
  let d := on.foldl (fun (d : Dev) p => d.setPerch p { pstate := 2 }) d
  let d := d.clearRegs (fun k => d.resetKeeps k)
  let d := (List.range 64).foldl (fun (d : Dev) i => d.wr 0 (Reg.LINK_ROUTE.PLANES.at 8 i) 0) d
  let d := ((d.wr 0 Reg.TICK_STATUS.DISPATCHING 0).wr 0 Reg.HIF_STATUS.SEALED 0).wr 0 Reg.HIF_EVENT.RAISED 0xC0
  d.computeDies.foldl (fun (d : Dev) die => if d.dieFailed die then d else d.wr die Reg.MEMC_STATUS.SELF_REFRESH 1) (d.setStage 10)

/-- A device reset of a sealed device up to READY (R617); the seal that ends it is a command of its own. -/
def Dev.resetSealed (d : Dev) (b : Board) : Dev := (d.resetBegin.resetSave.resetClear).bootStart b

/-- A device reset (R616): none while one runs; before seal it restarts boot (R557), but in manufacturing test (R650). -/
def Dev.deviceReset (d : Dev) (b : Board) : Dev :=
  if d.rd 0 Reg.HIF_STATUS.IN_RESET = 1 ∨ d.stage = 0 then d else if d.sealed then d.resetSealed b else d.bootRestart b

end Sys2Proof.Machine
end

