-- ==== Sys2Proof/Machine/BootCmds.lean ====
section
/-! DEFINITION. The commands of power-on, boot, seal and device reset (15, 17 and 18 of the spec). -/

namespace Sys2Proof.Machine

/-- What a cold start leaves: what keeps its value without power, with the cold starts counted (R540, R644). -/
def Dev.fresh (d : Dev) : Dev := { nv := { d.nv with coldCount := d.nv.coldCount + 1 }, seed := d.seed, out := d.out, on := true }

/-- A cold start (R536, R650): straps and TEST_N are sampled; in manufacturing test boot never starts. -/
def Dev.coldStart (d : Dev) (b : Board) : Dev :=
  let d := d.fresh.applyFuses.updBoot (fun x => { x with test := !b.testN, strap := b.strapAddr % 4 })
  if b.testN then (d.setStage 1).bootStart b else d

/-- COLD_START. -/
def execColdStart (b : Board) (s : State) : Host.Outcome State Fault Refusal := s.onPower (fun d => d.coldStart b)

/-- PWR_GOOD_DEASSERT (R644): a pulse shorter than 1 µs is ignored. -/
def execPwrGoodDeassert (widthNs : Nat) (s : State) : Host.Outcome State Fault Refusal :=
  s.onPower (fun d => if widthNs < 1000 then d else { nv := d.nv, seed := d.seed, out := d.out })

/-- EDGE_TRAINED (R30). -/
def execEdgeTrained (e : EdgeEvidence) (s : State) : Host.Outcome State Fault Refusal :=
  s.onDev (fun d =>
    if d.boot.wait = 2 ∧ e.edge < d.edgeEnds.length ∧ (d.evidenceOf e.edge).isNone then
      (d.updBoot (fun b => { b with evidence := b.evidence ++ [e] })).bootDiscover
    else d)

/-- EDGE_TRAIN_TIMEOUT (R31). -/
def execEdgeTrainTimeout (site port : Nat) (s : State) : Host.Outcome State Fault Refusal :=
  s.onDev (fun d =>
    let mine := d.edgeEnds.zipIdx.any (fun e => ((e.1.1 = site && e.1.2.1 = port) || (e.1.2.2.1 = site && e.1.2.2.2 = port)) && (d.evidenceOf e.2).isNone)
    if d.boot.wait = 2 ∧ mine then (d.updBoot (fun b => { b with isolated := b.isolated ++ [(site, port)] })).bootDiscover else d)

/-- BOOT_STEP_TIMEOUT (R536): step 3 FIRMWARE, step 6 MEMORY, step 8 NVME. -/
def execBootStepTimeout (step : Nat) (s : State) : Host.Outcome State Fault Refusal :=
  s.onDev (fun d =>
    if d.boot.wait ≠ step then d
    else if step = 3 then d.bootHalt (0x0C, 0)
    else if step = 6 then d.bootHalt (0x06, 0)
    else if step = 8 then d.bootHalt (0x07, 0)
    else d)

/-- TICK_ACQUIRE_TIMEOUT (R42). -/
def execTickAcquireTimeout (s : State) : Host.Outcome State Fault Refusal :=
  s.onDev (fun d =>
    if d.tickState ≠ tsAcquiring then d
    else if d.rd 0 Reg.TICK_CTRL.REQ_LOCK = 1 then d.bootHalt (0x0A, 0)
    else d.tickEnter tsFreerun srcInternal false)

/-- JOIN_WAIT_EXPIRY (R558): the seal beacon leaves at the coming boundary, or the manager halts. -/
def execJoinWaitExpiry (s : State) : Host.Outcome State Fault Refusal :=
  s.onDev (fun d =>
    if !d.isManager ∨ !d.boot.ready ∨ d.sealed ∨ !d.boot.fresh ∨ d.league.sealPlan.isSome then d
    else if (d.pickPlan d.serviceMask).isNone then d.bootHalt (0x0B, 0)
    else d.updLeague (fun l => { l with waited := true }))

/-- LEAGUE_SEAL_TIMEOUT (R558). -/
def execLeagueSealTimeout (s : State) : Host.Outcome State Fault Refusal :=
  s.onDev (fun d =>
    if (d.rd 0 Reg.LINK_CFG.ROLE = 2 ∨ d.rd 0 Reg.LINK_CFG.ROLE = 3) ∧ d.boot.ready ∧ !d.sealed ∧ d.boot.fresh then d.bootHalt (0x0B, 0) else d)

/-- SEAL (R559). -/
def execSeal (s : State) : Host.Outcome State Fault Refusal := s.onDev (fun d => if d.maySeal then d.doSeal else d)

/-- DEVICE_RESET (R616, R617). -/
def execDeviceReset (b : Board) (s : State) : Host.Outcome State Fault Refusal := s.onDev (fun d => d.deviceReset b)

end Sys2Proof.Machine
end

