-- ==== Sys2Proof/Machine/CollCmds.lean ====
section
/-! DEFINITION. The commands of the collectives inside the package (10 of the spec). -/

namespace Sys2Proof.Machine

/-- A definition and one of its members that is on this package. -/
def Dev.collPick (d : Dev) (coll member : Nat) : Option (CollDef × CollMember) :=
  match d.collDef coll with
  | none => none
  | some c => match (d.collMembers c)[member]? with
    | none => none
    | some m => if m.package = d.pkgId then some (c, m) else none

/-- COLL_POST (R358, R359). -/
def execCollPost (coll member : Nat) (s : State) : Host.Outcome State Fault Refusal :=
  s.onDev (fun d => match d.collPick coll member with
    | none => d
    | some (c, m) => d.collPost c member m)

/-- COLL_MEMBER_COMPLETE (R361): in ascending invocation order for each member (R359). Where a home held the reads of the instance, they are tried again. -/
def execCollMemberComplete (coll k member : Nat) (s : State) : Host.Outcome State Fault Refusal :=
  s.onDev (fun d => match d.collPick coll member with
    | none => d
    | some (c, m) =>
      let st := d.coll coll
      match st.insts.find? (fun i => i.k = k) with
      | none => d
      | some i =>
        if i.verdict.isSome ∨ (d.collLost c).isSome then d
        else if i.phase = 0 then d.collLoad c k
        else if !i.ready ∨ i.wrote.contains member ∨ i.done.contains member ∨ st.insts.any (fun j => j.k < k && !j.done.contains member)
            ∨ d.collWriteHeld c i member m then d
        else d.collComplete c i member m)

/-- COLL_DEADLINE (R374): what has been posted by some members only ends with MISSING. -/
def execCollDeadline (coll k : Nat) (s : State) : Host.Outcome State Fault Refusal :=
  s.onDev (fun d => match d.collDef coll with
    | none => d
    | some c =>
      let d := d.toTime c.deadlineNs
      let st := d.coll coll
      if (d.collLost c).isSome then d
      else d.collMiss c st (((List.range (k - st.begun)).map (fun i => st.begun + 1 + i)).filter (fun k =>
        d.collAnyPosted c st k && !d.collAllPosted c st k)))

/-- COLL_TIMEOUT (R374): an instance that is not complete at the tail guard. -/
def execCollTimeout (coll k : Nat) (s : State) : Host.Outcome State Fault Refusal :=
  s.onDev (fun d => match d.collDef coll with
    | none => d
    | some c =>
      let d := d.toTime (d.sched.period * 1000 - 20000)
      let st := d.coll coll
      if (d.collLost c).isSome then d
      else if st.insts.any (fun i => i.k = k) then d.collFail c k csTimeout 0xFFFF true
      else ((List.range (k - st.begun)).map (fun i => st.begun + 1 + i)).foldl (fun d k =>
        if d.collAnyPosted c st k then d.collFail c k csTimeout 0xFFFF false else d) d)

end Sys2Proof.Machine
end

