-- ==== Sys2Proof/Machine/LeagueCmds.lean ====
section
/-! DEFINITION. The commands of the league (R406 to R418). -/

namespace Sys2Proof.Machine

/-- Management packets pass on the port of a plane: it is in CONFIG or UP (R390). -/
def Dev.planeOpen (d : Dev) (plane : Nat) : Bool := plane < d.planes && (d.portState plane = psConfig || d.portState plane = psUp)

/-- All traffic passes on the port of a plane (R390). -/
def Dev.planeUp (d : Dev) (plane : Nat) : Bool := plane < d.planes && d.portState plane = psUp

/-- A worker or spare of a league. -/
def Dev.isFollower (d : Dev) : Bool := d.rd 0 Reg.LINK_CFG.ROLE = 2 || d.rd 0 Reg.LINK_CFG.ROLE = 3

/-- BEACON. -/
def execBeacon (plane : Nat) (offsetNs : Int) (m : BeaconMsg) (s : State) : Host.Outcome State Fault Refusal :=
  s.onDev (fun d => if d.planeUp plane && d.isFollower then d.takeBeacon plane offsetNs m else d)

/-- BEACON_ACK. -/
def execBeaconAck (plane : Nat) (m : BeaconAckMsg) (s : State) : Host.Outcome State Fault Refusal :=
  s.onDev (fun d => if d.planeUp plane && d.isManager then d.takeAckOf plane m else d)

/-- MGMT. -/
def execMgmt (plane : Nat) (m : MgmtMsg) (s : State) : Host.Outcome State Fault Refusal :=
  s.onDev (fun d => if d.planeOpen plane && !d.halted then d.takeMgmt m else d)

/-- JOIN: the manager grants from READY on (R558). -/
def execJoin (plane : Nat) (m : JoinReq) (s : State) : Host.Outcome State Fault Refusal :=
  s.onDev (fun d => if d.planeOpen plane && d.isManager && d.boot.ready && !d.halted then d.takeJoin plane m else d)

/-- JOIN_GRANT. -/
def execJoinGrant (plane : Nat) (m : JoinGrantMsg) (s : State) : Host.Outcome State Fault Refusal :=
  s.onDev (fun d => if d.planeOpen plane && d.isFollower && d.league.joining then d.takeGrant m else d)

/-- A switch's notice that a package's port has fenced (R412): its plane leaves the set toward the package. -/
def Dev.peerPortDown (d : Dev) (plane id : Nat) : Dev :=
  (d.updLeague (fun l => { l with peerDown := KMap.upd 0 l.peerDown id (fun m => m ||| 2 ^ plane) })).setPlanes id (d.planesTo id - (d.planesTo id &&& 2 ^ plane))

/-- PORT_DOWN (R412): the plane leaves the sets toward the IDs of the slot. -/
def execPortDown (plane slot : Nat) (s : State) : Host.Outcome State Fault Refusal :=
  s.onDev (fun d =>
    if d.planeOpen plane then
      (d.peerIds.filter (fun i => d.rd 0 (Reg.LINK_ROUTE.SLOT.at 8 i) = slot)).foldl (fun d i => d.peerPortDown plane i) d
    else d)

/-- EPOCH_SET at a worker or spare (R407). -/
def execEpochSet (plane gen : Nat) (entries : List RouteEntry) (s : State) : Host.Outcome State Fault Refusal :=
  s.onDev (fun d => if d.planeOpen plane && d.isFollower then (d.wr 0 Reg.LINK_EPOCH.GEN gen).takeEntries entries else d)

/-- BEACON_MISS (R411): 1 ms after the predicted boundary no beacon has arrived. -/
def execBeaconMiss (s : State) : Host.Outcome State Fault Refusal :=
  s.onDev (fun d =>
    if d.isFollower && d.sealed && !d.league.seen && !d.league.missCounted then
      let d := (d.toTime 1000000).updLeague (fun l => { l with missCounted := true })
      d.wr 0 Reg.LINK_STATE.MISSED (satAdd 8 (d.rd 0 Reg.LINK_STATE.MISSED) 1)
    else d)

/-- BEACON_UNANSWERED (R414, R423). -/
def execBeaconUnanswered (pkg : Nat) (s : State) : Host.Outcome State Fault Refusal :=
  s.onDev (fun d => if d.isManager && d.sealed && pkg < 64 && pkg ≠ d.pkgId then d.unanswered pkg else d)

/-- PACKAGE_LOST (R414). -/
def execPackageLost (pkg : Nat) (s : State) : Host.Outcome State Fault Refusal :=
  s.onDev (fun d => if d.isManager && d.sealed && pkg < 64 && pkg ≠ d.pkgId then d.packageLost pkg else d)

end Sys2Proof.Machine
end

