-- ==== Sys2Proof/Machine/PinCmds.lean ====
section
/-! DEFINITION. The management sideband and the TAP (R651 to R653). -/

namespace Sys2Proof.Machine

/-- The sideband answers: from PWR_GOOD, and after a thermal trip until power goes (R535, R653). -/
def Dev.sidebandLive (d : Dev) : Bool := d.on || d.boot.tripped

/-- The register that a READ shows (R652, R653): after a trip the PWR and BOOT blocks alone, none while a device reset rebuilds the dies. -/
def Dev.sbView (d : Dev) (die off : Nat) : Option Nat × Dev :=
  if d.boot.tripped then
    (if off % 8 = 0 ∧ ((0x20000 ≤ off ∧ off < 0x30000) ∨ (0x2700000 ≤ off ∧ off < 0x2710000)) then d.reg64 die off else none, d)
  else if !d.on ∨ (d.rd 0 Reg.HIF_STATUS.IN_RESET = 1 ∧ !d.boot.ready) then (none, d)
  else d.viewAsk { unit := 38, req := 0, part := 0 } die off

/-- Answers on the sideband; without power nothing does. -/
def Dev.sbReply (d : Dev) (b : List Byte) : Dev := if d.sidebandLive then d.emit (.sideband b) else d

/-- SB_READ: STATUS 0 and the register, or STATUS 1. -/
def execSbRead (die offset : Nat) (s : State) : Host.Outcome State Fault Refusal :=
  s.onPower (fun d =>
    let (v, d) := d.sbView die offset
    d.sbReply (leBytes 1 (if v.isSome then 0 else 1) ++ leBytes 8 (v.getD 0)))

/-- SB_RESET: a key of 0xA5 starts a device reset; a reset that the host has ordered by then keeps its cause (R653). -/
def execSbReset (key : Nat) (b : Board) (s : State) : Host.Outcome State Fault Refusal :=
  s.onPower (fun d =>
    let d := d.sbReply (leBytes 1 0)
    if key = 0xA5 ∧ d.on then (d.orderReset 2).deviceReset b else d)

/-- SB_ALERT: the events raised since they were acknowledged; the bits of ACK are cleared. -/
def execSbAlert (ack : Nat) (s : State) : Host.Outcome State Fault Refusal :=
  s.onPower (fun d =>
    if d.sidebandLive then
      let d := d.sbReply (leBytes 1 0 ++ leBytes 1 d.alerts)
      { d with alerts := d.alerts - (d.alerts &&& ack) }
    else d)

/-- SB_IDENT. -/
def execSbIdent (s : State) : Host.Outcome State Fault Refusal :=
  s.onPower (fun d => d.sbReply (leBytes 1 0 ++ leBytes 8 d.nv.serial ++ leBytes 1 (d.rd 0 Reg.GLB_DIE_ID.PART) ++ leBytes 1 d.stage
    ++ leBytes 1 (d.rd 0 Reg.BOOT_STATE.HALT)))

/-- JTAG_INSTRUCTION (R651): IDCODE; BYPASS; before seal every other instruction scans the boundary, whose pins the model does not hold. -/
def execJtagInstruction (ir : Nat) (s : State) : Host.Outcome State Fault Refusal :=
  s.onDev (fun d =>
    if ir = Config.idcodeOp then d.emit (.jtag 1 Config.idcodeWord)
    else if d.sealed ∨ ir = Config.bypassOp then d.emit (.jtag 0 0)
    else let (w, d) := d.free; d.emit (.jtag 2 w))

end Sys2Proof.Machine
end

