-- ==== Sys2Proof/Machine/SioCmds.lean ====
section
/-! DEFINITION. The commands of the stream I/O engine (12 of the spec). -/

namespace Sys2Proof.Machine

/-- A port of the engine is up and its transmitter and receiver work: before seal they do not (R458, R535). -/
def Dev.ethUp (d : Dev) (port : Nat) : Bool := port < 2 && d.sealed && d.rd d.sioDie (Reg.SIO_PORT_STATUS.LINK.at 8 port) = 1

/-- ETH_FRAME_RX (R439): a frame whose last bit arrives at a time of the tick. -/
def execEthFrameRx (port arrivalNs : Nat) (frame : List Byte) (s : State) : Host.Outcome State Fault Refusal :=
  s.onDev (fun d => if d.ethUp port then (d.toTime arrivalNs).frameIn port frame else d)

/-- SLOT_CLOSE (R441, R442). -/
def execSlotClose (flow tick : Nat) (s : State) : Host.Outcome State Fault Refusal := s.onDev (fun d => d.closeSlot flow tick)

/-- EGRESS_RELEASE (R444). -/
def execEgressRelease (flow : Nat) (s : State) : Host.Outcome State Fault Refusal := s.onDev (fun d => d.egressRelease flow)

/-- PACED_SEND (R444, R445): cell 65535 is the packet with an empty primary. -/
def execPacedSend (flow cell lateNs : Nat) (s : State) : Host.Outcome State Fault Refusal := s.onDev (fun d => d.pacedSend flow cell lateNs)

/-- EXC_RING_TX (R431, R432): a frame beyond 9,216 B is not sent; the frame leaves with its FCS. -/
def execExcRingTx (port : Nat) (frame : List Byte) (s : State) : Host.Outcome State Fault Refusal :=
  s.onDev (fun d => if d.ethUp port ∧ frame.length ≤ 9216 then d.emit (.ethFrame port frame) else d)

/-- FLOW_ENABLE (R436). -/
def execFlowEnable (flow : Nat) (s : State) : Host.Outcome State Fault Refusal := s.onDev (fun d => d.flowCommand 1 flow 0)

/-- FLOW_DISABLE (R436). -/
def execFlowDisable (flow : Nat) (s : State) : Host.Outcome State Fault Refusal := s.onDev (fun d => d.flowCommand 2 flow 0)

/-- FLOW_REKEY (R436). -/
def execFlowRekey (flow key : Nat) (s : State) : Host.Outcome State Fault Refusal := s.onDev (fun d => d.flowCommand 3 flow key)

/-- FLOW_REANCHOR (R436). -/
def execFlowReanchor (flow : Nat) (s : State) : Host.Outcome State Fault Refusal := s.onDev (fun d => d.flowCommand 4 flow 0)

/-- KEY_LOAD (R446, R455). -/
def execKeyLoad (key : Nat) (long : Bool) (s : State) : Host.Outcome State Fault Refusal := s.onDev (fun d => d.loadKey key long)

/-- ETH_PORT_LINK_CHANGE (R458). -/
def execEthPortLinkChange (port : Nat) (up : Bool) (s : State) : Host.Outcome State Fault Refusal :=
  s.onDev (fun d => if 2 ≤ port then d else d.wr d.sioDie (Reg.SIO_PORT_STATUS.LINK.at 8 port) (b2n up))

end Sys2Proof.Machine
end

