-- ==== Sys2Proof/Machine/Dispatch.lean ====
section
/-! DEFINITION. The dispatch of commands to their meanings: one arm per row of the opcode table. -/

namespace Sys2Proof.Machine

/-- The effect of a command on everything but the queue of waiting commands. -/
def exec (i : Instr) (s : State) : Host.Outcome State Fault Refusal :=
  match i with
  | .coldStart b => Sys2Proof.Machine.execColdStart b s
  | .pwrGoodDeassert widthNs => Sys2Proof.Machine.execPwrGoodDeassert widthNs s
  | .edgeTrained e => Sys2Proof.Machine.execEdgeTrained e s
  | .edgeTrainTimeout site port => Sys2Proof.Machine.execEdgeTrainTimeout site port s
  | .bootStepTimeout step => Sys2Proof.Machine.execBootStepTimeout step s
  | .tickAcquireTimeout => Sys2Proof.Machine.execTickAcquireTimeout s
  | .joinWaitExpiry => Sys2Proof.Machine.execJoinWaitExpiry s
  | .leagueSealTimeout => Sys2Proof.Machine.execLeagueSealTimeout s
  | .seal => Sys2Proof.Machine.execSeal s
  | .tickBoundary o => Sys2Proof.Machine.execTickBoundary o s
  | .tickInPulse offsetNs widthNs => Sys2Proof.Machine.execTickInPulse offsetNs widthNs s
  | .ppsEdge offsetNs => Sys2Proof.Machine.execPpsEdge offsetNs s
  | .holdoverExpiry => Sys2Proof.Machine.execHoldoverExpiry s
  | .avsConfirm die => Sys2Proof.Machine.execAvsConfirm die s
  | .avsRiseLate die => Sys2Proof.Machine.execAvsRiseLate die s
  | .thermalTrip cause die => Sys2Proof.Machine.execThermalTrip cause die s
  | .ethrefLoss durationNs => Sys2Proof.Machine.execEthrefLoss durationNs s
  | .dieClockLoss die => Sys2Proof.Machine.execDieClockLoss die s
  | .spanStart span perch => Sys2Proof.Machine.execSpanStart span perch s
  | .spanLateStart span perch => Sys2Proof.Machine.execSpanLateStart span perch s
  | .spanend perch => Sys2Proof.Machine.execSpanend perch s
  | .budgetExpiry perch => Sys2Proof.Machine.execBudgetExpiry perch s
  | .displacement perch => Sys2Proof.Machine.execDisplacement perch s
  | .spanStatusRecord span => Sys2Proof.Machine.execSpanStatusRecord span s
  | .spanWarning perch => Sys2Proof.Machine.execSpanWarning perch s
  | .perchGate perch => Sys2Proof.Machine.execPerchGate perch s
  | .perchWake perch => Sys2Proof.Machine.execPerchWake perch s
  | .seqInstruction perch ecc => Sys2Proof.Machine.execSeqInstruction perch ecc s
  | .perchTrap perch cause tval => Sys2Proof.Machine.execPerchTrap perch cause tval s
  | .perchMret perch => Sys2Proof.Machine.execPerchMret perch s
  | .pspanwarnWrite perch value => Sys2Proof.Machine.execPspanwarnWrite perch value s
  | .perchFenceSc perch scope => Sys2Proof.Machine.execPerchFenceSc perch scope s
  | .cwait perch ctr rs1 rd => Sys2Proof.Machine.execCwait perch ctr rs1 rd s
  | .cwaitSatisfied perch => Sys2Proof.Machine.execCwaitSatisfied perch s
  | .cread perch ctr rd inc => Sys2Proof.Machine.execCread perch ctr rd inc s
  | .cset perch ctr rs1 rd inc => Sys2Proof.Machine.execCset perch ctr rs1 rd inc s
  | .cadd perch ctr rs1 rd inc => Sys2Proof.Machine.execCadd perch ctr rs1 rd inc s
  | .dmaq perch ctx rs1 rd => Sys2Proof.Machine.execDmaq perch ctx rs1 rd s
  | .dmactlStatus perch ctx rd => Sys2Proof.Machine.execDmactlStatus perch ctx rd s
  | .dmactlAbort perch ctx rd => Sys2Proof.Machine.execDmactlAbort perch ctx rd s
  | .dmactlWaitidle perch ctx rd => Sys2Proof.Machine.execDmactlWaitidle perch ctx rd s
  | .dmaDescriptorStart perch ctx ext ecc => Sys2Proof.Machine.execDmaDescriptorStart perch ctx ext ecc s
  | .dmaDescriptorComplete perch ctx => Sys2Proof.Machine.execDmaDescriptorComplete perch ctx s
  | .arrivalIncrement perch ctx => Sys2Proof.Machine.execArrivalIncrement perch ctx s
  | .scopSend perch ep rs1 rs2 rd => Sys2Proof.Machine.execScopSend perch ep rs1 rs2 rd s
  | .scopAck perch ep rs2 rd => Sys2Proof.Machine.execScopAck perch ep rs2 rd s
  | .scopStatus perch ep rd => Sys2Proof.Machine.execScopStatus perch ep rd s
  | .channelMessageArrival perch ep => Sys2Proof.Machine.execChannelMessageArrival perch ep s
  | .channelSourceRelease perch ep => Sys2Proof.Machine.execChannelSourceRelease perch ep s
  | .channelCreditArrival perch ep => Sys2Proof.Machine.execChannelCreditArrival perch ep s
  | .mld perch fmt wscaled rs1 rs2 => Sys2Proof.Machine.execMld perch fmt wscaled rs1 rs2 s
  | .mxm perch fmt acc zfill scaled rs1 rs2 rd => Sys2Proof.Machine.execMxm perch fmt acc zfill scaled rs1 rs2 rd s
  | .mwaitPasses perch rd => Sys2Proof.Machine.execMwaitPasses perch rd s
  | .mwaitLoads perch rd => Sys2Proof.Machine.execMwaitLoads perch rd s
  | .arrayLoadStart perch => Sys2Proof.Machine.execArrayLoadStart perch s
  | .arrayPassStart perch stallCycles => Sys2Proof.Machine.execArrayPassStart perch stallCycles s
  | .arrayPassComplete perch => Sys2Proof.Machine.execArrayPassComplete perch s
  | .keeperWindowExpiry perch => Sys2Proof.Machine.execKeeperWindowExpiry perch s
  | .arrayRampDownStep perch => Sys2Proof.Machine.execArrayRampDownStep perch s
  | .arrayRampUpStep perch => Sys2Proof.Machine.execArrayRampUpStep perch s
  | .vxncvt perch f => Sys2Proof.Machine.execVxncvt perch f s
  | .vxncvts perch f => Sys2Proof.Machine.execVxncvts perch f s
  | .vxwcvt perch f => Sys2Proof.Machine.execVxwcvt perch f s
  | .vxwcvts perch f => Sys2Proof.Machine.execVxwcvts perch f s
  | .vxmaxsc perch f => Sys2Proof.Machine.execVxmaxsc perch f s
  | .homeWrite r data poison => Sys2Proof.Machine.execHomeWrite r data poison s
  | .homeRead r len ecc => Sys2Proof.Machine.execHomeRead r len ecc s
  | .homeAtomic r op width operand compare => Sys2Proof.Machine.execHomeAtomic r op width operand compare s
  | .wcbEntryTimeout die channel line => Sys2Proof.Machine.execWcbEntryTimeout die channel line s
  | .wcbEntryIssue die channel line => Sys2Proof.Machine.execWcbEntryIssue die channel line s
  | .chainCacheFill die chain line => Sys2Proof.Machine.execChainCacheFill die chain line s
  | .wayDisable c way => Sys2Proof.Machine.execWayDisable c way s
  | .scrubRead die ecc => Sys2Proof.Machine.execScrubRead die ecc s
  | .moveCopy die entry ext => Sys2Proof.Machine.execMoveCopy die entry ext s
  | .moveZero die entry => Sys2Proof.Machine.execMoveZero die entry s
  | .moveKvIn die entry => Sys2Proof.Machine.execMoveKvIn die entry s
  | .moveKvOut die entry => Sys2Proof.Machine.execMoveKvOut die entry s
  | .moveNvmeRd die entry => Sys2Proof.Machine.execMoveNvmeRd die entry s
  | .moveNvmeWr die entry => Sys2Proof.Machine.execMoveNvmeWr die entry s
  | .moveEntryDone die entry atNs => Sys2Proof.Machine.execMoveEntryDone die entry atNs s
  | .moveTailAbort die => Sys2Proof.Machine.execMoveTailAbort die s
  | .ownClaim part count page => Sys2Proof.Machine.execOwnClaim part count page s
  | .ownRelease part count page => Sys2Proof.Machine.execOwnRelease part count page s
  | .ownReleaseComplete => Sys2Proof.Machine.execOwnReleaseComplete s
  | .pageWalkDone die unit req part dva access => Sys2Proof.Machine.execPageWalkDone die unit req part dva access s
  | .mmuInvRange part count => Sys2Proof.Machine.execMmuInvRange part count s
  | .mmuInvPartition part => Sys2Proof.Machine.execMmuInvPartition part s
  | .mmuInvComplete => Sys2Proof.Machine.execMmuInvComplete s
  | .collPost coll member => Sys2Proof.Machine.execCollPost coll member s
  | .collMemberComplete coll k member => Sys2Proof.Machine.execCollMemberComplete coll k member s
  | .collDeadline coll k => Sys2Proof.Machine.execCollDeadline coll k s
  | .collTimeout coll k => Sys2Proof.Machine.execCollTimeout coll k s
  | .linkPortTrain die port lanes rttNs => Sys2Proof.Machine.execLinkPortTrain die port lanes rttNs s
  | .identReceive die port rec => Sys2Proof.Machine.execIdentReceive die port rec s
  | .identResend die port => Sys2Proof.Machine.execIdentResend die port s
  | .flitReplay die port fecCorrected => Sys2Proof.Machine.execFlitReplay die port fecCorrected s
  | .linkFence die port => Sys2Proof.Machine.execLinkFence die port s
  | .linkRetrainDone die port rec => Sys2Proof.Machine.execLinkRetrainDone die port rec s
  | .linkRead die port p => Sys2Proof.Machine.execLinkRead die port p s
  | .linkWrite die port p => Sys2Proof.Machine.execLinkWrite die port p s
  | .linkAtomic die port p => Sys2Proof.Machine.execLinkAtomic die port p s
  | .readRsp die port p => Sys2Proof.Machine.execReadRsp die port p s
  | .writeAck die port p => Sys2Proof.Machine.execWriteAck die port p s
  | .atomicRsp die port p => Sys2Proof.Machine.execAtomicRsp die port p s
  | .collData die port p => Sys2Proof.Machine.execCollData die port p s
  | .collCtrl die port p => Sys2Proof.Machine.execCollCtrl die port p s
  | .beacon plane offsetNs m => Sys2Proof.Machine.execBeacon plane offsetNs m s
  | .beaconAck plane m => Sys2Proof.Machine.execBeaconAck plane m s
  | .mgmt plane m => Sys2Proof.Machine.execMgmt plane m s
  | .join plane m => Sys2Proof.Machine.execJoin plane m s
  | .joinGrant plane m => Sys2Proof.Machine.execJoinGrant plane m s
  | .portDown plane slot => Sys2Proof.Machine.execPortDown plane slot s
  | .epochSet plane gen entries => Sys2Proof.Machine.execEpochSet plane gen entries s
  | .remoteWriteLost tag => Sys2Proof.Machine.execRemoteWriteLost tag s
  | .beaconMiss => Sys2Proof.Machine.execBeaconMiss s
  | .packageLost pkg => Sys2Proof.Machine.execPackageLost pkg s
  | .ethFrameRx port arrivalNs frame => Sys2Proof.Machine.execEthFrameRx port arrivalNs frame s
  | .slotClose flow tick => Sys2Proof.Machine.execSlotClose flow tick s
  | .egressRelease flow => Sys2Proof.Machine.execEgressRelease flow s
  | .pacedSend flow cell lateNs => Sys2Proof.Machine.execPacedSend flow cell lateNs s
  | .excRingTx port frame => Sys2Proof.Machine.execExcRingTx port frame s
  | .flowEnable flow => Sys2Proof.Machine.execFlowEnable flow s
  | .flowDisable flow => Sys2Proof.Machine.execFlowDisable flow s
  | .flowRekey flow key => Sys2Proof.Machine.execFlowRekey flow key s
  | .flowReanchor flow => Sys2Proof.Machine.execFlowReanchor flow s
  | .keyLoad key long => Sys2Proof.Machine.execKeyLoad key long s
  | .nvmeCommandIssue port entry write lba bytes dva => Sys2Proof.Machine.execNvmeCommandIssue port entry write lba bytes dva s
  | .nvmeCommandComplete port cid ok ext => Sys2Proof.Machine.execNvmeCommandComplete port cid ok ext s
  | .nvmeAbortTimeout port cid => Sys2Proof.Machine.execNvmeAbortTimeout port cid s
  | .nvmeControllerReset port recovered => Sys2Proof.Machine.execNvmeControllerReset port recovered s
  | .stewardInstruction hart ext => Sys2Proof.Machine.execStewardInstruction hart ext s
  | .twait hart next rs1 rd => Sys2Proof.Machine.execTwait hart next rs1 rd s
  | .stewardFenceSc hart scope => Sys2Proof.Machine.execStewardFenceSc hart scope s
  | .spanq hart rs1 rd => Sys2Proof.Machine.execSpanq hart rs1 rd s
  | .tread hart sel rd => Sys2Proof.Machine.execTread hart sel rd s
  | .setipi hart rs1 identity supervisor => Sys2Proof.Machine.execSetipi hart rs1 identity supervisor s
  | .mpartWrite hart value => Sys2Proof.Machine.execMpartWrite hart value s
  | .mliveWrite hart value => Sys2Proof.Machine.execMliveWrite hart value s
  | .mlosterrWrite hart => Sys2Proof.Machine.execMlosterrWrite hart s
  | .mtimecmpxExpiry hart supervisor => Sys2Proof.Machine.execMtimecmpxExpiry hart supervisor s
  | .wfi hart => Sys2Proof.Machine.execWfi hart s
  | .coreWake hart => Sys2Proof.Machine.execCoreWake hart s
  | .cboClean hart rs1 => Sys2Proof.Machine.execCboClean hart rs1 s
  | .cboFlush hart rs1 => Sys2Proof.Machine.execCboFlush hart rs1 s
  | .cboInval hart rs1 => Sys2Proof.Machine.execCboInval hart rs1 s
  | .stewardAmo hart op width rd rs1 rs2 => Sys2Proof.Machine.execStewardAmo hart op width rd rs1 rs2 s
  | .loadReserved hart width rd rs1 => Sys2Proof.Machine.execLoadReserved hart width rd rs1 s
  | .storeConditional hart width rd rs1 rs2 => Sys2Proof.Machine.execStoreConditional hart width rd rs1 rs2 s
  | .reservationTimeout hart => Sys2Proof.Machine.execReservationTimeout hart s
  | .sfenceVma hart rs1 rs2 => Sys2Proof.Machine.execSfenceVma hart rs1 rs2 s
  | .sbiPageMap hart => Sys2Proof.Machine.execSbiPageMap hart s
  | .sbiPageUnmap hart => Sys2Proof.Machine.execSbiPageUnmap hart s
  | .sbiFlowCmd hart => Sys2Proof.Machine.execSbiFlowCmd hart s
  | .sbiKeyLoad hart => Sys2Proof.Machine.execSbiKeyLoad hart s
  | .bar0DieViewWrite offset size value => Sys2Proof.Machine.execBar0DieViewWrite offset size value s
  | .bar4Read offset len => Sys2Proof.Machine.execBar4Read offset len s
  | .bar4Write offset data poison => Sys2Proof.Machine.execBar4Write offset data poison s
  | .doorbell queue value => Sys2Proof.Machine.execDoorbell queue value s
  | .commandFetch queue slots => Sys2Proof.Machine.execCommandFetch queue slots s
  | .commandReread queue slots => Sys2Proof.Machine.execCommandReread queue slots s
  | .nop queue => Sys2Proof.Machine.execNop queue s
  | .fence queue => Sys2Proof.Machine.execFence queue s
  | .write queue => Sys2Proof.Machine.execWrite queue s
  | .copy queue ext => Sys2Proof.Machine.execCopy queue ext s
  | .fill queue => Sys2Proof.Machine.execFill queue s
  | .atomic queue => Sys2Proof.Machine.execAtomic queue s
  | .runComplete queue => Sys2Proof.Machine.execRunComplete queue s
  | .hostWindowEnd part => Sys2Proof.Machine.execHostWindowEnd part s
  | .completionWrite queue => Sys2Proof.Machine.execCompletionWrite queue s
  | .msixHoldoffExpiry queue => Sys2Proof.Machine.execMsixHoldoffExpiry queue s
  | .cqHeadWrite queue value => Sys2Proof.Machine.execCqHeadWrite queue value s
  | .queueEnable queue holdoff depth sqBase cqBase => Sys2Proof.Machine.execQueueEnable queue holdoff depth sqBase cqBase s
  | .queueDisable queue => Sys2Proof.Machine.execQueueDisable queue s
  | .queueResume queue sqBase cqBase => Sys2Proof.Machine.execQueueResume queue sqBase cqBase s
  | .queueAbort queue => Sys2Proof.Machine.execQueueAbort queue s
  | .queueAbortDone queue => Sys2Proof.Machine.execQueueAbortDone queue s
  | .hostLost cause => Sys2Proof.Machine.execHostLost cause s
  | .hostAttach => Sys2Proof.Machine.execHostAttach s
  | .relayRead pkg die offset => Sys2Proof.Machine.execRelayRead pkg die offset s
  | .relayTimeout => Sys2Proof.Machine.execRelayTimeout s
  | .deviceReset b => Sys2Proof.Machine.execDeviceReset b s
  | .dumpUnitTimeout => Sys2Proof.Machine.execDumpUnitTimeout s
  | .dumpTake => Sys2Proof.Machine.execDumpTake s
  | .dumpChunkRelease => Sys2Proof.Machine.execDumpChunkRelease s
  | .logConsWrite value => Sys2Proof.Machine.execLogConsWrite value s
  | .flashProgramPage => Sys2Proof.Machine.execFlashProgramPage s
  | .flashEraseSector => Sys2Proof.Machine.execFlashEraseSector s
  | .flashCmdComplete verifyOk => Sys2Proof.Machine.execFlashCmdComplete verifyOk s
  | .cntClr => Sys2Proof.Machine.execCntClr s
  | .sbRead die offset => Sys2Proof.Machine.execSbRead die offset s
  | .sbReset key b => Sys2Proof.Machine.execSbReset key b s
  | .sbAlert ack => Sys2Proof.Machine.execSbAlert ack s
  | .sbIdent => Sys2Proof.Machine.execSbIdent s
  | .jtagInstruction ir => Sys2Proof.Machine.execJtagInstruction ir s
  | .registerWrite r place offset size value => Sys2Proof.Machine.execRegisterWrite r place offset size value s
  | .edgeRetrain edge ok => Sys2Proof.Machine.execEdgeRetrain edge ok s
  | .perstNRelease rate width => Sys2Proof.Machine.execPerstNRelease rate width s
  | .pcieConfigWrite msixEnable bme => Sys2Proof.Machine.execPcieConfigWrite msixEnable bme s
  | .msixVectorUnmask vector => Sys2Proof.Machine.execMsixVectorUnmask vector s
  | .ethPortLinkChange port up => Sys2Proof.Machine.execEthPortLinkChange port up s
  | .remoteReadLost tag => Sys2Proof.Machine.execRemoteReadLost tag s
  | .hostWindowStart part => Sys2Proof.Machine.execHostWindowStart part s
  | .beaconUnanswered pkg => Sys2Proof.Machine.execBeaconUnanswered pkg s
  | .recallDeferralEnd hart => Sys2Proof.Machine.execRecallDeferralEnd hart s

end Sys2Proof.Machine
end

