-- ==== Sys2Proof/Machine/Idle.lean ====
section
/-! DEFINITION. What the clocks do while no command waits (assumption 5): 10 ns pass. -/

namespace Sys2Proof.Machine

/-- 10 ns pass. -/
def idleStep (s : State) : State := if s.dev.on then { s with dev := s.dev.passNs 10 } else s

end Sys2Proof.Machine
end

