-- ==== Sys2Proof/Safety.lean ====
section
/-! DEFINITION. What claims are stated in: the invariant of the block's stores, and which part of the block a command leaves as it was. -/

namespace Sys2Proof.Machine

/-- The memory of the block in its canonical form: bytes, poison bits, scratchpad poison and page owners, each with addresses strictly rising and no entry
equal to what an unlisted address reads as. -/
def Memory.wf (d : Dev) : Bool := KMap.wf 0#8 d.mem && KMap.wf 0 d.poison && KMap.wf 0 d.spadPoison && KMap.wf 0xFF#8 d.owner

/-- Memory, registers and flash are in their canonical form, so that equal contents are equal data. -/
def State.Inv (s : State) : Prop :=
  Memory.wf s.dev = true ∧ KMap.wf 0 s.dev.regs = true ∧ KMap.wf 0 s.dev.regsSt = true ∧ KMap.wf 0xFF#8 s.dev.nv.flash = true

/-- Two register fields share their storage: the same bits of the same register of a die. -/
def SameField (die : Nat) (f : Fld) (die' : Nat) (f' : Fld) : Prop := regKey die f = regKey die' f' ∧ f.st = f'.st

/-- Every register field but those listed reads in `t` as in `d`. -/
def RegsKept (d t : Dev) (written : List (Nat × Fld)) : Prop :=
  ∀ die f, (∀ w ∈ written, ¬ SameField w.1 w.2 die f) → t.rd die f = d.rd die f

/-- The device but for the values of its registers is the same: memory, units, queues, outputs. -/
def OnlyRegs (d t : Dev) : Prop := t = { d with regs := t.regs, regsSt := t.regsSt }

/-- The device but for perch `p` is the same: memory, registers and every other perch. -/
def OnlyPerch (d t : Dev) (p : Nat) : Prop := { t with perches := d.perches } = d ∧ ∀ q, q ≠ p → t.perch q = d.perch q

/-- No collective has an invocation that a span of a perch has posted and the engines have not read (R374, R375). -/
def Dev.collQuiet (d : Dev) (p span : Nat) : Bool :=
  d.sched.collDefs.all (fun c => ((d.collMine c).find? (fun m => m.1.perch = p && m.1.spanId = span)).all (fun m =>
    decide ((d.coll c.collId).count m.2 ≤ (d.coll c.collId).begun) && (d.coll c.collId).insts.all (fun i => !d.collPending c m.2 i)))

/-- The instruction of a perch retired: rd holds `x` (x0 holds nothing), the pc is past it, one more instruction is counted and its pc is the last one retired;
`v` is the perch before. -/
def Retired (v w : Perch) (rd x : Nat) : Prop :=
  (rd ≠ 0 → w.core.gx rd = x % 2 ^ 32) ∧ (∀ r, r ≠ rd ∨ rd = 0 → w.core.gx r = v.core.gx r) ∧ w.core.pc = (v.core.pc + 4) % 2 ^ 32 ∧
    w.minstret = v.minstret + 1 ∧ w.lastPc = v.core.pc ∧ w.stall = .none

/-- The perch but for its sequencer's integer registers, pc, instruction count, last retired pc and stall is the same. -/
def OnlySeq (v w : Perch) : Prop :=
  w = { v with core := { v.core with x := w.core.x, pc := w.core.pc }, minstret := w.minstret, lastPc := w.lastPc, stall := w.stall }

/-- A span that runs on a perch of a device that is on, whose sequencer waits for nothing. -/
def Ready (s : State) (p : Nat) : Prop := s.dev.on = true ∧ s.dev.seqReady p = true

/-- The device but for the places where a line of memory stands, its charges, what the ECC has found and repaired, and the values of its registers is the
same; of the steward cores only a reservation may end, as the record of a repair is written to memory. -/
def OnlyMem (d t : Dev) : Prop :=
  t = { d with mem := t.mem, owner := t.owner, poison := t.poison, flaws := t.flaws, findings := t.findings, wcb := t.wcb, sysCache := t.sysCache,
               stew := t.stew, coreCache := t.coreCache, charge := t.charge, regs := t.regs, regsSt := t.regsSt, harts := t.harts, errNew := t.errNew,
               healthDue := t.healthDue, rowTrack := t.rowTrack, rowMaps := t.rowMaps, bankSpares := t.bankSpares, pagePend := t.pagePend,
               pageLate := t.pageLate, fathomCorr := t.fathomCorr } ∧
    ∀ h, t.hart h = { d.hart h with resv := (t.hart h).resv, deferring := (t.hart h).deferring }

/-- At most one steward die holds a line modified (R286). -/
def Dev.oneOwner (d : Dev) (line : Nat) : Prop := (d.stewLine 0 line).dirty = false ∨ (d.stewLine 1 line).dirty = false

/-- The bytes of a range all stand in the fathom tier, outside the page-owner table, and the requester may reach each of them. -/
def Dev.inFathom (d : Dev) (q : Rq) (pa n : Nat) : Prop :=
  ∀ i, i < n → d.region (pa + i) = .fathom ∧ d.accFault q (pa + i) = none ∧ d.ownerCell (pa + i) = none

/-- The device but for steward core `h` is the same. -/
def OnlyHart (d t : Dev) (h : Nat) : Prop := { t with harts := d.harts } = d ∧ ∀ k, k ≠ h → t.hart k = d.hart k

/-- A 32-bit instruction of a steward core retired: rd holds `x` (x0 holds nothing), the pc is past it, every other x register and every CSR but minstret is
as it was, data that a load had waited for are gone, and nothing else of the core changed; `v` is the core before. -/
def HartRetired (v w : Hart) (rd x : Nat) : Prop :=
  (rd ≠ 0 → w.core.gx rd = x % 2 ^ 64) ∧ (∀ r, r ≠ rd ∨ rd = 0 → w.core.gx r = v.core.gx r) ∧ w.core.pc = (v.core.pc + 4) % 2 ^ 64 ∧
    (∀ n, n ≠ 0xB02 → w.c n = v.c n) ∧ w = { v with core := { v.core with x := w.core.x, pc := w.core.pc }, csr := w.csr, got := [] }

/-- An illegal-instruction exception to M mode (R461). -/
def HartIllegal (v w : Hart) : Prop :=
  w.priv = 3 ∧ w.c 0x342 = 2 ∧ w.c 0x341 = v.core.pc % 2 ^ 64 ∧ bits (w.c 0x300) 11 2 = v.priv % 4 ∧ bit (w.c 0x300) 3 = false ∧
    w.core.pc = vectorOf (v.c 0x305) 2 false ∧ w.resv = none

/-- The device but for queue `q` of the host interface is the same. -/
def OnlyQueue (d t : Dev) (q : Nat) : Prop := t = { d with hif := { d.hif with queues := t.hif.queues } } ∧ ∀ r, r ≠ q → t.hq r = d.hq r

/-- The device but for its outputs and queue `q` of the host interface is the same. -/
def OnlyQueueOut (d t : Dev) (q : Nat) : Prop := OnlyQueue { d with out := t.out } t q

/-- A ring base that a queue accepts (R496): 4 KiB aligned, below 0x4000_0000_0000 and outside the boot window. -/
def RingBase (a : Nat) : Prop := a % 4096 = 0 ∧ a < 0x400000000000 ∧ (a < 0x300000000000 ∨ 0x3000FFFFFFFF < a)

/-- A bit of a register as a write leaves it by its field's access code (R8, R10): `addressed` says that the access reaches it, `w` is the bit written. -/
def codeBit (acc : Acc) (sealed addressed w old : Bool) : Bool :=
  match acc with
  | .rw | .wo => if addressed then w else old
  | .rs => if addressed && !sealed then w else old
  | .w1c => old && !(addressed && w)
  | _ => old

/-- The command leaves the device as `P` says, and then what the homes held for a core goes on (R264, R310). -/
def Freed (t : State) (P : Dev → Prop) : Prop := ∃ d, t.dev = d.releaseFree ∧ P d

/-- A steward core that can start an instruction. -/
def HartReady (s : State) (h : Nat) : Prop := s.dev.on = true ∧ s.dev.hartReady h = true

end Sys2Proof.Machine
end

