-- ==== Sys2Proof/Certificates/Slice0/Obligations.lean ====
section
/-! DEFINITION. The statements about the model, for the provers. -/

open Sys2Proof Sys2Proof.Machine

/-- A step of the block with command `c` at the front of its queue is `exec` of `c` on the state with the queue's rest; a step on an empty queue is 10 ns of
idling (assumption 5, the model's choice). -/
def Obligations.StepRunsFront : Prop :=
  (∀ (c : Instr) (rest : List Instr) (s : State), s.pending = c :: rest → step s = exec c { s with pending := rest }) ∧
  (∀ s : State, s.pending = [] → step s = .next (idleStep s))

/-- Every command answers a next state in every state, never a fault or a refusal, and no command changes the queue of waiting commands. -/
def Obligations.ExecAnswers : Prop :=
  ∀ (c : Instr) (s : State), ∃ t : State, exec c s = .next t ∧ t.pending = s.pending

/-- While the device has no power or has tripped, no command but COLD_START, PWR_GOOD_DEASSERT and the commands of the sideband changes anything. -/
def Obligations.InertWithoutPower : Prop :=
  ∀ (c : Instr) (s : State), s.dev.on = false →
    (match c with
      | .coldStart _ | .pwrGoodDeassert _ | .sbRead _ _ | .sbReset _ _ | .sbAlert _ | .sbIdent => True
      | _ => exec c s = .next s)

/-- After reset every field of the register map but the fuses reads its Reset value, TICK_COUNT is zero and the tick generator STOPPED, every perch is OFF,
no steward core runs, memory lists nothing, the device is not sealed and no command waits. -/
def Obligations.ResetState : Prop :=
  (∀ die f, State.reset.dev.rd die f = f.reset % 2 ^ f.width) ∧ State.reset.dev.tick = 0 ∧ State.reset.dev.tickState = tsStopped ∧
  (∀ p, (State.reset.dev.perch p).pstate = 0) ∧ (∀ h, (State.reset.dev.hart h).running = false) ∧ State.reset.dev.mem = [] ∧
  State.reset.dev.sealed = false ∧ State.reset.pending = []

/-- The invariant of the stores holds after reset. -/
def Obligations.ResetInv : Prop := State.reset.Inv

/-- From every state whose memory, register and flash stores are in canonical form, a step (a command or idling) leaves them in canonical form. -/
def Obligations.StepKeepsInv : Prop :=
  ∀ s t : State, s.Inv → step s = .next t → t.Inv

/-- Writing a register field makes it read the low bits of the value; every field that does not share its bits reads as before, and nothing but registers
changes. -/
def Obligations.RegisterFieldWrite : Prop :=
  ∀ (d : Dev) (die : Nat) (f : Fld) (v : Nat),
    (d.wr die f v).rd die f = v % 2 ^ f.width ∧ RegsKept d (d.wr die f v) [(die, f)] ∧ OnlyRegs d (d.wr die f v)

/-- A cold start on a board whose edges have not trained yet: the device runs, the straps are held, the cold starts are counted and nothing else that keeps
its value without power changes; perches are OFF, cores held in reset, the tick STOPPED at count zero, memory empty, the device unsealed. With TEST_N high
boot waits in discovery (STAGE 1); with TEST_N low it stays in manufacturing test (STAGE 0). -/
def Obligations.ColdStartBegins : Prop :=
  ∀ (b : Board) (s : State), b.edges = [] → b.isolated = [] →
    ∃ t : State, exec (.coldStart b) s = .next t ∧ t.pending = s.pending ∧ t.dev.on = true ∧
      t.dev.nv = { s.dev.nv with coldCount := s.dev.nv.coldCount + 1 } ∧ t.dev.boot.strap = b.strapAddr % 4 ∧ t.dev.boot.test = !b.testN ∧
      (∀ p, (t.dev.perch p).pstate = 0) ∧ (∀ h, (t.dev.hart h).running = false) ∧ t.dev.tickState = tsStopped ∧ t.dev.tick = 0 ∧
      t.dev.mem = [] ∧ t.dev.sealed = false ∧
      (if b.testN then t.dev.stage = 1 ∧ t.dev.boot.wait = 2 else t.dev.stage = 0 ∧ t.dev.boot.wait = 0)

/-- A deassertion of PWR_GOOD of 1 µs or more stops the device: nothing runs, every register field reads its Reset value, memory and every unit are as
before power, and what keeps its value without power stays; a shorter pulse changes nothing. -/
def Obligations.PowerLoss : Prop :=
  ∀ (width : Nat) (s : State), ∃ t : State, exec (.pwrGoodDeassert width) s = .next t ∧ t.pending = s.pending ∧
    (width < 1000 → t = s) ∧
    (1000 ≤ width → t.dev.on = false ∧ t.dev.nv = s.dev.nv ∧ t.dev.out = s.dev.out ∧ (∀ die f, t.dev.rd die f = f.reset % 2 ^ f.width) ∧
      t.dev = { State.reset.dev with nv := s.dev.nv, seed := s.dev.seed, out := s.dev.out })

/-- During discovery, an edge that trains adds its evidence, and a port that does not train is isolated; while another edge still trains, discovery goes on
waiting. Memory and perches do not change. -/
def Obligations.DiscoveryWaits : Prop :=
  ∀ (s : State) (e : EdgeEvidence) (site port : Nat), s.dev.on = true → s.dev.boot.wait = 2 →
    (e.edge < s.dev.edgeEnds.length → (s.dev.evidenceOf e.edge).isNone = true →
      (s.dev.updBoot (fun b => { b with evidence := b.evidence ++ [e] })).edgesKnown = false →
      ∃ t : State, exec (.edgeTrained e) s = .next t ∧ t.pending = s.pending ∧ t.dev.boot.evidence = s.dev.boot.evidence ++ [e] ∧
        t.dev.boot.wait = 2 ∧ t.dev.stage = s.dev.stage ∧ t.dev.mem = s.dev.mem ∧ t.dev.perches = s.dev.perches) ∧
    ((∃ x ∈ s.dev.edgeEnds.zipIdx, ((x.1.1 = site ∧ x.1.2.1 = port) ∨ (x.1.2.2.1 = site ∧ x.1.2.2.2 = port)) ∧ (s.dev.evidenceOf x.2).isNone = true) →
      (s.dev.updBoot (fun b => { b with isolated := b.isolated ++ [(site, port)] })).edgesKnown = false →
      ∃ t : State, exec (.edgeTrainTimeout site port) s = .next t ∧ t.pending = s.pending ∧
        t.dev.boot.isolated = s.dev.boot.isolated ++ [(site, port)] ∧ t.dev.boot.wait = 2 ∧ t.dev.stage = s.dev.stage ∧
        t.dev.mem = s.dev.mem ∧ t.dev.perches = s.dev.perches)

/-- A step of boot that lasts too long halts it: FIRMWARE in step 3, MEMORY in step 6, NVME in step 8; tick acquisition with REQ_LOCK halts with TICK and
without it goes to FREERUN; a worker or spare that is never sealed halts with LEAGUE, and so does a manager whose wait for its members ends without a plan
for them. After a halt STAGE is HALTED, HALT holds the cause, vector 5 is raised, perches are OFF and no core runs. -/
def Obligations.BootTimeouts : Prop :=
  ∀ s : State, s.dev.on = true →
    let Halted := fun (cause : Nat) (t : State) => t.pending = s.pending ∧ t.dev.stage = 9 ∧ t.dev.rd 0 Reg.BOOT_STATE.HALT = cause ∧
      bit (t.dev.rd 0 Reg.HIF_EVENT.RAISED) 5 = true ∧ (∀ p, (t.dev.perch p).pstate = 0) ∧ (∀ h, (t.dev.hart h).running = false) ∧
      t.dev.tickState = tsStopped ∧ t.dev.boot.ready = false
    (∀ n c, (n, c) ∈ [(3, 0x0C), (6, 0x06), (8, 0x07)] → s.dev.boot.wait = n →
      ∃ t : State, exec (.bootStepTimeout n) s = .next t ∧ Halted c t) ∧
    (s.dev.tickState = tsAcquiring → s.dev.rd 0 Reg.TICK_CTRL.REQ_LOCK = 1 →
      ∃ t : State, exec .tickAcquireTimeout s = .next t ∧ Halted 0x0A t) ∧
    (s.dev.tickState = tsAcquiring → s.dev.rd 0 Reg.TICK_CTRL.REQ_LOCK = 0 →
      ∃ t : State, exec .tickAcquireTimeout s = .next t ∧ t.pending = s.pending ∧ t.dev.tickState = tsFreerun ∧
        t.dev.rd 0 Reg.TICK_STATUS.NO_REF = 1 ∧ t.dev.rd 0 Reg.TICK_STATUS.ACTIVE_SRC = srcInternal) ∧
    ((s.dev.rd 0 Reg.LINK_CFG.ROLE = 2 ∨ s.dev.rd 0 Reg.LINK_CFG.ROLE = 3) → s.dev.boot.ready = true → s.dev.sealed = false → s.dev.boot.fresh = true →
      ∃ t : State, exec .leagueSealTimeout s = .next t ∧ Halted 0x0B t) ∧
    (s.dev.isManager = true → s.dev.boot.ready = true → s.dev.sealed = false → s.dev.boot.fresh = true → s.dev.league.sealPlan = none →
      (s.dev.pickPlan s.dev.serviceMask = none → ∃ t : State, exec .joinWaitExpiry s = .next t ∧ Halted 0x0B t) ∧
      (s.dev.pickPlan s.dev.serviceMask ≠ none → ∃ t : State, exec .joinWaitExpiry s = .next t ∧ t.pending = s.pending ∧
        t.dev.league = { s.dev.league with waited := true } ∧ { t.dev with league := s.dev.league } = s.dev))

/-- Where boot may seal, SEAL sets SEALED on every placed die and in HIF_STATUS, enters STAGE SEALED and raises vector 5; every core of the part runs
resident software. -/
def Obligations.SealSeals : Prop :=
  ∀ s : State, s.dev.on = true → s.dev.maySeal = true →
    ∃ t : State, exec .seal s = .next t ∧ t.pending = s.pending ∧ t.dev.stage = 8 ∧ t.dev.sealed = true ∧ t.dev.rd 0 Reg.HIF_STATUS.SEALED = 1 ∧
      (∀ die ∈ s.dev.dies, s.dev.placed die = true → t.dev.rd die Reg.GLB_SEAL_STATUS.SEALED = 1) ∧
      bit (t.dev.rd 0 Reg.HIF_EVENT.RAISED) 5 = true ∧ (∀ h, s.dev.hartOk h = true → s.dev.placed (h / 64) = true → (t.dev.hart h).running = true) ∧
      t.dev.tick = s.dev.tick ∧ t.dev.tickState = s.dev.tickState

/-- DEVICE_RESET of a device that is not sealed, and SB_RESET with the key 0xA5, restart boot at discovery: on a board whose edges have not trained yet
STAGE is 1 and boot waits for them; perches are OFF, no core runs, and the contents of memory stay. SB_RESET also answers STATUS 0. -/
def Obligations.DeviceResetRestartsBoot : Prop :=
  ∀ (b : Board) (s : State), s.dev.on = true → b.edges = [] → b.isolated = [] → s.dev.rd 0 Reg.HIF_STATUS.IN_RESET = 0 → s.dev.stage ≠ 0 →
    s.dev.sealed = false → s.dev.rd 0 Reg.RAS_PKG.DIE_FAILED = 0 →
    let Restarted := fun (t : State) => t.pending = s.pending ∧ t.dev.stage = 1 ∧ t.dev.boot.wait = 2 ∧ t.dev.boot.ready = false ∧
      (∀ p, (t.dev.perch p).pstate = 0) ∧ (∀ h, (t.dev.hart h).running = false) ∧ t.dev.mem = s.dev.mem ∧ t.dev.nv = s.dev.nv
    (∃ t : State, exec (.deviceReset b) s = .next t ∧ Restarted t ∧ t.dev.out = s.dev.out) ∧
    (∃ t : State, exec (.sbReset 0xA5 b) s = .next t ∧ Restarted t ∧ t.dev.out = s.dev.out ++ [.sideband [0]]) ∧
    (∀ key, key ≠ 0xA5 → ∃ t : State, exec (.sbReset key b) s = .next t ∧ t.pending = s.pending ∧
      t.dev = { s.dev with out := s.dev.out ++ [.sideband [0]] })

/-- DEVICE_RESET of a sealed device stops dispatch, unseals it and shows vectors 6 and 7 raised; queues of the host interface, outstanding accesses, buffers
and core state are gone, and a perch that was on is IDLE with nothing loaded. On a board whose edges have not trained
yet boot waits in discovery. -/
def Obligations.DeviceResetSealed : Prop :=
  ∀ (b : Board) (s : State), s.dev.on = true → b.edges = [] → b.isolated = [] → s.dev.rd 0 Reg.HIF_STATUS.IN_RESET = 0 → s.dev.stage ≠ 0 →
    s.dev.sealed = true → s.dev.rd 0 Reg.RAS_PKG.DIE_FAILED = 0 →
    ∃ t : State, exec (.deviceReset b) s = .next t ∧ t.pending = s.pending ∧ t.dev.boot.wait = 2 ∧ t.dev.rd 0 Reg.TICK_STATUS.DISPATCHING = 0 ∧
      t.dev.rd 0 Reg.HIF_STATUS.SEALED = 0 ∧ t.dev.rd 0 Reg.HIF_EVENT.RAISED = 0xC0 ∧ t.dev.harts = [] ∧ t.dev.wcb = [] ∧
      t.dev.remote = [] ∧ (∀ p, t.dev.perch p = {} ∨ t.dev.perch p = { pstate := 2 })

/-- While the sideband is live, SB_READ answers STATUS 0 with the register that a die view shows, or STATUS 1 and, before seal, nothing else; after a trip the
PWR and BOOT blocks alone; SB_ALERT answers the events raised and clears those acknowledged; SB_IDENT answers the serial number, the part, STAGE and HALT.
SB_ALERT and SB_IDENT change nothing else. That a refused read answers eight zero bytes is the model's choice (assumption 29). -/
def Obligations.SidebandAnswers : Prop :=
  ∀ s : State, s.dev.sidebandLive = true →
    let Shown := fun (die off v : Nat) => ∃ t : State, exec (.sbRead die off) s = .next t ∧ t.pending = s.pending ∧
      t.dev = { s.dev with out := s.dev.out ++ [.sideband (0#8 :: leBytes 8 v)] }
    (∀ die off, s.dev.on = true → s.dev.boot.tripped = false → s.dev.rd 0 Reg.HIF_STATUS.IN_RESET = 0 →
      (∀ v, s.dev.viewRead die off = some v → Shown die off v) ∧
      (s.dev.viewRead die off = none → ∃ t : State, exec (.sbRead die off) s = .next t ∧ t.pending = s.pending ∧
        t.dev.out = s.dev.out ++ [.sideband (1#8 :: leBytes 8 0)] ∧ t.dev.mem = s.dev.mem ∧ t.dev.perches = s.dev.perches ∧
        (s.dev.sealed = false → t.dev = { s.dev with out := s.dev.out ++ [.sideband (1#8 :: leBytes 8 0)] }))) ∧
    (∀ die off v, s.dev.boot.tripped = true → off % 8 = 0 → 0x20000 ≤ off → off < 0x30000 → s.dev.reg64 die off = some v → Shown die off v) ∧
    (∀ die off, s.dev.boot.tripped = true → off < 0x20000 → ∃ t : State, exec (.sbRead die off) s = .next t ∧
      t.dev = { s.dev with out := s.dev.out ++ [.sideband (1#8 :: leBytes 8 0)] }) ∧
    (∀ ack, ∃ t : State, exec (.sbAlert ack) s = .next t ∧ t.pending = s.pending ∧
      (∀ i, bit t.dev.alerts i = (bit s.dev.alerts i && !bit ack i)) ∧
      { t.dev with alerts := s.dev.alerts } = { s.dev with out := s.dev.out ++ [.sideband [0#8, BitVec.ofNat 8 s.dev.alerts]] }) ∧
    (∃ t : State, exec .sbIdent s = .next t ∧ t.pending = s.pending ∧
      t.dev = { s.dev with out := s.dev.out ++ [.sideband ([0#8] ++ leBytes 8 s.dev.nv.serial ++
        [BitVec.ofNat 8 (s.dev.rd 0 Reg.GLB_DIE_ID.PART), BitVec.ofNat 8 s.dev.stage, BitVec.ofNat 8 (s.dev.rd 0 Reg.BOOT_STATE.HALT)])] })

/-- JTAG_INSTRUCTION selects the identification word, the bypass register, or before seal the boundary register with a word that the model leaves free; the
opcodes are opaque (assumption 48). After seal every other instruction selects the bypass register. -/
def Obligations.JtagSelects : Prop :=
  ∀ (ir : Nat) (s : State), s.dev.on = true →
    ∃ t : State, exec (.jtagInstruction ir) s = .next t ∧ t.pending = s.pending ∧
      (ir = Config.idcodeOp → t.dev = s.dev.emit (.jtag 1 Config.idcodeWord)) ∧
      (ir ≠ Config.idcodeOp → ir = Config.bypassOp ∨ s.dev.sealed = true → t.dev = s.dev.emit (.jtag 0 0)) ∧
      (ir ≠ Config.idcodeOp → ir ≠ Config.bypassOp → s.dev.sealed = false →
        t.dev = { s.dev with seed := s.dev.seed + 1, out := s.dev.out ++ [.jtag 2 (Config.freeWord s.dev.seed)] })

/-- A retrain of an edge that is UP counts in RETRAIN of both ends (saturating at 255) and sets class EDGE on both dies; the edge stays UP where the retrain
succeeds. -/
def Obligations.EdgeRetrainCounts : Prop :=
  ∀ (n : Nat) (e : Nat × Nat × Nat × Nat) (s : State), s.dev.on = true → s.dev.edgeEnds[n]? = some e → s.dev.edgeSt e = esUp →
    (∃ t : State, exec (.edgeRetrain n true) s = .next t ∧ t.pending = s.pending ∧ t.dev.edgeSt e = esUp ∧
      t.dev.rd e.1 (edgeRetrain e.2.1) = min (s.dev.rd e.1 (edgeRetrain e.2.1) + 1) 255 ∧
      t.dev.rd e.2.2.1 (edgeRetrain e.2.2.2) = min (s.dev.rd e.2.2.1 (edgeRetrain e.2.2.2) + 1) 255 ∧
      bit (t.dev.rd e.1 Reg.RAS_ERR.CLASS) 11 = true ∧ bit (t.dev.rd e.2.2.1 Reg.RAS_ERR.CLASS) 11 = true ∧
      { t.dev with regs := s.dev.regs, regsSt := s.dev.regsSt, errNew := s.dev.errNew } = s.dev)

/-- R42 whole: when the 10 s in ACQUIRING end without a lock, boot halts with cause TICK where REQ_LOCK is 1, and the generator enters FREERUN with boot as
it was where REQ_LOCK is 0; and where the primary source is INTERNAL, the generator enters LOCKED as soon as boot has loaded it. -/
def Obligations.TickAcquisition : Prop :=
  (∀ s : State, s.dev.on = true → s.dev.tickState = tsAcquiring →
    (s.dev.rd 0 Reg.TICK_CTRL.REQ_LOCK = 1 → ∃ t : State, exec .tickAcquireTimeout s = .next t ∧ t.dev.stage = 9 ∧
      t.dev.rd 0 Reg.BOOT_STATE.HALT = 0x0A) ∧
    (s.dev.rd 0 Reg.TICK_CTRL.REQ_LOCK = 0 → ∃ t : State, exec .tickAcquireTimeout s = .next t ∧ t.dev.tickState = tsFreerun ∧
      t.dev.stage = s.dev.stage ∧ t.dev.boot = s.dev.boot)) ∧
  (∀ d : Dev, d.rd 0 Reg.TICK_CTRL.SRC_PRI = srcInternal → d.tickAcquire.tickState = tsLocked)

/-- A boundary marked before seal: the time of the ended tick is added, the new tick begins at 0 ns, TICK_COUNT stands and the boundary is sent to every die
with that count, the point in force and the next point are OPP_MIN and the moves of the ended tick are gone. The state is as a boot that has not sealed leaves it:
no perch, span, held access or core, and it is not a league manager. -/
def Obligations.BoundaryBeforeSeal : Prop :=
  ∀ (o : BoundaryObs) (s : State), s.dev.on = true → s.dev.tickState ≠ tsStopped → s.dev.sealed = false → s.dev.boot.fresh = true →
    s.dev.isManager = false → s.dev.held = [] → s.dev.peerHeld = [] → s.dev.harts = [] → s.dev.perches = [] → s.dev.spans = [] →
    ∃ t : State, exec (.tickBoundary o) s = .next t ∧ t.pending = s.pending ∧ t.dev.elapsed = 0 ∧
      t.dev.timeNs = s.dev.timeNs + (((s.dev.period * 1000 : Nat) : Int) + s.dev.gen.adj).toNat ∧ t.dev.tick = s.dev.tick ∧
      Out.boundary s.dev.tick ∈ t.dev.out ∧ t.dev.opp = s.dev.rd 0 Reg.PWR_CTRL.OPP_MIN ∧
      t.dev.rd 0 Reg.PWR_STATUS.OPP_NEXT = s.dev.rd 0 Reg.PWR_CTRL.OPP_MIN ∧ t.dev.moves = [] ∧ t.dev.mem = s.dev.mem ∧
      t.dev.perches = []

/-- At a boundary TICK_COUNT rises by one, modulo 2^64, once dispatch has begun; before the first seal it stands, and the boundary that follows the first seal
begins the tick that it shows. At a boundary of a generator that is not LOCKED, with the primary within ±1 µs for the sixteenth tick in a row, the generator locks to it; in LOCKED, a third event
missing in a row sets SRC_LOST and enters HOLDOVER; a missing event counts in SRC_MISS; and while LOCKED each tick is corrected by what is left of the
error, at most 500 ns, and nothing within 50 ns. -/
def Obligations.GeneratorRules : Prop :=
  ∀ (o : BoundaryObs) (d : Dev),
    (d.boot.fresh = false → d.countTick.tick = (d.tick + 1) % 2 ^ 64) ∧ (d.boot.fresh = true → d.countTick.tick = d.tick) ∧
    (d.boot.fresh = true → d.sealed = true → d.countTick.boot.fresh = false) ∧ (d.boot.fresh = true → d.sealed = false → d.countTick = d) ∧
    (d.tickState ≠ tsLocked → d.gen.priRun = 15 → (∃ e : Int, -1000 ≤ e ∧ e ≤ 1000 ∧
        d.sourceEvent (d.rd 0 Reg.TICK_CTRL.SRC_PRI) o.ptpValid o.priErr = .err e) →
      (d.generatorBoundary o).tickState = tsLocked ∧ (d.generatorBoundary o).rd 0 Reg.TICK_STATUS.ACTIVE_SRC = d.rd 0 Reg.TICK_CTRL.SRC_PRI) ∧
    (d.tickState = tsLocked → d.rd 0 Reg.TICK_STATUS.ALT_ACTIVE = 0 → d.gen.missRun = 2 → d.gen.altRun < 15 →
        d.sourceEvent (d.rd 0 Reg.TICK_CTRL.SRC_PRI) o.ptpValid o.priErr = .missing →
      (d.generatorBoundary o).tickState = tsHoldover ∧ (d.generatorBoundary o).rd 0 Reg.TICK_STATUS.SRC_LOST = 1 ∧
      (d.generatorBoundary o).rd 0 Reg.TICK_OVERRUN_CNT.SRC_MISS = min (d.rd 0 Reg.TICK_OVERRUN_CNT.SRC_MISS + 1) 65535) ∧
    (∀ e : Int, -500 ≤ slewOf e ∧ slewOf e ≤ 500 ∧ (-50 ≤ e → e ≤ 50 → slewOf e = 0)) ∧
    (∀ e : Int, d.tickState = tsLocked → (d.correct e).gen = { d.gen with adj := slewOf d.gen.left, left := d.gen.left - slewOf d.gen.left })

/-- While the generator runs and is not ACQUIRING, a TICK_IN pulse of 100 ns or more, or a PPS edge, counts for the coming boundary where it
lies within 2 µs of it and changes nothing else, but that the boundary of a PPS edge is one that falls on PPS edges; outside it is ignored, and so is a
shorter pulse. While ACQUIRING on TICK_IN the phase steps to the
pulse. When holdover expires the generator enters FREERUN on INTERNAL and sets NO_REF. -/
def Obligations.TimingEdges : Prop :=
  ∀ s : State, s.dev.on = true →
    (∀ (w : Nat) (x : Int), 100 ≤ w → s.dev.tickState ≠ tsStopped → s.dev.tickState ≠ tsAcquiring →
      ∃ t : State, exec (.tickInPulse x w) s = .next t ∧
        (-2000 ≤ x → x ≤ 2000 → t = { s with dev := { s.dev with gen := { s.dev.gen with tickIn := some x } } }) ∧ (x < -2000 ∨ 2000 < x → t = s)) ∧
    (∀ (w : Nat) (x : Int), w < 100 → exec (.tickInPulse x w) s = .next s) ∧
    (∀ (w : Nat) (x : Int), 100 ≤ w → s.dev.tickState = tsAcquiring → s.dev.rd 0 Reg.TICK_CTRL.SRC_PRI = srcTickIn →
      exec (.tickInPulse x w) s = .next { s with dev := { s.dev with gen := { s.dev.gen with adj := s.dev.gen.adj + x, tickIn := some 0 } } }) ∧
    (∀ x : Int, s.dev.tickState ≠ tsStopped → s.dev.tickState ≠ tsAcquiring →
      ∃ t : State, exec (.ppsEdge x) s = .next t ∧
        (-2000 ≤ x → x ≤ 2000 → t = { s with dev := { s.dev with gen := { s.dev.gen with pps := some x, marks := 1000000 / s.dev.period - 1 } } }) ∧ (x < -2000 ∨ 2000 < x → t = s)) ∧
    (s.dev.tickState = tsHoldover → ∃ t : State, exec .holdoverExpiry s = .next t ∧ t.pending = s.pending ∧ t.dev.tickState = tsFreerun ∧
      t.dev.rd 0 Reg.TICK_STATUS.ACTIVE_SRC = srcInternal ∧ t.dev.rd 0 Reg.TICK_STATUS.NO_REF = 1 ∧ t.dev.rd 0 Reg.TICK_TIME.PHASE_ERR = 0 ∧
      RegsKept s.dev t.dev [(0, Reg.TICK_STATUS.STATE), (0, Reg.TICK_STATUS.ACTIVE_SRC), (0, Reg.TICK_STATUS.ALT_ACTIVE), (0, Reg.TICK_STATUS.NO_REF),
        (0, Reg.TICK_TIME.PHASE_ERR)] ∧
      t.dev.mem = s.dev.mem ∧ t.dev.perches = s.dev.perches ∧ t.dev.harts = s.dev.harts)

/-- A regulator's report sets SETTLED of its die and ends the rise that it confirms. A rise that is late counts in LATE and stops the die, and so does the
loss of a die's clock: every edge of the die that was UP is ISOLATED on both ends, and the die counts as failed. -/
def Obligations.DieStops : Prop :=
  ∀ (die : Nat) (s : State), s.dev.on = true →
    let Stopped := fun (t : State) => t.pending = s.pending ∧ t.dev.dieFailed die = true ∧ t.dev.mem = s.dev.mem ∧ t.dev.perches = s.dev.perches ∧
      (∀ e ∈ s.dev.edgesOf die, s.dev.edgeSt e = esUp →
        t.dev.rd e.1 (edgeState e.2.1) = esIsolated ∧ t.dev.rd e.2.2.1 (edgeState e.2.2.2) = esIsolated)
    (die ∈ s.dev.dies → ∃ t : State, exec (.avsConfirm die) s = .next t ∧ t.pending = s.pending ∧ t.dev.rd die Reg.PWR_AVS.SETTLED = 1 ∧
      RegsKept s.dev t.dev [(die, Reg.PWR_AVS.SETTLED)] ∧ die ∉ t.dev.power.rising ∧ t.dev.mem = s.dev.mem ∧ t.dev.perches = s.dev.perches) ∧
    (die ∈ s.dev.power.rising → ∃ t : State, exec (.avsRiseLate die) s = .next t ∧ Stopped t ∧
      t.dev.rd die Reg.PWR_AVS.LATE = min (s.dev.rd die Reg.PWR_AVS.LATE + 1) 65535) ∧
    (die ≠ 0 → die ∈ s.dev.dies → s.dev.placed die = true → s.dev.dieFailed die = false →
      ∃ t : State, exec (.dieClockLoss die) s = .next t ∧ Stopped t)

/-- A thermal trip shows its cause in TRIP_CAUSE and stops every perch and core, and then nothing runs until power goes; the loss of ETHREF for more than
1 µs and the loss of S0's clock stop every die; a shorter loss of ETHREF changes nothing. -/
def Obligations.DeviceStops : Prop :=
  ∀ s : State, s.dev.on = true →
    let Dead := fun (t : State) => t.pending = s.pending ∧ t.dev.on = false ∧ (∀ p, (t.dev.perch p).pstate = 0) ∧
      (∀ h, (t.dev.hart h).running = false) ∧ t.dev.nv = s.dev.nv
    (∀ cause die, ((cause = 1 ∨ cause = 2) ∧ die ∈ s.dev.computeDies) ∨ (cause = 3 ∧ die ∈ s.dev.stewardDies) →
      ∃ t : State, exec (.thermalTrip cause die) s = .next t ∧ Dead t ∧ t.dev.boot.tripped = true ∧ t.dev.rd die Reg.PWR_THERM.TRIP_CAUSE = cause ∧
        RegsKept s.dev t.dev [(die, Reg.PWR_THERM.TRIP_CAUSE)]) ∧
    (∀ ns, 1000 < ns → ∃ t : State, exec (.ethrefLoss ns) s = .next t ∧ Dead t ∧ t.dev.regs = s.dev.regs ∧ t.dev.regsSt = s.dev.regsSt) ∧
    (∀ ns, ns ≤ 1000 → exec (.ethrefLoss ns) s = .next s) ∧
    (∃ t : State, exec (.dieClockLoss 0) s = .next t ∧ Dead t ∧ t.dev.regs = s.dev.regs ∧ t.dev.regsSt = s.dev.regsSt)

/-- In a tick that is dispatched, a span of the tick's pattern starts on an idle perch of its group: the perch runs it with the whole budget, its pc at the
kernel's entry, x2 the top of the scratchpad, the argument address, ordinal and group size in x10 to x13 and every other x register zero, its counters
zero and its matrix array empty. A late start does the same and counts in TICK_OVERRUN_CNT.LATE of the die once a tick. Of another perch only the credit of an
endpoint may change. A suspended continuation resumes instead and is not the subject here. -/
def Obligations.SpanStarts : Prop :=
  ∀ (span : Nat) (src : PerchStart) (e : SpanEntry) (s : State), s.dev.on = true → s.dev.dispatching = true → s.dev.entryOf span = some e →
    s.dev.skips e (s.dev.groupMap e) = false → s.dev.perchOk src.perch = true → bit (s.dev.groupMap e) src.perch = true →
    (s.dev.perch src.perch).pstate = 2 → s.dev.startedNow src.perch e = false →
    (e.kind = 0 ∨ KMap.get 0 (s.dev.cont e.contId).saved src.perch ≠ 1) →
    let p := src.perch
    let Started := fun (d : Dev) (t : State) =>
      let v := t.dev.perch p
      t.pending = s.pending ∧ v.pstate = 3 ∧ v.spanId = e.spanId ∧ v.kernel = e.kernel ∧ v.part = e.partition ∧ v.budget = e.budget ∧
      v.remaining = e.budget ∧ v.expired = false ∧ v.core.pc = 0x80000000 + (s.dev.kernel e.kernel).entry ∧ v.core.gx 2 = 0x180000 ∧
      v.core.gx 10 = e.argDva % 2 ^ 32 ∧ v.core.gx 11 = e.argDva / 2 ^ 32 ∧ v.core.gx 12 = ordinalOf (s.dev.groupMap e) p ∧
      v.core.gx 13 = groupSizeOf (s.dev.groupMap e) ∧ (∀ r, r ∉ [2, 10, 11, 12, 13] → v.core.gx r = 0) ∧ (∀ n, KMap.get 0 v.ctr n = 0) ∧
      v.mtvec = 0 ∧ v.inTrap = false ∧ v.icache = [] ∧ v.wcb = [] ∧ v.arr = { activity := 4, window := true } ∧ v.stall = .none ∧
      t.dev.mem = s.dev.mem ∧ t.dev.harts = d.harts ∧ t.dev.elapsed = d.elapsed ∧
      (∀ q, q ≠ p → t.dev.perch q = { d.perch q with ep := (t.dev.perch q).ep })
    (∃ t : State, exec (.spanStart span src) s = .next t ∧ Started (s.dev.toTime e.startNs) t ∧ t.dev.regs = s.dev.regs ∧ t.dev.regsSt = s.dev.regsSt) ∧
    (KMap.get 0 s.dev.lateIn p ≠ s.dev.tick + 1 →
      ∃ t : State, exec (.spanLateStart span src) s = .next t ∧ Started (s.dev.toTime (e.startNs + 1)) t ∧
        t.dev.rd (perchDie p) Reg.TICK_OVERRUN_CNT.LATE = min (s.dev.rd (perchDie p) Reg.TICK_OVERRUN_CNT.LATE + 1) 65535 ∧
        RegsKept s.dev t.dev [(perchDie p, Reg.TICK_OVERRUN_CNT.LATE)])

/-- SPANEND, where the timer has not reached zero or reaches it in this cycle, leaves the perch IDLE and its span counted as ended well. The end of the budget
and a displacement shed a drop span, whichever of the two comes first: the perch is IDLE, its counters are cleared, its array is empty, SHEDS counts and
TICK_LAST_SHED names span, outcome, perch and tick; a displacement counts in DISPLACED too. No collective waits for what the span has posted. -/
def Obligations.SpanEnds : Prop :=
  ∀ (p : Nat) (s : State), s.dev.on = true → s.dev.runs? p = true → s.dev.collQuiet p (s.dev.perch p).spanId = true →
    let v := s.dev.perch p
    let die := perchDie p
    let expiry := s.dev.elapsed + s.dev.cyclesNs v.remaining
    let Shed := fun (t : State) (outcome : Nat) => t.pending = s.pending ∧ (t.dev.perch p).pstate = 2 ∧ (t.dev.perch p).ctr = [] ∧
      (t.dev.perch p).arr.queue = [] ∧ (t.dev.perch p).arr.inflight = [] ∧ (t.dev.perch p).arr.plane0 = {} ∧ (t.dev.perch p).arr.plane1 = {} ∧
      (∀ c, c < 8 → (t.dev.ctxOf p c).queue = []) ∧ (t.dev.perch p).storeBuf = [] ∧
      t.dev.rd die Reg.TICK_SHED_CNT.SHEDS = min (s.dev.rd die Reg.TICK_SHED_CNT.SHEDS + 1) (2 ^ 32 - 1) ∧
      t.dev.rd die Reg.TICK_LAST_SHED.SPAN_ID = v.spanId % 65536 ∧ t.dev.rd die Reg.TICK_LAST_SHED.OUTCOME = outcome ∧
      t.dev.rd die Reg.TICK_LAST_SHED.PERCH = p % 65536 ∧ t.dev.rd die Reg.TICK_LAST_SHED.TICK_LO = s.dev.tick % 65536 ∧
      bit (t.dev.span v.spanId).seen outcome = true
    (s.dev.mayEnd p = true → ∃ t : State, exec (.spanend p) s = .next t ∧ t.pending = s.pending ∧ (t.dev.perch p).pstate = 2 ∧
      (t.dev.perch p).storeBuf = [] ∧ bit (t.dev.span v.spanId).seen ocCompleted = true ∧
      (t.dev.span v.spanId).running = (s.dev.span v.spanId).running - 1 ∧ t.dev.mem = (s.dev.drainStores p).mem ∧
      t.dev.regs = s.dev.regs ∧ t.dev.regsSt = s.dev.regsSt ∧ (∀ q, q ≠ p → t.dev.perch q = s.dev.perch q)) ∧
    ((∀ e, s.dev.anyEntry v.spanId = some e → e.kind = 0) → ∀ i, i = .budgetExpiry p ∨ i = .displacement p →
      ((∀ at_, s.dev.displaceAt p = some at_ → v.remaining = 0 ∨ expiry ≤ at_) →
        ∃ t : State, exec i s = .next t ∧ Shed t ocBudget ∧ (t.dev.perch p).remaining = 0 ∧ t.dev.elapsed = expiry) ∧
      (∀ at_, s.dev.displaceAt p = some at_ → v.remaining ≠ 0 → at_ < expiry →
        ∃ t : State, exec i s = .next t ∧ Shed t ocDisplaced ∧ t.dev.elapsed = max s.dev.elapsed at_ ∧
          t.dev.rd die Reg.TICK_OVERRUN_CNT.DISPLACED = min (s.dev.rd die Reg.TICK_OVERRUN_CNT.DISPLACED + 1) 65535))

/-- A status record that is due is written once: its 32 bytes hold the tick, the span, the outcome, the numbers of perches and of those that did not complete,
and become the last record of the continuation. Where the entry asks for none (FLAGS bit 0 clear) memory stays; where it asks for one, they go to the entry's
STATUS address as a write of the tick unit does, and a write that fails is counted in STATUS_LOST. -/
def Obligations.StatusRecordWritten : Prop :=
  ∀ (span : Nat) (e : SpanEntry) (s : State), s.dev.on = true → (s.dev.span span).recordDue = true → s.dev.anyEntry span = some e →
    let i := s.dev.span span
    let b := i.record span
    let d := s.dev.setSpan span { i with recordDue := false }
    let d := if e.kind = 0 ∨ i.outcome = ocSkipped then d else d.updCont e.contId (fun c => { c with record := b })
    let w := d.dvaWrite (tickXq e.partition e.spanId) (.hif 0xFFFF) ((tickXq e.partition e.spanId).rq false true) none e.statusDva (clean b)
    b.length = 32 ∧ fld b 0 8 = i.tick % 2 ^ 64 ∧ fld b 8 2 = span % 65536 ∧ fld b 10 1 = i.outcome % 256 ∧ fld b 12 2 = i.perches % 65536 ∧
    fld b 14 2 = i.ended % 65536 ∧ fld b 16 4 = i.cyclesMax % 2 ^ 32 ∧ fld b 20 2 = i.dispatch % 65536 ∧ fld b 22 2 = i.firstPerch % 65536 ∧
    (bit e.flags 0 = false → exec (.spanStatusRecord span) s = .next { s with dev := d }) ∧
    (bit e.flags 0 = true → w.1 = none → ∃ t : State, exec (.spanStatusRecord span) s = .next t ∧ t.pending = s.pending ∧ t.dev = w.2) ∧
    (∀ a, bit e.flags 0 = true → w.1 = some a → ∃ t : State, exec (.spanStatusRecord span) s = .next t ∧ t.pending = s.pending ∧
      OnlyRegs w.2 t.dev ∧ t.dev.rd 0 Reg.TICK_OVERRUN_CNT.STATUS_LOST = min (w.2.rd 0 Reg.TICK_OVERRUN_CNT.STATUS_LOST + 1) 65535)

/-- When the remaining count reaches pspanwarn, before the span is displaced, the warning is pending; a write of pspanwarn sets it and ends a pending warning.
A trap with a handler saves the pc and cause, disables interrupts, sets IN_TRAP and goes to mtvec; a warning that is pending and enabled is taken as such a
trap, to its vector where mtvec asks for vectors; mret goes back to mepc and restores the interrupt enable. -/
def Obligations.SequencerTraps : Prop :=
  ∀ (p : Nat) (s : State), s.dev.on = true → s.dev.runs? p = true →
    let v := s.dev.perch p
    let d := s.dev.passNs (s.dev.cyclesNs (v.remaining - v.warn))
    let Taken := fun (t : State) (cause tval pc : Nat) => t.pending = s.pending ∧ (t.dev.perch p).mepc = v.core.pc ∧
        (t.dev.perch p).mcause = cause ∧ (t.dev.perch p).mtval = tval ∧ (t.dev.perch p).core.pc = pc ∧
        (t.dev.perch p).inTrap = true ∧ bit (t.dev.perch p).mstatus 3 = false ∧ bit (t.dev.perch p).mstatus 7 = bit v.mstatus 3 ∧
        (t.dev.perch p).core.x = v.core.x ∧ (t.dev.perch p).ctr = v.ctr ∧ OnlyPerch s.dev t.dev p
    (v.warn ≠ 0 → v.warn < v.remaining → d.displaced p = false → ∃ t : State, exec (.spanWarning p) s = .next t ∧ t.pending = s.pending ∧
      (t.dev.perch p).remaining = v.warn ∧ bit (t.dev.perch p).mip 16 = true ∧ OnlyPerch d t.dev p ∧
      t.dev.perch p = { d.perch p with remaining := v.warn, expired := v.expired, mip := (d.perch p).mip ||| 2 ^ 16 }) ∧
    (∀ x : W32, s.dev.inTime p = true → ∃ t : State, exec (.pspanwarnWrite p x) s = .next t ∧ t.pending = s.pending ∧
      (t.dev.perch p).warn = x.toNat ∧ bit (t.dev.perch p).mip 16 = false ∧ OnlyPerch s.dev t.dev p ∧
      t.dev.perch p = { v with warn := x.toNat, mip := (t.dev.perch p).mip }) ∧
    (∀ cause tval : W32, s.dev.inTime p = true → cause.toNat < 2 ^ 31 → cause.toNat ≠ 5 → v.mtvec ≠ 0 → v.inTrap = false →
      ∃ t : State, exec (.perchTrap p cause tval) s = .next t ∧ Taken t cause.toNat tval.toNat (v.mtvec / 4 * 4)) ∧
    (∀ tval : W32, s.dev.inTime p = true → bit v.mstatus 3 = true → bit v.mie 16 = true → bit v.mip 16 = true → v.mtvec ≠ 0 → v.inTrap = false →
      ∃ t : State, exec (.perchTrap p 0x80000010#32 tval) s = .next t ∧
        Taken t 0x80000010 tval.toNat (v.mtvec / 4 * 4 + (if v.mtvec % 4 = 1 then 64 else 0))) ∧
    (s.dev.seqReady p = true → ∃ t : State, exec (.perchMret p) s = .next t ∧ t.pending = s.pending ∧ (t.dev.perch p).core.pc = v.mepc ∧
      (t.dev.perch p).inTrap = false ∧ bit (t.dev.perch p).mstatus 3 = bit v.mstatus 7 ∧ (t.dev.perch p).core.x = v.core.x ∧
      (t.dev.perch p).ctr = v.ctr ∧ OnlyPerch s.dev t.dev p)

/-- A perch that a span of the schedule uses and that is idle and drained, with the gate time enabled and no span of it for longer than that, is GATED; gated and
woken it is IDLE with what it held, its array at 0 % activity; one that was OFF wakes with a scratchpad of zeros. A drained perch that no span uses is OFF
instead, its scratchpad zeros. -/
def Obligations.PerchPower : Prop :=
  ∀ (p : Nat) (s : State), s.dev.on = true → s.dev.perchOk p = true →
    let v := s.dev.perch p
    let still := fun (a : Arr) => { a with activity := 0, ramp := false, window := false }
    let Zeros := fun (t : State) => (∀ off, off < spadSize → t.dev.spadByte p off = (0#8, false)) ∧ (∀ q, q ≠ p → t.dev.perch q = s.dev.perch q) ∧
      (∀ q off, q ≠ p → off < spadSize → t.dev.spadByte q off = s.dev.spadByte q off) ∧ t.dev.regs = s.dev.regs
    (s.dev.perchUsed p = true →
      (v.pstate = 2 → s.dev.rd 0 Reg.PWR_CTRL.GATE_US ≠ 0 → s.dev.perchDrained p = true →
          (∀ w, s.dev.wakeLeft p = some w → ((s.dev.rd 0 Reg.PWR_CTRL.GATE_US * 1000 : Nat) : Int) < w) →
        ∃ t : State, exec (.perchGate p) s = .next t ∧ t.pending = s.pending ∧ OnlyPerch s.dev t.dev p ∧
          t.dev.perch p = { v with pstate := 1, arr := still v.arr }) ∧
      (v.pstate = 1 → ∃ t : State, exec (.perchWake p) s = .next t ∧ t.pending = s.pending ∧ OnlyPerch s.dev t.dev p ∧
          t.dev.perch p = { v with pstate := 2, arr := still v.arr }) ∧
      (v.pstate = 0 → ∃ t : State, exec (.perchWake p) s = .next t ∧ t.pending = s.pending ∧ (t.dev.perch p).pstate = 2 ∧ Zeros t)) ∧
    (s.dev.perchUsed p = false → (v.pstate = 1 ∨ v.pstate = 2) → s.dev.perchDrained p = true →
      ∃ t : State, exec (.perchGate p) s = .next t ∧ t.pending = s.pending ∧ (t.dev.perch p).pstate = 0 ∧ Zeros t ∧
        (t.dev.perch p).faultCause = v.faultCause ∧ (t.dev.perch p).faultPc = v.faultPc ∧ (t.dev.perch p).faultAddr = v.faultAddr)

/-- A sequencer that waits for nothing executes the instruction at its pc. The fetch touches the perch's instruction cache, the chain cache and the places
where the lines of the image stand, and nothing else. An ADDI that stands in the instruction cache adds its immediate into rd and moves past it, and nothing else
of the device changes; an instruction of the Xperch
set has the effect of its command; a word that is no instruction traps with cause 2 and the word where a handler is set. What the ECC finds in what the
instruction reads is applied first: an uncorrectable word of the scratchpad is poisoned, counted with its bank and row, and sets the class of the die. -/
def Obligations.SequencerStep : Prop :=
  ∀ (p : Nat) (s : State), Ready s p →
    let f := s.dev.seqFetch p
    let v := f.2.perch p
    (v = { s.dev.perch p with icache := v.icache } ∧ (∀ q, q ≠ p → f.2.perch q = s.dev.perch q) ∧
      OnlyMem { s.dev with chains := f.2.chains, perches := f.2.perches, seed := f.2.seed } f.2) ∧
    (∀ e o rd rs1 imm, (s.dev.perch p).core.pc = 0x80000000 + o → o + 4 ≤ s.dev.imageSize p → o % 128 + 4 ≤ 128 → 128 ≤ e.2.length →
      (s.dev.perch p).icache.find? (fun x => x.1 = o / 128) = some e → anyPoison ((e.2.drop (o % 128)).take 4) = false →
      rd < 32 → rs1 < 32 → imm < 2048 → leNat (plain ((e.2.drop (o % 128)).take 4)) = imm * 2 ^ 20 + rs1 * 2 ^ 15 + rd * 2 ^ 7 + 0x13 →
      ∃ t : State, exec (.seqInstruction p ⟨[], []⟩) s = .next t ∧ t.pending = s.pending ∧ OnlyPerch s.dev t.dev p ∧
        OnlySeq (s.dev.perch p) (t.dev.perch p) ∧ Retired (s.dev.perch p) (t.dev.perch p) rd ((s.dev.perch p).core.gx rs1 + imm)) ∧
    (∀ o : XOp, o.wf = true → f.1 = .word o.encode →
      exec (.seqInstruction p ⟨[], []⟩) s = .next { s with dev := f.2.xExec p o }) ∧
    (v.mtvec ≠ 0 → v.inTrap = false → f.1 = .word 0xFFFFFFFF →
      ∃ t : State, exec (.seqInstruction p ⟨[], []⟩) s = .next t ∧ (t.dev.perch p).mcause = 2 ∧ (t.dev.perch p).mtval = 0xFFFFFFFF ∧
        (t.dev.perch p).mepc = v.core.pc ∧ OnlyPerch f.2 t.dev p) ∧
    (∀ ecc, exec (.seqInstruction p ecc) s = .next { s with dev := (s.dev.perchFound p ecc).seqStep p }) ∧
    (∀ a, a < spadSize → s.dev.fathomSize ≤ 2 ^ 44 → p < s.dev.perchCount →
      let d := s.dev.perchFound p ⟨[], [spadBase p + a]⟩
      let e := KMap.get {} s.dev.spadErr p
      KMap.get {} d.spadErr p = { e with uncorr := min (e.uncorr + 1) 65535, bank := a / 32 % 32, row := a / 1024 % 2048 } ∧
        (d.spadByte p a).2 = true ∧ bit (d.rd (perchDie p) Reg.RAS_ERR.CLASS) 1 = true ∧ d.mem = s.dev.mem ∧ d.perches = s.dev.perches)

/-- CREAD gives the counter, CSET writes it, CADD adds a signed value clamped to 0 and 2^32 − 1; each puts the counter's earlier value into rd; hardware
increments in the same cycle are added after a CSET. CWAIT with a threshold that is reached retires with the counter's value, otherwise the sequencer
waits with nothing written; a waiting sequencer of a span that may go on does so when the counter has reached the threshold. -/
def Obligations.CounterInstructions : Prop :=
  ∀ (p n rs1 rd inc : Nat) (s : State), Ready s p → n < 64 → rs1 < 32 → rd < 32 →
    let v := s.dev.perch p
    let old := s.dev.ctr p n
    let Ctr := fun (t : State) (x : Nat) => t.pending = s.pending ∧ t.dev.ctr p n = x ∧ (∀ m, m ≠ n → t.dev.ctr p m = s.dev.ctr p m) ∧
      Retired v (t.dev.perch p) rd old ∧ OnlyPerch s.dev t.dev p
    (∃ t : State, exec (.cread p n rd inc) s = .next t ∧ Ctr t (min (old + inc) (2 ^ 32 - 1))) ∧
    (∃ t : State, exec (.cset p n rs1 rd inc) s = .next t ∧ Ctr t (min (v.core.gx rs1 % 2 ^ 32 + inc) (2 ^ 32 - 1))) ∧
    (∃ t : State, exec (.cadd p n rs1 rd inc) s = .next t ∧
      Ctr t (min ((old : Int) + toSigned 32 (v.core.gx rs1) + (inc : Int)).toNat (2 ^ 32 - 1))) ∧
    (v.core.gx rs1 ≤ old → ∃ t : State, exec (.cwait p n rs1 rd) s = .next t ∧ t.pending = s.pending ∧ Retired v (t.dev.perch p) rd old ∧
      OnlySeq v (t.dev.perch p) ∧ OnlyPerch s.dev t.dev p) ∧
    (old < v.core.gx rs1 → ∃ t : State, exec (.cwait p n rs1 rd) s = .next t ∧ OnlyPerch s.dev t.dev p ∧
      t.dev.perch p = { v with stall := .cwait n (v.core.gx rs1) rd }) ∧
    (∀ u : State, u.dev.on = true → u.dev.runs? p = true → u.dev.inTime p = true →
      (∃ threshold, (u.dev.perch p).stall = .cwait n threshold rd ∧ threshold ≤ u.dev.ctr p n) →
      ∃ t : State, exec (.cwaitSatisfied p) u = .next t ∧ t.pending = u.pending ∧ Retired (u.dev.perch p) (t.dev.perch p) rd (u.dev.ctr p n) ∧
        OnlySeq (u.dev.perch p) (t.dev.perch p) ∧ OnlyPerch u.dev t.dev p)

/-- FENCE.SC of any scope performs the buffered stores. With scope 0, or with every DMA context idle, it retires, and from scope 2 on a fence-managed partition
drops its lines from the perch's chain cache and nothing else does; with scope 1 or more and a busy context the sequencer waits. -/
def Obligations.PerchFence : Prop :=
  ∀ (p scope : Nat) (s : State), Ready s p → scope ≤ 4 →
    let part := (s.dev.perch p).part
    let d := s.dev.drainStores p
    let dropped := d.chainDrop (perchDie p) (perchChain p) (fun _ q => q = part) (fun f => f.part = part)
    (scope = 0 ∨ s.dev.dmaIdle p = true → ∃ t : State, exec (.perchFenceSc p scope) s = .next t ∧ t.pending = s.pending ∧
      Retired (s.dev.perch p) (t.dev.perch p) 0 0 ∧ (t.dev.perch p).storeBuf = [] ∧ t.dev.mem = d.mem ∧ t.dev.spadPoison = d.spadPoison ∧
      OnlyPerch (if 2 ≤ scope ∧ s.dev.fenceManaged part = true then dropped else d) t.dev p ∧ t.dev.regs = s.dev.regs) ∧
    (∀ l ∈ (dropped.chain (perchDie p) (perchChain p)).side, l.part ≠ part) ∧
    (∀ set way, ((dropped.chain (perchDie p) (perchChain p)).cache.line set way).valid = true →
      ((dropped.chain (perchDie p) (perchChain p)).cache.line set way).part ≠ part) ∧
    (1 ≤ scope → s.dev.dmaIdle p = false → ∃ t : State, exec (.perchFenceSc p scope) s = .next t ∧ t.pending = s.pending ∧
      (t.dev.perch p).stall = .fence scope ∧ OnlyPerch d t.dev p)

/-- DMAQ of an aligned offset whose descriptor lies in the scratchpad unpoisoned enters it in the context's queue where fewer than 4 wait: rd holds the
ticket, one more than before, and the context is busy; with 4 the sequencer waits; a misaligned offset traps with cause 4, one past the scratchpad with 5. DMACTL STATUS gives the status
word; ABORT empties the queue and logs cause 2; WAITIDLE gives the number of completed descriptors once the context is idle and waits before. -/
def Obligations.DmaInstructions : Prop :=
  ∀ (p c rs1 rd : Nat) (s : State), Ready s p → c < 8 → rs1 < 32 → rd < 32 →
    let v := s.dev.perch p
    let d := s.dev.drainStores p
    let off := v.core.gx rs1
    let size := dmaSize ((d.spadByte p off).1.toNat)
    let x := s.dev.ctxOf p c
    (off % 32 = 0 → off + 32 ≤ spadSize → off + size ≤ spadSize → anyPoison (d.spadRead p off size) = false → x.queue.length < 4 →
      ∃ t : State, exec (.dmaq p c rs1 rd) s = .next t ∧ t.pending = s.pending ∧ Retired v (t.dev.perch p) rd ((x.tickets + 1) % 2 ^ 32) ∧
        (t.dev.ctxOf p c).queue = x.queue ++ [{ raw := fitTo 64 (plain (d.spadRead p off size)), off := off, ticket := (x.tickets + 1) % 2 ^ 32 }] ∧
        (t.dev.ctxOf p c).tickets = (x.tickets + 1) % 2 ^ 32 ∧ (t.dev.ctxOf p c).state = 1 ∧
        (∀ k, k ≠ c → t.dev.ctxOf p k = s.dev.ctxOf p k) ∧ OnlyPerch d t.dev p) ∧
    (off % 32 = 0 → off + 32 ≤ spadSize → off + size ≤ spadSize → anyPoison (d.spadRead p off size) = false → 4 ≤ x.queue.length →
      ∃ t : State, exec (.dmaq p c rs1 rd) s = .next t ∧ (t.dev.perch p).stall = .dmaq c off rd ∧ t.dev.ctxOf p c = x ∧ OnlyPerch d t.dev p) ∧
    (off % 32 ≠ 0 → v.mtvec ≠ 0 → v.inTrap = false → ∃ t : State, exec (.dmaq p c rs1 rd) s = .next t ∧ (t.dev.perch p).mcause = 4 ∧
      (t.dev.perch p).mtval = off ∧ t.dev.ctxOf p c = x ∧ OnlyPerch d t.dev p) ∧
    (off % 32 = 0 → spadSize ≤ off → v.mtvec ≠ 0 → v.inTrap = false → ∃ t : State, exec (.dmaq p c rs1 rd) s = .next t ∧
      (t.dev.perch p).mcause = 5 ∧ (t.dev.perch p).mtval = off ∧ t.dev.ctxOf p c = x) ∧
    (∃ t : State, exec (.dmactlStatus p c rd) s = .next t ∧ t.pending = s.pending ∧ Retired v (t.dev.perch p) rd (x.status % 2 ^ 32) ∧
      OnlySeq v (t.dev.perch p) ∧ OnlyPerch s.dev t.dev p) ∧
    (∃ t : State, exec (.dmactlAbort p c rd) s = .next t ∧ t.pending = s.pending ∧
      Retired v (t.dev.perch p) rd ((t.dev.ctxOf p c).landed % 2 ^ 32) ∧ (t.dev.ctxOf p c).queue = [] ∧ (t.dev.ctxOf p c).state = 0 ∧
      (t.dev.ctxOf p c).logCause = 2 ∧ (t.dev.ctxOf p c).logSpan = v.spanId ∧ (∀ k, k ≠ c → t.dev.ctxOf p k = s.dev.ctxOf p k) ∧
      t.dev.mem = s.dev.mem ∧ t.dev.regs = s.dev.regs) ∧
    (x.queue = [] → ∃ t : State, exec (.dmactlWaitidle p c rd) s = .next t ∧ t.pending = s.pending ∧ Retired v (t.dev.perch p) rd x.done ∧
      OnlySeq v (t.dev.perch p) ∧ OnlyPerch s.dev t.dev p) ∧
    (x.queue ≠ [] → ∃ t : State, exec (.dmactlWaitidle p c rd) s = .next t ∧ OnlyPerch s.dev t.dev p ∧
      t.dev.perch p = { v with stall := .waitIdle c rd })

/-- The first descriptor of a context that has bytes to move starts, with nothing in the write-combining buffer and none behind it begun. One that moves nothing is
started with memory as it was. A 1D ZFILL into the perch's own scratchpad writes zeros over its LEN bytes, and every other byte of every scratchpad stays; it has
landed LEN bytes more. One that fails a check of R102 moves nothing and the span ends with a fault of cause 4. -/
def Obligations.DescriptorStarts : Prop :=
  ∀ (p c : Nat) (ext : Ext) (x : DmaDesc) (rest : List DmaDesc) (s : State), s.dev.on = true → s.dev.runs? p = true → s.dev.inTime p = true →
    p < s.dev.perchCount → c < 8 → (s.dev.ctxOf p c).queue = x :: rest → (s.dev.ctxOf p c).state < 2 → x.started = false → x.leaves = none →
    (∀ y ∈ rest, y.ticket ≠ x.ticket ∧ y.started = false ∧ y.leaves = none) → (s.dev.perch p).wcb = [] →
    (s.dev.dmaChecks p x.raw = true → dmaEmpty x.raw = true →
      ∃ t : State, exec (.dmaDescriptorStart p c ext ⟨[], []⟩) s = .next t ∧ t.pending = s.pending ∧
        (t.dev.ctxOf p c).queue = { x with started := true, leaves := some ([], []) } :: rest ∧ OnlyPerch s.dev t.dev p) ∧
    (s.dev.dmaChecks p x.raw = true → dmaType x.raw = 1 → dmaZfill x.raw = true → dmaDstLocal x.raw = true → dmaArrive x.raw = false →
      dmaLen x.raw ≠ 0 → x.pos = 0 → s.dev.remote.any (fun o => o.isRead && o.agent.ofCtx p c) = false → s.dev.fathomSize ≤ 2 ^ 44 →
      ∃ t : State, exec (.dmaDescriptorStart p c ext ⟨[], []⟩) s = .next t ∧ t.pending = s.pending ∧
        (∀ i, i < dmaLen x.raw → (t.dev.spadByte p (dmaDst x.raw + i)).1 = 0#8) ∧
        (∀ q off, off < spadSize → (q ≠ p ∨ off < dmaDst x.raw ∨ dmaDst x.raw + dmaLen x.raw ≤ off) →
          (t.dev.spadByte q off).1 = (s.dev.spadByte q off).1) ∧
        (t.dev.ctxOf p c).queue =
          { x with started := true, leaves := some ([], []), pos := dmaLen x.raw, landed := x.landed + dmaLen x.raw } :: rest) ∧
    (s.dev.dmaChecks p x.raw = false → s.dev.collQuiet p (s.dev.perch p).spanId = true →
      ∃ t : State, exec (.dmaDescriptorStart p c ext ⟨[], []⟩) s = .next t ∧ t.pending = s.pending ∧ (t.dev.perch p).pstate = 2 ∧
        (t.dev.perch p).faultCause = 4 ∧ (t.dev.perch p).faultCtx = c ∧ (t.dev.perch p).faultAddr = x.off % 2 ^ 48 ∧
        bit (t.dev.span (s.dev.perch p).spanId).seen ocFault = true ∧ (t.dev.ctxOf p c).queue = [])

/-- The oldest descriptor of a context, when every byte of it has moved and landed, completes: it leaves the queue, the context counts it and its
completion counter rises by one, clamped; with ARRIVE its arrival is on its way, and when it arrives the counter of the target perch rises by one. A loss among its
remote writes shows in pmemloss where a fence waits. -/
def Obligations.DescriptorCompletes : Prop :=
  ∀ (p c : Nat) (x : DmaDesc) (rest : List DmaDesc) (s : State), s.dev.on = true →
    (s.dev.powered p = true → (s.dev.ctxOf p c).queue = x :: rest → (s.dev.ctxOf p c).state < 2 → s.dev.dmaOpen p c x = false →
      ∃ t : State, exec (.dmaDescriptorComplete p c) s = .next t ∧ t.pending = s.pending ∧ (t.dev.ctxOf p c).queue = rest ∧
        (t.dev.ctxOf p c).done = min ((s.dev.ctxOf p c).done + 1) (2 ^ 18 - 1) ∧
        (∀ n, t.dev.ctr p n = if n = dmaCtr x.raw ∧ n < 64 then min (s.dev.ctr p n + 1) (2 ^ 32 - 1) else s.dev.ctr p n) ∧
        (x.lost = false → (t.dev.perch p).memloss = (s.dev.perch p).memloss) ∧
        (∀ scope, x.lost = true → (s.dev.perch p).stall = .fence scope → (t.dev.perch p).memloss = (s.dev.perch p).memloss ||| 2 ^ 30) ∧
        (t.dev.perch p).arrivals = (s.dev.perch p).arrivals ++
          (if dmaArrive x.raw then [(c, dmaArrPerch x.raw, dmaArrCtr x.raw)] else []) ∧ OnlyPerch s.dev t.dev p) ∧
    (∀ q n, (s.dev.perch p).arrivals.find? (fun a => a.1 = c) = some (c, q, n) → q < s.dev.perchCount → n < 64 →
      ∃ t : State, exec (.arrivalIncrement p c) s = .next t ∧ t.pending = s.pending ∧ t.dev.ctr q n = min (s.dev.ctr q n + 1) (2 ^ 32 - 1) ∧
        (∀ q' n', q' ≠ q ∨ n' ≠ n → t.dev.ctr q' n' = s.dev.ctr q' n') ∧ (t.dev.perch p).arrivals = (s.dev.perch p).arrivals.erase (c, q, n) ∧
        { t.dev with perches := s.dev.perches } = s.dev)

/-- SEND of a sound message queues it where fewer than 4 wait, ACK of received bytes gives that credit back to the partner that sends, ACK of more than was received
is a channel fault, STATUS gives the status word. A queued message leaves for its receiver as credit allows: whole, and then the sender's counter rises, or as much of
it as the credit; a message on its way arrives in the ring and the receiver's counter rises; credit on its way is added to the sender's and moves what it can. -/
def Obligations.StreamChannels : Prop :=
  ∀ (p ep rs1 rs2 rd : Nat) (s : State), Ready s p → ep < 32 → rs1 < 32 → rs2 < 32 → rd < 32 →
    let v := s.dev.perch p
    let e := s.dev.endp p ep
    let off := v.core.gx rs1
    let len := v.core.gx rs2
    (epRole e.cfg = 1 → len ≤ 65536 → len % 32 = 0 → len ≤ epRingKib e.cfg * 1024 → off % 32 = 0 → off + len ≤ spadSize → e.pending.length < 4 →
      ∃ t : State, exec (.scopSend p ep rs1 rs2 rd) s = .next t ∧ t.pending = s.pending ∧ Retired v (t.dev.perch p) rd 0 ∧
        t.dev.endp p ep = { e with pending := e.pending ++ [(off, len, 0)] } ∧ OnlyPerch (s.dev.drainStores p) t.dev p) ∧
    (epRole e.cfg = 2 → len % 32 = 0 → len ≤ e.credits * 32 →
      ∃ t : State, exec (.scopAck p ep rs2 rd) s = .next t ∧ t.pending = s.pending ∧ Retired v (t.dev.perch p) 0 0 ∧
        (t.dev.endp p ep).credits = e.credits - len / 32 ∧
        (∀ q f, s.dev.partner p ep = some (q, f) → (t.dev.endp q f).creditIn = (s.dev.endp q f).creditIn + len / 32) ∧
        (s.dev.partner p ep = none → OnlyPerch s.dev t.dev p) ∧ { t.dev with perches := s.dev.perches } = s.dev) ∧
    (epRole e.cfg = 2 → (len % 32 ≠ 0 ∨ e.credits * 32 < len) → s.dev.collQuiet p v.spanId = true →
      ∃ t : State, exec (.scopAck p ep rs2 rd) s = .next t ∧ (t.dev.perch p).pstate = 2 ∧ (t.dev.perch p).faultCause = 5 ∧
        (t.dev.perch p).faultDetail = ep ∧ (t.dev.perch p).faultPc = v.core.pc) ∧
    (epRole e.cfg = 1 ∨ epRole e.cfg = 2 → ∃ t : State, exec (.scopStatus p ep rd) s = .next t ∧ t.pending = s.pending ∧
      Retired v (t.dev.perch p) rd (e.status % 2 ^ 32) ∧ OnlySeq v (t.dev.perch p) ∧ OnlyPerch s.dev t.dev p) ∧
    (∀ o n moved rest q f, e.pending = (o, n, moved) :: rest → epRole e.cfg = 1 → s.dev.partner p ep = some (q, f) → s.dev.channelCut p q = false →
      (n - moved ≤ e.credits * 32 → epCtr e.cfg < 64 →
        ∃ t : State, exec (.channelSourceRelease p ep) s = .next t ∧ t.pending = s.pending ∧ (t.dev.endp p ep).pending = rest ∧
          (t.dev.endp p ep).credits = e.credits - (n - moved) / 32 ∧
          (t.dev.endp q f).transit = (s.dev.endp q f).transit ++ [(s.dev.spadRead p (o + moved) (n - moved), true)] ∧
          t.dev.ctr p (epCtr e.cfg) = min (s.dev.ctr p (epCtr e.cfg) + 1) (2 ^ 32 - 1) ∧ { t.dev with perches := s.dev.perches } = s.dev) ∧
      (0 < e.credits → e.credits * 32 < n - moved →
        ∃ t : State, exec (.channelSourceRelease p ep) s = .next t ∧ t.pending = s.pending ∧
          (t.dev.endp p ep).pending = (o, n, moved + e.credits * 32) :: rest ∧ (t.dev.endp p ep).credits = 0 ∧
          (t.dev.endp q f).transit = (s.dev.endp q f).transit ++ [(s.dev.spadRead p (o + moved) (e.credits * 32), false)] ∧
          (∀ m, t.dev.ctr p m = s.dev.ctr p m) ∧ { t.dev with perches := s.dev.perches } = s.dev)) ∧
    (∀ pre m rest, e.transit = pre ++ (m, true) :: rest → pre.any (·.2) = false → epCtr e.cfg < 64 →
      let b := pre.flatMap (·.1) ++ m
      ∃ t : State, exec (.channelMessageArrival p ep) s = .next t ∧ t.pending = s.pending ∧ (t.dev.endp p ep).transit = rest ∧
        (t.dev.endp p ep).credits = e.credits + b.length / 32 ∧ t.dev.ctr p (epCtr e.cfg) = min (s.dev.ctr p (epCtr e.cfg) + 1) (2 ^ 32 - 1) ∧
        t.dev.mem = (s.dev.ringWrite p e.cfg e.wpos b).mem ∧ t.dev.regs = s.dev.regs ∧ (∀ q, q ≠ p → t.dev.perch q = s.dev.perch q)) ∧
    (s.dev.channelCut (epPeer e.cfg) p = false →
      (e.pending = [] → ∃ t : State, exec (.channelCreditArrival p ep) s = .next t ∧ t.pending = s.pending ∧
        t.dev.endp p ep = { e with credits := e.credits + e.creditIn, creditIn := 0 } ∧ OnlyPerch s.dev t.dev p) ∧
      (∀ o n moved rest q f, e.pending = (o, n, moved) :: rest → epRole e.cfg = 1 → s.dev.partner p ep = some (q, f) → s.dev.channelCut p q = false →
        0 < e.credits + e.creditIn → (e.credits + e.creditIn) * 32 < n - moved →
        ∃ t : State, exec (.channelCreditArrival p ep) s = .next t ∧ t.pending = s.pending ∧
          (t.dev.endp p ep).pending = (o, n, moved + (e.credits + e.creditIn) * 32) :: rest ∧ (t.dev.endp p ep).credits = 0 ∧
          (t.dev.endp p ep).creditIn = 0 ∧ { t.dev with perches := s.dev.perches } = s.dev))

/-- A sound MLD enters the array's queue where fewer than 4 commands wait and names the plane that the array streams next; a sound MXM enters it with the first word
of its mask, or is in flight at once where no row is unmasked, and gives its ticket in rd; a poisoned mask word is a fault of cause 7; with a full queue the sequencer
waits. MWAIT gives pmxstat once nothing that it waits for remains and waits before. -/
def Obligations.ArrayIssue : Prop :=
  ∀ (p fmt rs1 rs2 rd : Nat) (ws acc zf sc : Bool) (s : State), Ready s p → fmt ≤ 8 → rs1 < 32 → rs2 < 32 → rd < 32 →
    let v := s.dev.perch p
    let a := v.arr
    let d := s.dev.drainStores p
    let x := v.core.gx rs1
    let y := v.core.gx rs2
    let desc := plain (d.spadRead p x 32)
    let LoadOk := (ws = true → fmtScalable fmt = true ∧ y + fmtK fmt ≤ spadSize ∧ y % 32 = 0) ∧ x + fmtTileBytes fmt ≤ spadSize ∧ x % 32 = 0
    let PassOk := (sc = true → fmtScalable fmt = true) ∧ (∀ f, a.tileFmt a.streamPlane = some f → fmtClass f = fmtClass fmt) ∧ y < 2 ^ 24 ∧
      x + 32 ≤ spadSize ∧ x % 32 = 0 ∧ anyPoison (d.spadRead p x 32) = false ∧ passOk desc fmt sc y = true
    let cmd : ArrCmd := { word := (XOp.mxm fmt acc zf sc rs1 rs2 rd).encode, fmt := fmt, acc := acc, zfill := zf, scaled := sc, rows := y,
                          ticket := (a.issued + 1) % 2 ^ 32, desc := desc, plane := a.streamPlane }
    (LoadOk → a.queue.length < 4 → ∃ t : State, exec (.mld p fmt ws rs1 rs2) s = .next t ∧ t.pending = s.pending ∧ Retired v (t.dev.perch p) 0 0 ∧
      (∃ c : ArrCmd, (t.dev.perch p).arr.queue = a.queue ++ [c] ∧ c.isLoad = true ∧ c.fmt = fmt ∧ c.tileOff = x ∧ c.plane = a.loadTarget) ∧
      (t.dev.perch p).arr.streamPlane = a.loadTarget ∧ OnlyPerch d t.dev p) ∧
    (LoadOk → 4 ≤ a.queue.length → ∃ t : State, exec (.mld p fmt ws rs1 rs2) s = .next t ∧ (t.dev.perch p).arr = a ∧
      (t.dev.perch p).stall ≠ .none ∧ OnlyPerch d t.dev p) ∧
    (PassOk → a.queue.length < 4 →
      (∀ c, d.readMask p cmd 0 = .ok c → ∃ t : State, exec (.mxm p fmt acc zf sc rs1 rs2 rd) s = .next t ∧ t.pending = s.pending ∧
        Retired v (t.dev.perch p) rd ((a.issued + 1) % 2 ^ 32) ∧ OnlyPerch d t.dev p ∧
        (d.noRow p c = false → (t.dev.perch p).arr.queue = a.queue ++ [c] ∧ (t.dev.perch p).arr.inflight = a.inflight) ∧
        (d.noRow p c = true → (t.dev.perch p).arr.queue = a.queue ∧ (t.dev.perch p).arr.inflight = a.inflight ++ [{ c with next := y }])) ∧
      (∀ o, d.readMask p cmd 0 = .error o → s.dev.collQuiet p v.spanId = true → ∃ t : State, exec (.mxm p fmt acc zf sc rs1 rs2 rd) s = .next t ∧
        (t.dev.perch p).pstate = 2 ∧ (t.dev.perch p).faultCause = 7 ∧ (t.dev.perch p).faultAddr = o % 2 ^ 48)) ∧
    (PassOk → 4 ≤ a.queue.length → ∃ t : State, exec (.mxm p fmt acc zf sc rs1 rs2 rd) s = .next t ∧ (t.dev.perch p).arr = a ∧
      (t.dev.perch p).stall ≠ .none ∧ OnlyPerch d t.dev p) ∧
    (a.queue.all (·.isLoad) = true → a.inflight = [] → ∃ t : State, exec (.mwaitPasses p rd) s = .next t ∧ t.pending = s.pending ∧
      Retired v (t.dev.perch p) rd a.stat ∧ OnlySeq v (t.dev.perch p) ∧ OnlyPerch s.dev t.dev p) ∧
    (a.queue.any (fun c => !c.isLoad) = true ∨ a.inflight ≠ [] → ∃ t : State, exec (.mwaitPasses p rd) s = .next t ∧ OnlyPerch s.dev t.dev p ∧
      t.dev.perch p = { v with stall := .mwait false 0 rd }) ∧
    (a.queue.any (·.isLoad) = false → ∃ t : State, exec (.mwaitLoads p rd) s = .next t ∧ t.pending = s.pending ∧
      Retired v (t.dev.perch p) rd a.stat ∧ OnlySeq v (t.dev.perch p) ∧ OnlyPerch s.dev t.dev p) ∧
    (a.queue.any (·.isLoad) = true → ∃ t : State, exec (.mwaitLoads p rd) s = .next t ∧ OnlyPerch s.dev t.dev p ∧
      t.dev.perch p = { v with stall := .mwait true 0 rd })

/-- The oldest command, a load, writes its plane from the scratchpad. The oldest command, a pass of one row without a mask whose operands hold no poison,
writes the row's 128 result bytes at its destination, leaves the queue and is in flight, and counts its row and its stall cycles; the array is at full activity. The pass
that is the next in program order completes once it has left the queue: it counts, and its counter rises by one. -/
def Obligations.ArrayWork : Prop :=
  ∀ (p : Nat) (s : State), s.dev.on = true → s.dev.powered p = true →
    let a := (s.dev.perch p).arr
    (∀ c rest, a.queue = c :: rest → c.isLoad = true → anyPoison (s.dev.spadRead p c.tileOff (fmtTileBytes c.fmt)) = false →
      (c.scaled = true → anyPoison (s.dev.spadRead p c.scaleOff (fmtK c.fmt)) = false) →
      ∃ t : State, exec (.arrayLoadStart p) s = .next t ∧ t.pending = s.pending ∧ (t.dev.perch p).arr.queue = rest ∧
        (t.dev.perch p).arr.plane c.plane =
          { tile := leNat (plain (s.dev.spadRead p c.tileOff (fmtTileBytes c.fmt))),
            scales := if c.scaled then leNat (plain (s.dev.spadRead p c.scaleOff (fmtK c.fmt))) else 0, fmt := c.fmt, wscaled := c.scaled, loaded := true,
            pending := rest.any (fun x => x.isLoad && x.plane = c.plane), tileOff := c.tileOff, scaleOff := c.scaleOff } ∧ OnlyPerch s.dev t.dev p) ∧
    (∀ c rest (feed : PassFeed), a.queue = c :: rest → c.isLoad = false → c.rows = 1 → c.next = 0 → c.fed = 0 → pdMask c.desc = 0xFFFFFFFF →
      (s.dev.keeper = false ∨ 4 ≤ a.activity) → a.wrote = [] → 1 ≤ feed.rows →
      let at_ := pdABase c.desc
      let dst := pdDBase c.desc
      let init := if c.acc then s.dev.spadRead p dst 128 else []
      let scales := if c.scaled then s.dev.spadRead p (pdSaBase c.desc) (fmtK c.fmt / 32) else []
      anyPoison (s.dev.spadRead p at_ (fmtRowBytes c.fmt)) = false → anyPoison init = false → anyPoison scales = false →
      ∃ t : State, exec (.arrayPassStart p feed) s = .next t ∧ t.pending = s.pending ∧ (t.dev.perch p).arr.queue = rest ∧
        (t.dev.perch p).arr.inflight = a.inflight ++ [{ c with started := true, next := 1, fed := 1 }] ∧
        (t.dev.perch p).arr.rows = (a.rows + 1) % 2 ^ 32 ∧ (t.dev.perch p).arr.stall = (a.stall + feed.stall) % 2 ^ 32 ∧
        (t.dev.perch p).arr.activity = 4 ∧
        t.dev.mem = (s.dev.spadWrite p dst
          (clean (passRow c (a.plane c.plane) (plain (s.dev.spadRead p at_ (fmtRowBytes c.fmt))) (plain init) (plain scales)).1)).mem ∧
        t.dev.regs = s.dev.regs ∧ (∀ q, q ≠ p → t.dev.perch q = s.dev.perch q)) ∧
    (∀ c, a.nextDone = some c → c.zfill = false → ∃ t : State, exec (.arrayPassComplete p) s = .next t ∧ t.pending = s.pending ∧
      (t.dev.perch p).arr.inflight = a.inflight.filter (fun x => x.ticket ≠ c.ticket) ∧ (t.dev.perch p).arr.passes = (a.passes + 1) % 2 ^ 32 ∧
      (∀ n, t.dev.ctr p n = if n = pdCtr c.desc ∧ n < 64 then min (s.dev.ctr p n + 1) (2 ^ 32 - 1) else s.dev.ctr p n) ∧ OnlyPerch s.dev t.dev p)

/-- In keeper mode on a perch with power: when the window of a gap ends the first step down is taken; each later step down takes one quarter of the activity in the
gap while no pass is ready; while a pass is ready, or between spans, each step up adds one quarter, and 128 stall cycles where a pass waits for it, up to full activity.
Nothing else changes. -/
def Obligations.KeeperRamps : Prop :=
  ∀ (p : Nat) (s : State), s.dev.on = true → s.dev.keeper = true → 2 ≤ (s.dev.perch p).pstate →
    let v := s.dev.perch p
    let a := v.arr
    (a.window = true → a.inGap = true → ∃ t : State, exec (.keeperWindowExpiry p) s = .next t ∧ t.pending = s.pending ∧ OnlyPerch s.dev t.dev p ∧
      t.dev.perch p = { v with arr := { a with window := false, ramp := (t.dev.perch p).arr.ramp, activity := min a.activity 3 } } ∧
      ((t.dev.perch p).arr.ramp = true ↔ a.activity ≠ 0)) ∧
    (a.ramp = true → a.window = false → a.activity ≠ 0 → a.inGap = true → a.ready = false →
      ∃ t : State, exec (.arrayRampDownStep p) s = .next t ∧ t.pending = s.pending ∧ OnlyPerch s.dev t.dev p ∧
        (t.dev.perch p).arr.activity + 1 = a.activity ∧ ((t.dev.perch p).arr.ramp = true ↔ 1 ≤ (t.dev.perch p).arr.activity) ∧
        t.dev.perch p = { v with arr := { a with activity := (t.dev.perch p).arr.activity, ramp := (t.dev.perch p).arr.ramp } }) ∧
    (a.activity < 4 → v.pstate = 2 ∨ a.ready = true →
      ∃ t : State, exec (.arrayRampUpStep p) s = .next t ∧ t.pending = s.pending ∧ OnlyPerch s.dev t.dev p ∧
        (t.dev.perch p).arr.activity = a.activity + 1 ∧ ((t.dev.perch p).arr.ramp = true ↔ (t.dev.perch p).arr.activity < 4) ∧
        (t.dev.perch p).arr.stall = (if v.pstate = 2 then a.stall else (a.stall + 128) % 2 ^ 32) ∧
        t.dev.perch p = { v with arr := { a with activity := (t.dev.perch p).arr.activity, ramp := (t.dev.perch p).arr.ramp,
                                                 stall := (t.dev.perch p).arr.stall, window := false } })

/-- A legal conversion retires with the x registers, the f registers and every v register outside its destination as they were: the narrowing forms write the
packed codes of the elements, the widening forms the binary32 values of the packed codes, VXMAXSC one scale for each block of 32; an illegal one traps
with cause 2 where a handler is set. Memory and registers do not change. -/
def Obligations.VectorConversions : Prop :=
  ∀ (p : Nat) (f : VxFields) (s : State), Ready s p → (s.dev.perch p).core.vl ≤ 512 → f.fmt < 16 → f.vs2 < 32 → f.rs1 < 32 → f.vd < 32 →
    let v := s.dev.perch p
    let k := v.core
    let Done := fun (t : State) => t.pending = s.pending ∧ OnlyPerch s.dev t.dev p ∧ (t.dev.perch p).core.pc = (k.pc + 4) % 2 ^ 32 ∧
      (t.dev.perch p).core.x = k.x ∧ (t.dev.perch p).core.f = k.f ∧ (t.dev.perch p).stall = .none ∧ (t.dev.perch p).minstret = v.minstret + 1 ∧
      (∀ r, r < f.vd ∨ f.vd + 8 ≤ r → (t.dev.perch p).core.gv r = k.gv r)
    let Narrow := fun (t : State) (kind : Nat) => ∀ i, i < ceilDiv (k.vl * fmtBits f.fmt) 8 → (t.dev.perch p).core.elem 2048 8 f.vd i =
      bits (packElems (fmtBits f.fmt) ((List.range k.vl).map (fun j => (vxNarrowAt k kind f j).1))) (8 * i) 8
    let Wide := fun (t : State) (scale : Nat → Option Nat) => ∀ j, j < k.vl → (t.dev.perch p).core.elem 2048 32 f.vd j =
      (widenElem f.fmt (packedElem (fmtBits f.fmt) (packedGroup k f.vs2 (packedRegs (k.vl * fmtBits f.fmt))) j) (scale j)).1 % 2 ^ 32
    (vxLegal k 0 f = true → ∃ t : State, exec (.vxncvt p f) s = .next t ∧ Done t ∧ Narrow t 0) ∧
    (vxLegal k 1 f = true → ∃ t : State, exec (.vxncvts p f) s = .next t ∧ Done t ∧ Narrow t 1) ∧
    (vxLegal k 2 f = true → ∃ t : State, exec (.vxwcvt p f) s = .next t ∧ Done t ∧ Wide t (fun _ => none)) ∧
    (vxLegal k 3 f = true → ∃ t : State, exec (.vxwcvts p f) s = .next t ∧ Done t ∧ Wide t (fun j => some (k.elem 2048 8 0 (j / 32)))) ∧
    (vxLegal k 4 f = true → ∃ t : State, exec (.vxmaxsc p f) s = .next t ∧ Done t ∧ ∀ b, b < ceilDiv k.vl 32 →
      (t.dev.perch p).core.elem 2048 8 f.vd b =
        maxScale f.fmt ((List.range (min 32 (k.vl - 32 * b))).map (fun i => k.elem 2048 32 f.vs2 (32 * b + i))) % 256) ∧
    (vxLegal k 0 f = false → v.mtvec ≠ 0 → v.inTrap = false →
      ∃ t : State, exec (.vxncvt p f) s = .next t ∧ (t.dev.perch p).mcause = 2 ∧ (t.dev.perch p).core.v = k.v ∧ OnlyPerch s.dev t.dev p)

/-- A request that its home admits is served now, where no error of memory is outstanding: a write within a line is what the line then reads as at its point of
coherence, a read answers the bytes there, an atomic answers the old word and leaves the new one; bytes of the line that are not written, and every other line where no
line moves between cache and buffer, keep their values. A write of any length is the write of its lines. A request over budget or to a deferred line is held and changes
nothing else; a refused read or atomic answers an error, and a refused write is dropped. -/
def Obligations.HomeAccess : Prop :=
  ∀ (r : HomeReq) (s : State), s.dev.on = true →
    let d := s.dev
    let q := d.homeRq r
    let line := r.pa / 128
    let place := d.stackedPlace (line * 128)
    let Hit := d.region r.pa = .fathom ∨ ((d.sysc (place.1 + 2)).find (sysSet place.2) line).isSome = true
    let Still := fun (fill : Bool) => (d.stewLine 0 line).dirty = false ∧ (d.stewLine 1 line).dirty = false ∧
      (Hit ∨ (fill = false ∧ (d.wcb.filter (fun e => e.die = place.1 + 2 && e.channel = channelOf place.2)).length < 64))
    let Rest := fun (t : State) (n : Nat) (fill : Bool) => d.oneOwner line → ∀ a, a < 2 ^ 48 → a < r.pa ∨ r.pa + n ≤ a → (a / 128 = line ∨ Still fill) →
      t.dev.cohByte a = d.cohByte a
    (d.hasHome r.pa = true → d.accFault q r.pa = none → d.admits r = true → d.recallDeferred line = false →
      (∀ data poison, exec (.homeWrite r data poison) s = .next { s with dev := (d.writePa q r.pa (marked poison data)).2 }) ∧
      (d.flaws = [] → d.findings = [] →
      (∀ data poison, 0 < data.length → data.length ≤ 128 - r.pa % 128 → ∃ t : State, exec (.homeWrite r data poison) s = .next t ∧
        t.pending = s.pending ∧ (∀ i, i < data.length → t.dev.cohByte (r.pa + i) = data.getD i 0) ∧ OnlyMem (d.clearResv line) t.dev ∧
        Rest t data.length (data.length = 128 && !r.noAlloc)) ∧
      (∀ n, n ≤ 128 - r.pa % 128 → d.oneOwner line → ∃ (t : State) (poison : Bool), exec (.homeRead r n ⟨[], []⟩) s = .next t ∧ t.pending = s.pending ∧
        OnlyMem (d.emit (.homeData ((List.range n).map (fun i => d.cohByte (r.pa + i))) poison)) t.dev ∧
        Rest t 0 (d.sysElig (place.1 + 2) r.part ≠ 0)) ∧
      (∀ op w operand compare, w = 4 ∨ w = 8 → r.pa % w = 0 → d.oneOwner line →
        let old := (List.range w).map (fun i => d.cohByte (r.pa + i))
        ∃ (t : State) (poison : Bool), exec (.homeAtomic r op w operand compare) s = .next t ∧ t.pending = s.pending ∧
          (∀ i, i < w → t.dev.cohByte (r.pa + i) = (leBytes w (amoEval op (8 * w) (leNat old) operand.toNat compare.toNat)).getD i 0) ∧
          OnlyMem ((d.clearResv line).emit (.homeData old poison)) t.dev ∧ ∀ a, a / 128 = line → a < r.pa ∨ r.pa + w ≤ a → t.dev.cohByte a = d.cohByte a))) ∧
    (d.hasHome r.pa = true → d.accFault q r.pa = none → d.admits r = false ∨ d.recallDeferred line = true →
      let wait := fun (d : Dev) op => ({ s with dev := { d with held := d.held ++ [
        { home := d.homeDie r.pa, die := r.die, part := r.part, pa := r.pa, unit := r.unit, req := r.req, noAlloc := r.noAlloc, exempt := r.exempt,
          op := op }] } } : State)
      (∀ data poison, exec (.homeWrite r data poison) s = .next (wait d (.write data poison))) ∧
      (∀ n, exec (.homeRead r n ⟨[], []⟩) s = .next (wait d (.read n))) ∧
      (∀ op w operand compare, w = 4 ∨ w = 8 → r.pa % w = 0 →
        exec (.homeAtomic r op w operand compare) s = .next (wait d (.atomic (amoToNat op) w operand.toNat compare.toNat)))) ∧
    (∀ kind, (d.hasHome r.pa = false ∧ kind = 3) ∨ (d.hasHome r.pa = true ∧ d.accFault q r.pa = some kind) →
      (∀ data poison, ∃ t : State, exec (.homeWrite r data poison) s = .next t ∧ t.dev.mem = d.mem ∧ t.dev.sysCache = d.sysCache ∧ t.dev.wcb = d.wcb ∧
        t.dev.stew = d.stew ∧ t.dev.out = d.out ∧ bit (t.dev.rd q.die Reg.RAS_ERR.CLASS) 7 = true) ∧
      (∀ n ecc, ∃ t : State, exec (.homeRead r n ecc) s = .next t ∧ t.dev.mem = d.mem ∧ t.dev.out = d.out ++ [.readError]) ∧
      (∀ op w operand compare, w = 4 ∨ w = 8 → r.pa % w = 0 → ∃ t : State, exec (.homeAtomic r op w operand compare) s = .next t ∧ t.dev.mem = d.mem ∧
        t.dev.out = d.out ++ [.readError]))

/-- An entry that times out, or the one least recently merged into while 56 or more are occupied, leaves the buffer; each byte with a set mask bit then stands in DRAM as
the entry held it, every other byte of DRAM is as before, and the bytes written count by whole sectors. The scrub goes on by one sector. No error of memory is
outstanding. -/
def Obligations.BufferAndScrub : Prop :=
  (∀ (die channel line : Nat) (e : WcbEntry) (s : State), s.dev.on = true → s.dev.flaws = [] → s.dev.findings = [] →
     s.dev.wcbFind die channel line = some e →
     let mine := s.dev.wcb.filter (fun x => x.die = die && x.channel = channel)
     let Issued := fun (t : State) => t.pending = s.pending ∧ t.dev.wcbFind die channel line = none ∧
       (∀ x, x ∈ s.dev.wcb → x.die ≠ die ∨ x.channel ≠ channel ∨ x.line ≠ line → x ∈ t.dev.wcb) ∧
       (∀ i, i < 128 → t.dev.rawByte (line * 128 + i) = if bit e.mask i then (lineBytes e.data).getD i 0 else s.dev.rawByte (line * 128 + i)) ∧
       (∀ a, a / 128 ≠ line → t.dev.rawByte a = s.dev.rawByte a) ∧
       t.dev.rd die Reg.MEMC_WR_BYTES.BYTES = (s.dev.rd die Reg.MEMC_WR_BYTES.BYTES + 32 * popcount (touchedSectors e.patch) 4) % 2 ^ 64 ∧
       RegsKept s.dev t.dev [(die, Reg.MEMC_WR_BYTES.BYTES), ((s.dev.stackedPlace (line * 128)).1 + 2, Reg.MEMC_RD_BYTES.BYTES),
         (die, Reg.MEMC_WCB.RMW_SECTORS)] ∧
       t.dev.sysCache = s.dev.sysCache ∧ t.dev.stew = s.dev.stew ∧ t.dev.out = s.dev.out
     (∃ t : State, exec (.wcbEntryTimeout die channel line) s = .next t ∧ Issued t) ∧
     (mine.head? = some e → 56 ≤ mine.length → ∃ t : State, exec (.wcbEntryIssue die channel line) s = .next t ∧ Issued t) ∧
     (mine.length < 56 → exec (.wcbEntryIssue die channel line) s = .next s)) ∧
  (∀ (die : Nat) (s : State), s.dev.on = true → s.dev.charter.ras.scrubH ≠ 0 → s.dev.dies.contains die = true → s.dev.dieFailed die = false →
     s.dev.scrubSectors die ≠ 0 → s.dev.flaws = [] → s.dev.findings = [] →
     let i := KMap.get 0 s.dev.scrub die
     let j := if i + 1 < s.dev.scrubSectors die then i + 1 else 0
     let line := s.dev.scrubPa die i / 128
     ∃ t : State, exec (.scrubRead die ⟨[], []⟩) s = .next t ∧ t.pending = s.pending ∧ KMap.get 0 t.dev.scrub die = j ∧
       t.dev.rd die Reg.RAS_SCRUB.PROGRESS = j * 2 ^ 32 / s.dev.scrubSectors die ∧
       t.dev.rd die Reg.RAS_SCRUB.PASSES = (if j = 0 then min (s.dev.rd die Reg.RAS_SCRUB.PASSES + 1) 65535 else s.dev.rd die Reg.RAS_SCRUB.PASSES) ∧
       { t.dev with scrub := s.dev.scrub, regs := s.dev.regs, regsSt := s.dev.regsSt } = s.dev ∧
       RegsKept s.dev t.dev [(die, Reg.RAS_SCRUB.PROGRESS), (die, Reg.RAS_SCRUB.PASSES), ((s.dev.stackedPlace (line * 128)).1 + 2, Reg.MEMC_RD_BYTES.BYTES)])

/-- A fill that arrives leaves the fills in flight: it is installed where a way is eligible, or enters the side buffer, unless its set was invalidated. A way
qualifies with 2 uncorrectable or 64 corrected errors, at most four ways of a cache; one that has qualified leaves service: it is marked in the die's register with the
count of such ways where the die has one, and holds no line; one that has not stays. No error of memory is outstanding. -/
def Obligations.CacheFillsAndWays : Prop :=
  (∀ (die chain line : Nat) (f : Fill) (s : State), s.dev.on = true → (s.dev.chain die chain).fills.find? (fun f => f.line = line) = some f →
    let c := s.dev.chain die chain
    ∃ t : State, exec (.chainCacheFill die chain line) s = .next t ∧ t.pending = s.pending ∧ { t.dev with chains := s.dev.chains } = s.dev ∧
      (∀ die' chain', mmuChain die' chain' ≠ mmuChain die chain → t.dev.chain die' chain' = s.dev.chain die' chain') ∧
      (t.dev.chain die chain).fills = c.fills.filter (fun g => g.line ≠ line) ∧ (t.dev.chain die chain).lastMiss = c.lastMiss ∧
      (f.install = false → (t.dev.chain die chain).cache = c.cache ∧ (t.dev.chain die chain).side = c.side) ∧
      (f.install = true → c.holds line = false → s.dev.chainEn die chain = true →
        (f.side = true → (t.dev.chain die chain).cache = c.cache ∧
          (t.dev.chain die chain).side = sidePush { valid := true, tag := line, data := f.data, poison := f.poison, part := f.part } c.side) ∧
        (f.side = false → s.dev.chainElig die chain f.part % 2 ^ 16 ≠ 0 → ∃ w, (t.dev.chain die chain).cache.find (chainSet (line * 128)) line = some w ∧
          ((t.dev.chain die chain).cache.line (chainSet (line * 128)) w).data = f.data ∧ (t.dev.chain die chain).side = c.side))) ∧
  (∀ (c : Cache) (way : Nat), 2 ≤ KMap.get 0 c.uncorr way ∨ 64 ≤ KMap.get 0 c.corr way → popcount c.off 16 < 4 →
    c.qualify way = { c with off := (c.qualify way).off } ∧ bit (c.qualify way).off way = true) ∧
  (∀ (die way : Nat) (s : State), s.dev.on = true → bit (s.dev.sysc die).off way = false → exec (.wayDisable (.system die) way) s = .next s) ∧
  (∀ (die way : Nat) (s : State), s.dev.on = true → s.dev.computeDies.contains die = true → way < 16 → s.dev.flaws = [] → s.dev.findings = [] →
    let Marked := fun (t : State) (mask count : Fld) => t.pending = s.pending ∧ t.dev.rd die mask = s.dev.rd die mask ||| 2 ^ way ∧
      t.dev.rd die count = popcount (s.dev.rd die mask ||| 2 ^ way) 16 ∧ t.dev.healthDue = true ∧ bit (t.dev.rd die Reg.RAS_ERR.CLASS) 3 = true
    (bit (s.dev.sysc die).off way = true → bit (s.dev.rd die Reg.MEMC_SC_WAYS.DISABLED) way = false → ∃ t : State, exec (.wayDisable (.system die) way) s = .next t ∧
      Marked t Reg.MEMC_SC_WAYS.DISABLED Reg.MEMC_SC_WAYS.COUNT ∧ (∀ set, (t.dev.sysc die).line set way = {}) ∧
      (∀ set w, w < 16 → w ≠ way → (t.dev.sysc die).line set w = (s.dev.sysc die).line set w)) ∧
    (∀ chain, chain < 22 → bit (s.dev.chain die chain).cache.off way = true → bit (s.dev.rd die (chainFld Reg.CHAIN_WAYS.DISABLED chain)) way = false → ∃ t : State, exec (.wayDisable (.chain die chain) way) s = .next t ∧
      Marked t (chainFld Reg.CHAIN_WAYS.DISABLED chain) (chainFld Reg.CHAIN_WAYS.COUNT chain) ∧
      (∀ set, (t.dev.chain die chain).cache.line set way = {}) ∧
      (∀ set w, w < 16 → w ≠ way → (t.dev.chain die chain).cache.line set w = (s.dev.chain die chain).cache.line set w) ∧ t.dev.mem = s.dev.mem)) ∧
  (∀ (die way : Nat) (s : State), s.dev.on = true → s.dev.stewardDies.contains die = true → way < 16 → s.dev.flaws = [] → s.dev.findings = [] →
    bit (s.dev.sysc die).off way = true → bit (s.dev.sysc die).gone way = false →
    ∃ t : State, exec (.wayDisable (.system die) way) s = .next t ∧ t.pending = s.pending ∧ bit (t.dev.sysc die).gone way = true ∧
      (∀ set, (t.dev.sysc die).line set way = {}) ∧ t.dev.healthDue = true ∧ bit (t.dev.rd die Reg.RAS_ERR.CLASS) 3 = true)

/-- An entry that a unit starts is in progress in its slot. A ZERO of a piece of the fathom tier leaves zeros there; a COPY of such a piece leaves at the
destination, which the source does not overlap, the bytes that the source held; every other byte keeps its value. Budgets leave room and no error of memory is
outstanding. A KV entry moves at most AMOUNT pages and has not failed where it is whole. An entry of an SSD waits for its commands. An entry with AMOUNT zero has
completed on time at once. -/
def Obligations.MoverEntries : Prop :=
  ∀ (die entry : Nat) (e : MoveEntry) (m : MoveRun) (d : Dev) (s : State), s.dev.on = true →
    let x := Dev.moverXq die m.slot e.partition
    let q := x.rq (bit e.flags 1) false
    let InProgress := fun (t : State) => t.pending = s.pending ∧ (t.dev.moveRun die entry).state = 1 ∧ (t.dev.moveRun die entry).slot = m.slot ∧
      t.dev.perches = d.perches ∧ t.dev.elapsed = d.elapsed
    let Whole := fun (t : State) (n : Nat) =>
      (t.dev.moveRun die entry).done = n ∧ (t.dev.moveRun die entry).fail = 0 ∧ (t.dev.moveRun die entry).whole = true
    let Others := fun (c : Dev) (t : State) (pa n : Nat) => ∀ a, a < 2 ^ 48 → a < pa ∨ pa + n ≤ a → c.oneOwner (a / 128) → t.dev.cohByte a = c.cohByte a
    let Room := fun (c : Dev) (pa n : Nat) => ∀ i, i < n → c.recallDeferred ((pa + i) / 128) = false ∧
      c.charged (c.homeDie (pa + i)) e.partition + 4 * n + 512 ≤ c.budget (c.homeDie (pa + i)) e.partition * 4096
    (s.dev.moveStart die entry 2 = some (e, m, d) → ∀ target pa d2, 0 < e.amount → e.amount ≤ 65536 → m.pos = 0 → m.done = 0 →
      d.translateRange x e.dst e.amount axWrite = (.ok [(target, e.amount)], d2) → d2.localOf target = some pa → d2.inFathom q pa e.amount →
      Room d2 pa e.amount → d2.flaws = [] → d2.findings = [] →
      ∃ t : State, exec (.moveZero die entry) s = .next t ∧ InProgress t ∧ Whole t e.amount ∧ (∀ i, i < e.amount → t.dev.cohByte (pa + i) = 0#8) ∧
        Others d2 t pa e.amount) ∧
    (s.dev.moveStart die entry 1 = some (e, m, d) → ∀ ext source target sa pa d2 d3, 0 < e.amount → e.amount ≤ 65536 → m.pos = 0 → m.done = 0 →
      d.translateRange x e.src e.amount axRead = (.ok [(source, e.amount)], d2) →
      d2.translateRange x e.dst e.amount axWrite = (.ok [(target, e.amount)], d3) → d3.localOf source = some sa → d3.localOf target = some pa →
      sa + e.amount ≤ pa ∨ pa + e.amount ≤ sa →
      d3.inFathom { q with noAlloc := false } sa e.amount → d3.inFathom q pa e.amount → (∀ i, i < e.amount → d3.oneOwner ((sa + i) / 128)) →
      Room d3 sa e.amount → Room d3 pa e.amount → d3.flaws = [] → d3.findings = [] →
      ∃ t : State, exec (.moveCopy die entry ext) s = .next t ∧ InProgress t ∧ Whole t e.amount ∧
        (∀ i, i < e.amount → t.dev.cohByte (pa + i) = d3.cohByte (sa + i)) ∧ Others d3 t pa e.amount) ∧
    (s.dev.moveStart die entry 3 = some (e, m, d) → 0 < e.amount → ∃ t : State, exec (.moveKvIn die entry) s = .next t ∧ InProgress t ∧
      (t.dev.moveRun die entry).done ≤ m.done + e.amount ∧ ((t.dev.moveRun die entry).whole = true → (t.dev.moveRun die entry).fail = 0)) ∧
    (s.dev.moveStart die entry 4 = some (e, m, d) → 0 < e.amount → ∃ t : State, exec (.moveKvOut die entry) s = .next t ∧ InProgress t ∧
      (t.dev.moveRun die entry).done ≤ m.done + e.amount ∧ ((t.dev.moveRun die entry).whole = true → (t.dev.moveRun die entry).fail = 0)) ∧
    (s.dev.moveStart die entry 5 = some (e, m, d) → 0 < e.amount → exec (.moveNvmeRd die entry) s = .next { s with dev := d } ∧ d.moveRun die entry = m) ∧
    (s.dev.moveStart die entry 6 = some (e, m, d) → 0 < e.amount → exec (.moveNvmeWr die entry) s = .next { s with dev := d } ∧ d.moveRun die entry = m) ∧
    (∀ kind ext, s.dev.moveStart die entry kind = some (e, m, d) → e.amount = 0 → bit e.flags 0 = false →
      ∀ i, (kind = 1 ∧ i = .moveCopy die entry ext) ∨ (kind = 2 ∧ i = .moveZero die entry) ∨ (kind = 3 ∧ i = .moveKvIn die entry) ∨
        (kind = 4 ∧ i = .moveKvOut die entry) ∨ (kind = 5 ∧ i = .moveNvmeRd die entry) ∨ (kind = 6 ∧ i = .moveNvmeWr die entry) →
      ∃ t : State, exec i s = .next t ∧ t.pending = s.pending ∧ (t.dev.moveRun die entry).state = 2 ∧ t.dev.mem = d.mem ∧
        t.dev.rd die Reg.BMC_MOVE_CNT.DONE = min (d.rd die Reg.BMC_MOVE_CNT.DONE + 1) (2 ^ 32 - 1) ∧ RegsKept d t.dev [(die, Reg.BMC_MOVE_CNT.DONE)])

/-- An entry in progress ends before the tail guard: with its failure, or whole, on time or late by its deadline. At the tail guard every entry of the die that has not
ended is aborted. DONE, LATE, FAILED and ABORTED count entries that ask for no record, which write none. -/
def Obligations.MoverEnds : Prop :=
  ∀ (die : Nat) (s : State), s.dev.on = true →
    (∀ entry at_ e, s.dev.moveList[entry]? = some e → (s.dev.moveRun die entry).state = 1 → max s.dev.elapsed at_ < s.dev.tailGuard →
      let m := s.dev.moveRun die entry
      let Ended := fun (t : State) => t.pending = s.pending ∧ (t.dev.moveRun die entry).state = 2 ∧ t.dev.elapsed = max s.dev.elapsed at_ ∧
        (bit e.flags 0 = false → t.dev.mem = s.dev.mem ∧ t.dev.owner = s.dev.owner ∧ t.dev.out = s.dev.out)
      (m.fail = 3 ∨ m.fail = 4 → ∃ t : State, exec (.moveEntryDone die entry at_) s = .next t ∧ Ended t ∧
        (bit e.flags 0 = false → t.dev.rd die Reg.BMC_MOVE_CNT.FAILED = min (s.dev.rd die Reg.BMC_MOVE_CNT.FAILED + 1) 255 ∧
          t.dev.rd die Reg.BMC_MOVE_CNT.DONE = s.dev.rd die Reg.BMC_MOVE_CNT.DONE)) ∧
      (m.fail = 0 → m.whole = true → s.dev.awaits (.mover die entry) = false → ∃ t : State, exec (.moveEntryDone die entry at_) s = .next t ∧ Ended t ∧
        (bit e.flags 0 = false → t.dev.rd die Reg.BMC_MOVE_CNT.DONE = min (s.dev.rd die Reg.BMC_MOVE_CNT.DONE + 1) (2 ^ 32 - 1) ∧
          t.dev.rd die Reg.BMC_MOVE_CNT.LATE = (if e.deadlineNs < max s.dev.elapsed at_ then
            min (s.dev.rd die Reg.BMC_MOVE_CNT.LATE + 1) 65535 else s.dev.rd die Reg.BMC_MOVE_CNT.LATE)))) ∧
    (s.dev.dispatching = true → s.dev.stewardDies.contains die = true → s.dev.dieFailed die = false →
      ∃ t : State, exec (.moveTailAbort die) s = .next t ∧ t.pending = s.pending ∧ t.dev.elapsed = max s.dev.elapsed s.dev.tailGuard ∧
        (∀ i e, s.dev.moveList[i]? = some e → e.execDie = die → (t.dev.moveRun die i).state = 2) ∧
        ((∀ e ∈ s.dev.moveList, bit e.flags 0 = false) → t.dev.rd die Reg.BMC_MOVE_CNT.ABORTED = min (s.dev.rd die Reg.BMC_MOVE_CNT.ABORTED +
          (s.dev.moveList.zipIdx.filter (fun p => p.1.execDie = die && (s.dev.moveRun die p.2).state ≠ 2 &&
            ((s.dev.moveRun die p.2).fail = 0 || (s.dev.moveRun die p.2).fail = 2))).length) 255))

/-- OWN_CLAIM of free pages of one tier within the quota gives them to the partition and counts them; a command that fails its checks changes no page. OWN_RELEASE
keeps the unit busy, and at its end the pages read as zero and are free or retired. A walk that succeeds caches its leaf, one that fails is recorded. An
invalidation drops the leaves it names and the partition's pointer entries and keeps the others; its end clears BUSY. -/
def Obligations.OwnershipAndTranslation : Prop :=
  ∀ (s : State), s.dev.on = true →
    (∀ part count page : Nat, part < 16 → count < 65536 → page < 2 ^ 26 → s.dev.rd 0 Reg.BMC_OWN_STATUS.BUSY = 0 → count ≠ 0 →
      s.dev.ownOutside page count = none →
      let used := s.dev.pagesUsed page part
      let quota := (if page < s.dev.stackedPages then Reg.BMC_PAGES_STACKED.QUOTA else Reg.BMC_PAGES_FATHOM.QUOTA).at 16 part
      ((∀ i, i < count → s.dev.ownerOf (page + i) = 0xFF) → s.dev.rd 0 used + count ≤ s.dev.rd 0 quota →
        ∃ t : State, exec (.ownClaim part count page) s = .next t ∧ t.pending = s.pending ∧
          (∀ i, t.dev.ownerOf i = if page ≤ i ∧ i < page + count then part else s.dev.ownerOf i) ∧
          t.dev.rd 0 used = s.dev.rd 0 used + count ∧ t.dev.rd 0 Reg.BMC_OWN_STATUS.RESULT = 0 ∧ t.dev.mem = s.dev.mem ∧
          RegsKept s.dev t.dev [(0, used), (0, Reg.BMC_OWN_STATUS.BUSY), (0, Reg.BMC_OWN_STATUS.RESULT), (0, Reg.BMC_OWN_STATUS.PAGE)]) ∧
      (∀ i, i < count → (∀ k, k < i → s.dev.ownerOf (page + k) = 0xFF) → s.dev.ownerOf (page + i) < 16 →
        ∃ t : State, exec (.ownClaim part count page) s = .next t ∧ t.dev.rd 0 Reg.BMC_OWN_STATUS.RESULT = 2 ∧
          t.dev.rd 0 Reg.BMC_OWN_STATUS.PAGE = (page + i) % 2 ^ 26 ∧ t.dev.owner = s.dev.owner ∧ t.dev.mem = s.dev.mem) ∧
      ((∀ i, i < count → s.dev.ownerOf (page + i) = part) → ∃ t : State, exec (.ownRelease part count page) s = .next t ∧ t.pending = s.pending ∧
        t.dev.rd 0 Reg.BMC_OWN_STATUS.BUSY = 1 ∧ t.dev.ownCmd = some { op := 2, part := part, count := count, at_ := page } ∧
        t.dev.owner = s.dev.owner ∧ t.dev.mem = s.dev.mem)) ∧
    (∀ c, s.dev.ownCmd = some c → c.part < 16 → s.dev.ownOutside c.at_ c.count = none →
      (∀ i k, i < c.count → k < 65536 → s.dev.ownerCell (s.dev.pageBase (c.at_ + i) + k) = none) →
      ∃ t : State, exec .ownReleaseComplete s = .next t ∧ t.pending = s.pending ∧ t.dev.ownCmd = none ∧ t.dev.rd 0 Reg.BMC_OWN_STATUS.BUSY = 0 ∧
        t.dev.rd 0 Reg.BMC_OWN_STATUS.RESULT = 0 ∧
        (∀ i, i < c.count → t.dev.ownerOf (c.at_ + i) = if s.dev.pagePend.contains (c.at_ + i) then 0xFD else 0xFF) ∧
        (∀ i, i < c.at_ ∨ c.at_ + c.count ≤ i → t.dev.ownerOf i = s.dev.ownerOf i) ∧
        (∀ i k, i < c.count → k < 65536 → t.dev.cohByte (s.dev.pageBase (c.at_ + i) + k) = 0#8) ∧
        (∀ a, (∀ i, i < c.count → a < s.dev.pageBase (c.at_ + i) ∨ s.dev.pageBase (c.at_ + i) + 65536 ≤ a) →
          KMap.get 0#8 t.dev.mem a = KMap.get 0#8 s.dev.mem a)) ∧
    (∀ die unit req part dva access m, unitMmu die unit = some m → dva < 2 ^ 47 → s.dev.rd die (Reg.MMU_ROOT.VALID.at 8 part) = 1 → part < 16 →
      let x : Xq := { mmu := m, part := part, unit := unit, req := req, die := die }
      let begun := ((s.dev.free.2).incMod die Reg.MMU_WALK_STATS.WALKS 1).raiseMax die Reg.MMU_WALK_STATS.PEAK (s.dev.free.1 % 64 + 1)
      let w := begun.walkFrom x s.dev.pkgId dva 3 (s.dev.rd die (Reg.MMU_ROOT.ROOT.at 8 part) * 4096) []
      s.dev.tlb.find? (fun e => e.serves x dva) = none → s.dev.walkStart x dva = none →
      (∀ e ptrs, w.1 = .ok (e, ptrs) →
        w.2.targetFault part e.dva e.target e.size = none → needRights access &&& e.rights = needRights access →
        ∃ t : State, exec (.pageWalkDone die unit req part dva access) s = .next t ∧ t.pending = s.pending ∧ (∃ way, { e with way := way } ∈ t.dev.tlb) ∧
          { t.dev with tlb := w.2.tlb, tlbTree := w.2.tlbTree, walks := w.2.walks, walkTree := w.2.walkTree } = w.2) ∧
      (∀ type, w.1 = .error type → w.2.rd die Reg.MMU_FAULT_INFO.VALID = 0 →
        ∃ t : State, exec (.pageWalkDone die unit req part dva access) s = .next t ∧ t.pending = s.pending ∧ t.dev.tlb = w.2.tlb ∧ t.dev.mem = w.2.mem ∧
          t.dev.rd die Reg.MMU_FAULT_INFO.VALID = 1 ∧ t.dev.rd die Reg.MMU_FAULT_INFO.TYPE = type % 16 ∧
          t.dev.rd die Reg.MMU_FAULT_INFO.PART = part ∧ t.dev.rd die Reg.MMU_FAULT_DVA.DVA = alignDown dva 65536)) ∧
    (∀ part, part < 16 → s.dev.rd 0 Reg.MMU_INV_STATUS.BUSY = 0 →
      let Busy := fun (t : State) => t.pending = s.pending ∧ t.dev.rd 0 Reg.MMU_INV_STATUS.BUSY = 1 ∧ t.dev.mem = s.dev.mem ∧
        (∀ w, w ∈ t.dev.walks ↔ w ∈ s.dev.walks ∧ w.part ≠ part) ∧ RegsKept s.dev t.dev [(0, Reg.MMU_INV_STATUS.BUSY)]
      (∀ count, count < 2 ^ 32 → let a := s.dev.rd 0 Reg.MMU_INV_ADDR.ADDR * 65536
        a + count * 65536 ≤ 2 ^ 47 → count ≠ 0 → ∃ t : State, exec (.mmuInvRange part count) s = .next t ∧ Busy t ∧
          ∀ e, e ∈ t.dev.tlb ↔ e ∈ s.dev.tlb ∧ ¬ (e.part = part ∧ e.dva < a + count * 65536 ∧ a < e.dva + 2 ^ e.size)) ∧
      ∃ t : State, exec (.mmuInvPartition part) s = .next t ∧ Busy t ∧ ∀ e, e ∈ t.dev.tlb ↔ e ∈ s.dev.tlb ∧ e.part ≠ part) ∧
    (∀ c, s.dev.invCmd = some c → s.dev.invWaits c = false → ∃ t : State, exec .mmuInvComplete s = .next t ∧ t.pending = s.pending ∧ t.dev.invCmd = none ∧
      t.dev.rd 0 Reg.MMU_INV_STATUS.BUSY = 0 ∧ t.dev.rd 0 Reg.MMU_INV_STATUS.RESULT = 0 ∧
      t.dev.tlb = s.dev.tlb.map (fun e => { e with recheck := true }) ∧ t.dev.mem = s.dev.mem)

/-- A member's post record is taken with the invocations it posts; after the deadline each of them that cannot start any more has been decided. A barrier in this
package that every member has posted is complete at once. A member completes where its result stands: its counter rises, its status record is at its address, and
the last one ends the instance, which DONE counts; where its bytes go to another package it completes only with their acknowledgement, and where its buffer faults
the instance fails. At the deadline the first invocation that only some have posted ends with MISSING, or after the ones in progress; at the tail guard one in
progress ends with TIMEOUT; each is counted. -/
def Obligations.Collectives : Prop :=
  ∀ (coll : Nat) (c : CollDef) (s : State), s.dev.on = true → s.dev.collDef coll = some c →
    let st := s.dev.coll coll
    let Failed := fun (t : State) (status k : Nat) => t.pending = s.pending ∧ k ≤ (t.dev.coll coll).begun ∧ (∀ j ∈ (t.dev.coll coll).insts, j.k ≠ k) ∧
      t.dev.rd 0 Reg.COLL_CNT.FAILED = min (s.dev.rd 0 Reg.COLL_CNT.FAILED + 1) 65535 ∧ t.dev.rd 0 Reg.COLL_CNT.DONE = s.dev.rd 0 Reg.COLL_CNT.DONE ∧
      bit (t.dev.rd 0 Reg.RAS_ERR.CLASS) 9 = true ∧
      (s.dev.rd 0 Reg.COLL_LAST_ERR.VALID = 0 → t.dev.rd 0 Reg.COLL_LAST_ERR.VALID = 1 ∧ t.dev.rd 0 Reg.COLL_LAST_ERR.STATUS = status)
    let First := fun (k : Nat) => k ≤ st.begun ∧ ∀ j ∈ st.insts, k ≤ j.k ∧ j.k ≤ st.begun ∧ j.verdict = none
    (∀ member m, s.dev.collPick coll member = some (c, m) →
      (s.dev.memberRuns m = true →
        let n := KMap.get 0 (s.dev.perch m.perch).ctr m.readyCtr
        let v := s.dev.spadRead m.perch m.postOff 16
        st.count member < n →
        (∃ t : State, exec (.collPost coll member) s = .next t ∧ t.pending = s.pending ∧ (t.dev.coll coll).count member = n ∧
          KMap.get 0 (t.dev.coll coll).recs member = leNat (plain v) + b2n (c.op ≠ 4 && anyPoison v) * 2 ^ 128 ∧
          (c.deadlineNs < s.dev.elapsed → s.dev.collAllPosted c st (st.begun + 1) = false → (∀ j ∈ st.insts, j.k ≤ st.begun) →
            n ≤ (t.dev.coll coll).begun)) ∧
        (c.op = 4 → s.dev.elapsed ≤ c.deadlineNs → s.dev.collPeers c = [] → n = st.begun + 1 → st.gone = [] → st.missed = [] → s.dev.collLost c = none →
          s.dev.collRoom c = true → (∀ z ∈ s.dev.collMine c, z.2 ≠ member → n ≤ st.count z.2) → (∀ j ∈ st.insts, j.k ≠ n) → s.dev.collReading c n = false →
          (∀ a ∈ s.dev.collDies c, ∀ b ∈ s.dev.collDies c, s.dev.unreached a b = false) →
          ∃ t : State, exec (.collPost coll member) s = .next t ∧ t.dev.mem = s.dev.mem ∧ ∃ i ∈ (t.dev.coll coll).insts, i.k = n ∧ i.ready = true)) ∧
      (∀ k i, st.insts.find? (fun i => i.k = k) = some i → i.ready = true → i.phase = 2 → i.verdict = none → member ∉ i.wrote → member ∉ i.done →
        s.dev.collLost c = none → st.insts.any (fun j => j.k < k && !j.done.contains member) = false → k ≤ st.begun → m.doneCtr < 64 →
        s.dev.collWriteHeld c i member m = false →
        let x := collXq (perchDie m.perch) c.partition
        let agent := Agent.coll (perchDie m.perch) c.collId i.k member 2
        let offs := ((i.offs.find? (fun o => o.1 = member)).map (·.2)).getD (0, 0)
        let d1 := (s.dev.collTargets c i member m).2
        let d2 := if s.dev.memberRuns m then (d1.dvaWrite x agent (x.rq false false) none (m.dstDva + offs.2) i.result).2 else d1
        let d3 := match i.residues.find? (fun r => r.1 = member) with
          | some r => (d2.dvaWrite x agent (x.rq false false) none (m.resDva + offs.1) r.2).2
          | none => d2
        let last : Bool := (s.dev.collMine c).all (fun z => z.2 = member || i.done.contains z.2)
        ((s.dev.collTargets c i member m).1 = false → First k → ∃ t : State, exec (.collMemberComplete coll k member) s = .next t ∧ Failed t csFault k) ∧
        ((s.dev.collTargets c i member m).1 = true → d3.collWriting c k member = true →
          ∃ t : State, exec (.collMemberComplete coll k member) s = .next t ∧ t.pending = s.pending ∧
            (∃ j ∈ (t.dev.coll coll).insts, j.k = k ∧ member ∈ j.wrote ∧ j.done = i.done) ∧ { t.dev with colls := d3.colls } = d3) ∧
        ((s.dev.collTargets c i member m).1 = true → d3.collWriting c k member = false →
          (last = false → ∃ t : State, exec (.collMemberComplete coll k member) s = .next t ∧ t.pending = s.pending ∧
            (∃ j ∈ (t.dev.coll coll).insts, j.k = k ∧ member ∈ j.done) ∧
            (s.dev.memberRuns m = true → t.dev.ctr m.perch m.doneCtr = min (s.dev.ctr m.perch m.doneCtr + 1) (2 ^ 32 - 1)) ∧
            (∀ p n, p ≠ m.perch ∨ n ≠ m.doneCtr → t.dev.ctr p n = s.dev.ctr p n) ∧
            (i.result = [] → i.residues = [] → s.dev.flaws = [] → s.dev.findings = [] → ∀ target pa d4, let dva := m.statusDva + 32 * ((k - 1) % 8)
              s.dev.translate x dva axWrite = (.ok target, d4) → dva % 4096 + 32 ≤ 4096 → s.dev.localOf target = some pa →
              s.dev.inFathom (x.rq false true) pa 32 →
              ∀ b, b < 32 → t.dev.cohByte (pa + b) =
                (collRecord i.tick c.collId i.k csOk i.flags i.count i.firstNf 0xFFFF).getD b 0)) ∧
          (last = true → ∃ t : State, exec (.collMemberComplete coll k member) s = .next t ∧ t.pending = s.pending ∧
            (∀ j ∈ (t.dev.coll coll).insts, j.k ≠ k) ∧
            t.dev.rd 0 Reg.COLL_CNT.DONE = min (s.dev.rd 0 Reg.COLL_CNT.DONE + 1) (2 ^ 32 - 1))))) ∧
    (s.dev.collLost c = none → s.dev.collAnyPosted c st (st.begun + 1) = true → s.dev.collAllPosted c st (st.begun + 1) = false →
      (∀ j ∈ st.insts, j.k ≤ st.begun ∧ j.verdict = none) →
      ∃ t : State, exec (.collDeadline coll (st.begun + 1)) s = .next t ∧ t.pending = s.pending ∧ t.dev.elapsed = max s.dev.elapsed c.deadlineNs ∧
        (st.insts = [] → Failed t csMissing (st.begun + 1)) ∧
        (st.insts ≠ [] → ∃ j ∈ (t.dev.coll coll).insts, j.k = st.begun + 1 ∧
          j.verdict = some { status := csMissing, member := s.dev.collMissing c st (st.begun + 1), counted := false })) ∧
    (∀ k, s.dev.collLost c = none → st.insts.any (fun i => i.k = k) = true → First k →
      ∃ t : State, exec (.collTimeout coll k) s = .next t ∧ Failed t csTimeout k)

/-- A port whose lanes lock is TRAINING at that width and sends its IDENT. An IDENT that passes takes a port in TRAINING to CONFIG, and one in CONFIG to UP once
the switch shows the charter's digest: its plane then carries traffic to every package that has not become unreachable and whose own port on it is not down. One that fails quarantines the port with its cause. A fence takes the
plane out of every set; a port that retrains to the same IDENT is UP again. A replay counts; a resend sends the IDENT and changes nothing else. -/
def Obligations.LinkPorts : Prop :=
  ∀ (die port plane : Nat) (s : State), s.dev.on = true → s.dev.planeOf die port = some plane →
    let st := s.dev.portState plane
    let Peers := fun (i : Nat) => i < 64 ∧ i ≠ s.dev.pkgId ∧ s.dev.rd 0 (Reg.LINK_ROUTE.VALID.at 8 i) = 1
    let Back := fun (i : Nat) => Peers i ∧ s.dev.league.cut.contains i = false ∧ bit (KMap.get 0 s.dev.league.peerDown i) plane = false
    (∀ lanes rtt, s.dev.linksOn = true → st ≤ 1 →
      (laneWidth lanes = 2 → ∃ t : State, exec (.linkPortTrain die port lanes rtt) s = .next t ∧ t.pending = s.pending ∧ t.dev.portState plane = psTraining ∧
        t.dev.portRd plane Reg.LINK_PORT_STATUS.WIDTH = 2 ∧ t.dev.portRd plane Reg.LINK_PORT_STATUS.RTT_NS = min rtt 8191 ∧
        { t.dev with regs := s.dev.regs, regsSt := s.dev.regsSt } = s.dev.sendIdent plane) ∧
      (laneWidth lanes = 0 → ∃ t : State, exec (.linkPortTrain die port lanes rtt) s = .next t ∧ t.dev.portState plane = psTraining ∧
        t.dev.portRd plane Reg.LINK_PORT_STATUS.WIDTH = 0 ∧ t.dev.out = s.dev.out)) ∧
    (∀ rec, s.dev.portRd plane Reg.LINK_PORT_STATUS.WIDTH ≠ 0 →
      (st = psTraining → s.dev.identCause plane rec = none → ∃ t : State, exec (.identReceive die port rec) s = .next t ∧ t.pending = s.pending ∧
        t.dev.portState plane = psConfig ∧ KMap.get none t.dev.league.idents plane = some rec ∧
        { t.dev with regs := s.dev.regs, regsSt := s.dev.regsSt, league := s.dev.league } = s.dev) ∧
      (st = psConfig → s.dev.identCause plane rec = none → rec.digest ≠ 0 → ∃ t : State, exec (.identReceive die port rec) s = .next t ∧
        t.dev.portState plane = psUp ∧ (∀ i, Back i → t.dev.planesTo i = s.dev.planesTo i ||| 2 ^ plane) ∧
        ∀ i, Peers i → ¬ Back i → t.dev.planesTo i = s.dev.planesTo i) ∧
      (∀ cause, st = psTraining ∨ st = psConfig ∨ st = psUp → s.dev.identCause plane rec = some cause →
        ∃ t : State, exec (.identReceive die port rec) s = .next t ∧ t.dev.portState plane = psQuarantined ∧
          t.dev.portRd plane Reg.LINK_PORT_STATUS.QCAUSE = cause ∧ (st = psUp → ∀ i, Peers i → bit (t.dev.planesTo i) plane = false))) ∧
    (st = psConfig ∨ st = psQuarantined → exec (.identResend die port) s = .next { s with dev := s.dev.sendIdent plane }) ∧
    (∀ n, s.dev.portRd plane Reg.LINK_PORT_STATUS.WIDTH ≠ 0 → ∃ t : State, exec (.flitReplay die port n) s = .next t ∧ t.pending = s.pending ∧
      t.dev.portRd plane Reg.LINK_PORT_ERR.REPLAYS = (s.dev.portRd plane Reg.LINK_PORT_ERR.REPLAYS + 1) % 2 ^ 32 ∧
      t.dev.portRd plane Reg.LINK_PORT_ERR.FEC_CORR = (s.dev.portRd plane Reg.LINK_PORT_ERR.FEC_CORR + n) % 2 ^ 32 ∧
      OnlyRegs s.dev t.dev ∧ RegsKept s.dev t.dev [(die, portFld Reg.LINK_PORT_ERR.REPLAYS plane), (die, portFld Reg.LINK_PORT_ERR.FEC_CORR plane)]) ∧
    (st = psUp → ∃ t : State, exec (.linkFence die port) s = .next t ∧ t.pending = s.pending ∧ t.dev.portState plane = psFenced ∧
      ∀ i, Peers i → bit (t.dev.planesTo i) plane = false) ∧
    (∀ rec, st = psFenced → KMap.get none s.dev.league.idents plane = some rec → rec.digest ≠ 0 → s.dev.identCause plane rec = none →
      ∃ t : State, exec (.linkRetrainDone die port rec) s = .next t ∧ t.pending = s.pending ∧ t.dev.portState plane = psUp ∧
        t.dev.portRd plane Reg.LINK_PORT_STATUS.RETRAINS = min (s.dev.portRd plane Reg.LINK_PORT_STATUS.RETRAINS + 1) 255 ∧
        ∀ i, Back i → bit (t.dev.planesTo i) plane = true)

/-- A packet that fails a check of its source is dropped and counted, and nothing else changes. A request that its home holds for budget or for a deferred recall
waits there. A READ of an owned page is answered with its bytes, a WRITE is performed (its masked bytes only, where it has a mask) and acknowledged, an ATOMIC
answers the old word and leaves the new one; a page of another partition is refused and counted. An answer that no
access waits for changes nothing. An answered read ends with its data, an acknowledged write lands, one that is lost counts, and its descriptor fails. A
block of collective data and credit are kept for their invocation. -/
def Obligations.LinkPackets : Prop :=
  ∀ (die port plane : Nat) (p : Packet) (s : State), s.dev.on = true → s.dev.planeOf die port = some plane → s.dev.portState plane = psUp →
    let d := s.dev
    let pa := p.addr % 2 ^ 48
    let part := p.partition % 16
    let line := pa / 128
    let kinds : List (Nat × Instr) := [(1, .linkRead die port p), (2, .linkWrite die port p), (3, .linkAtomic die port p), (0x81, .readRsp die port p),
      (0x82, .writeAck die port p), (0x83, .atomicRsp die port p), (0x10, .collData die port p), (0x11, .collCtrl die port p)]
    let Reply := fun (type status len : Nat) (poison : Bool) (v : List Byte) =>
      Out.packet die port { d.packetTo type p.srcPkg p.partition p.tag p.addr len with status := status, poison := poison, payload := v }
    (∀ f, d.packetDrop p = some f → ∀ z ∈ kinds, p.type = z.1 → exec z.2 s = .next { s with dev := d.inc die f 1 }) ∧
    (d.packetDrop p = none → d.halted = false → d.hasHome pa = true → 0 < p.len → pa % 128 + p.len ≤ 128 →
      (d.homeFull { part := part, die := die } (fun _ => false) (d.pkgId * 2 ^ 48 + pa) p.len = true → p.len = 4 ∨ p.len = 8 ∨ p.type ≠ 3 →
        ∀ z ∈ kinds.take 3, p.type = z.1 → exec z.2 s = .next { s with dev := { d with peerHeld := d.peerHeld ++ [(die, plane, p)] } }) ∧
      (d.homeFull { part := part, die := die } (fun _ => false) (d.pkgId * 2 ^ 48 + pa) p.len = false →
      (d.ownerOf (d.pageIndex pa) = part → d.accFault { part := part, die := die } pa = none → d.flaws = [] → d.findings = [] →
        (p.type = 1 → d.oneOwner line → ∃ (t : State) (poison : Bool), exec (.linkRead die port p) s = .next t ∧ t.pending = s.pending ∧
          OnlyMem (d.emit (Reply 0x81 (b2n poison) p.len poison ((List.range p.len).map (fun i => d.cohByte (pa + i))))) t.dev) ∧
        (p.type = 2 → p.masked = false → p.payload.length = p.len → ∃ t : State, exec (.linkWrite die port p) s = .next t ∧ t.pending = s.pending ∧
          (∀ i, i < p.len → t.dev.cohByte (pa + i) = p.payload.getD i 0) ∧ OnlyMem ((d.clearResv line).emit (Reply 0x82 0 0 false [])) t.dev) ∧
        (p.type = 2 → p.masked = true → p.payload.length = p.len → d.oneOwner line →
          ∃ t : State, exec (.linkWrite die port p) s = .next t ∧ t.pending = s.pending ∧ t.dev.out = d.out ++ [Reply 0x82 0 0 false []] ∧
          ∀ i, i < p.len → t.dev.cohByte (pa + i) = if bit p.mask i then p.payload.getD i 0 else d.cohByte (pa + i)) ∧
        (p.type = 3 → p.len = 4 ∨ p.len = 8 → pa % p.len = 0 → d.oneOwner line →
          let old := (List.range p.len).map (fun i => d.cohByte (pa + i))
          ∃ (t : State) (poison : Bool), exec (.linkAtomic die port p) s = .next t ∧ t.pending = s.pending ∧
            (∀ i, i < p.len → t.dev.cohByte (pa + i) =
              (leBytes p.len (amoEval (amoOfNat (fld p.payload 0 8)) (8 * p.len) (leNat old) (fld p.payload 8 8) (fld p.payload 16 8))).getD i 0) ∧
            OnlyMem ((d.clearResv line).emit (Reply 0x83 (b2n poison) p.len poison old)) t.dev)) ∧
      (d.ownerOf (d.pageIndex pa) ≠ part → p.type = 2 → ∃ t : State, exec (.linkWrite die port p) s = .next t ∧ t.pending = s.pending ∧
        OnlyRegs (d.emit (Reply 0x82 2 0 false [])) t.dev ∧ RegsKept d t.dev [(d.homeDie pa, Reg.MMU_FAULT_CNT.REMOTE.at 8 part)] ∧
        t.dev.rd (d.homeDie pa) (Reg.MMU_FAULT_CNT.REMOTE.at 8 part) = min (d.rd (d.homeDie pa) (Reg.MMU_FAULT_CNT.REMOTE.at 8 part) + 1) (2 ^ 32 - 1)))) ∧
    (d.packetDrop p = none → d.opOf p true = none → d.opOf p false = none → ∀ z ∈ (kinds.drop 3).take 3, p.type = z.1 → exec z.2 s = .next s) ∧
    (d.packetDrop p = none → d.remote.all (fun o => o.held.isNone) = true →
      (∀ o, d.opOf p true = some o → p.type = 0x81 → o.agent = .hif 0xFFFF → p.poison = false → p.status = 0 → p.payload.length = o.len →
        exec (.readRsp die port p) s = .next { s with dev := { d with remote := d.remote.erase o, out := d.out ++ [.tlpData p.payload false] } }) ∧
      (∀ o h w rd va, d.opOf p true = some o → p.type = 0x83 → o.agent = .hart h → (d.hart h).stall = .amo w rd va → p.poison = false → p.status = 0 →
        p.payload.length = o.len → rd ≠ 0 → rd < 32 → w ≤ 8 →
        ∃ t : State, exec (.atomicRsp die port p) s = .next t ∧ t.pending = s.pending ∧ t.dev.remote = d.remote.erase o ∧ (t.dev.hart h).stall = .none ∧
          (t.dev.hart h).core.gx rd = ofSigned 64 (toSigned (8 * w) (leNat p.payload % 2 ^ (8 * w))) ∧ (t.dev.hart h).core.pc = ((d.hart h).core.pc + 4) % 2 ^ 64 ∧
          t.dev.mem = d.mem ∧ t.dev.regs = d.regs) ∧
      (∀ o q c k, d.opOf p false = some o → p.type = 0x82 → o.agent = .dma q c k → c < 8 → p.status = 0 →
        ∃ t : State, exec (.writeAck die port p) s = .next t ∧ t.pending = s.pending ∧ t.dev.remote = d.remote.erase o ∧
          (t.dev.ctxOf q c).queue = (d.ctxOf q c).queue.map (fun x => if x.ticket = k then { x with landed := x.landed + o.len } else x) ∧ t.dev.mem = d.mem ∧ t.dev.regs = d.regs) ∧
      (∀ o q c k, d.taggedOp p.tag false = some o → o.agent = .dma q c k → c < 8 → 0 < o.len →
        ∃ t : State, exec (.remoteWriteLost p.tag) s = .next t ∧ t.pending = s.pending ∧ t.dev.remote = d.remote.erase o ∧
          (t.dev.ctxOf q c).queue = (d.ctxOf q c).queue.map (fun x => if x.ticket = k then { x with lost := true } else x) ∧
          (t.dev.perch q).memloss = addLost (d.perch q).memloss (lineSegs o.addr o.len).length ∧ bit (t.dev.rd (perchDie q) Reg.RAS_ERR.CLASS) 10 = true ∧
          t.dev.rd (o.plane / 4) Reg.LINK_LOSS.LOST_WR = min (d.rd (o.plane / 4) Reg.LINK_LOSS.LOST_WR + 1) (2 ^ 32 - 1) ∧ t.dev.mem = d.mem) ∧
      (∀ o, d.taggedOp p.tag true = some o → o.agent = .hif 0xFFFF → 0 < o.len →
        ∃ (t : State) (v : List Byte), exec (.remoteReadLost p.tag) s = .next t ∧ t.pending = s.pending ∧ v.length = o.len ∧
          t.dev.remote = d.remote.erase o ∧ t.dev.out = d.out ++ [.tlpData v true] ∧ t.dev.mem = d.mem ∧
          t.dev.rd (o.plane / 4) Reg.LINK_LOSS.POISON_RD = min (d.rd (o.plane / 4) Reg.LINK_LOSS.POISON_RD + 1) (2 ^ 32 - 1))) ∧
    (∀ c k, d.packetDrop p = none → d.collOf p = some (c, k) →
      let st := d.coll c.collId
      (p.type = 0x10 → p.payload.length = p.len → (∀ i ∈ st.insts, i.k = k → d.collFault c i = none) →
        ∃ t : State, exec (.collData die port p) s = .next t ∧ t.pending = s.pending ∧
          (bits p.addr 26 28, marked p.poison p.payload) ∈ ((t.dev.coll c.collId).peer k p.srcPkg).inbox ∧
          (∀ b ∈ (st.peer k p.srcPkg).inbox, b.1 ≠ bits p.addr 26 28 → b ∈ ((t.dev.coll c.collId).peer k p.srcPkg).inbox) ∧ t.dev.mem = d.mem) ∧
      (p.type = 0x11 → fld p.payload 0 1 = 2 → (∀ i ∈ st.insts, i.k = k → i.fault = none) → (∀ g ∈ d.collPeers c, (st.peer k g).buffers ≠ 2) →
        ∃ t : State, exec (.collCtrl die port p) s = .next t ∧ t.pending = s.pending ∧
          ((t.dev.coll c.collId).peer k p.srcPkg).credit = (st.peer k p.srcPkg).credit + fld p.payload 4 4 ∧
          ((t.dev.coll c.collId).peer k p.srcPkg).buffers = 1 ∧ t.dev.mem = d.mem))

/-- A JOIN of a slot's own serial takes the next unused epoch, which is granted and valid in the tables; a digest that differs, or an exhausted counter, is refused,
and a serial that differs is dropped and counted. An ack of the epoch in the table answers the beacon, one of another epoch is dropped and counted. A beacon
unanswered by 1 ms counts once; after two in a row the package is lost: its epoch is invalid and no packet of it passes. A relay answer ends the relay. -/
def Obligations.LeagueManager : Prop :=
  ∀ (plane : Nat) (s : State), s.dev.on = true → s.dev.isManager = true →
    let d := s.dev
    (∀ m, d.planeUp plane = true → m.pkg < 64 → d.rd 0 (Reg.LINK_ROUTE.VALID.at 8 m.pkg) = 1 →
      (m.epoch = d.rd 0 (Reg.LINK_ROUTE.EPOCH.at 8 m.pkg) → ∃ t : State, exec (.beaconAck plane m) s = .next t ∧ t.pending = s.pending ∧
        t.dev.pkgState m.pkg = { d.pkgState m.pkg with answered := true, missed := 0, allowance := m.allowance % 8 } ∧
        (∀ i, i ≠ m.pkg → t.dev.pkgState i = d.pkgState i) ∧ { t.dev with regs := d.regs, league := d.league } = d ∧
        RegsKept d t.dev [(0, Reg.LINK_STATE.MISSED)]) ∧
      (m.epoch ≠ d.rd 0 (Reg.LINK_ROUTE.EPOCH.at 8 m.pkg) →
        exec (.beaconAck plane m) s = .next { s with dev := d.inc (plane / 4) Reg.LINK_DROP.STALE_EPOCH 1 })) ∧
    (∀ m e, d.planeOpen plane = true → d.boot.ready = true → d.halted = false → d.charter.topo.slots[m.slot]? = some e →
      (e.serial ≠ m.serial → exec (.join plane m) s = .next { s with dev := d.inc (plane / 4) Reg.LINK_DROP.SOURCE 1 }) ∧
      (e.serial = m.serial → d.rd 0 Reg.LINK_CFG.FW_STRICT = 1 → m.fwVersion ≠ d.rd 0 Reg.BOOT_CHARTER.FW_VERSION →
        exec (.join plane m) s = .next { s with dev := d.emit (.mgmt (.switchTable m.slot m.serial 0xFF)) }) ∧
      (e.serial = m.serial → d.rd 0 Reg.LINK_CFG.FW_STRICT = 0 → m.digest ≠ d.digest →
        exec (.join plane m) s = .next { s with dev := d.emit (.joinGrant plane { epoch := 0, id := e.id, role := e.role }) }) ∧
      (e.serial = m.serial → m.digest = d.digest → d.rd 0 Reg.LINK_CFG.FW_STRICT = 0 →
        (d.rd 0 Reg.LINK_EPOCH.NEXT = 0 → ∃ t : State, exec (.join plane m) s = .next t ∧ t.pending = s.pending ∧
          t.dev.rd 0 Reg.LINK_STATE.EXHAUSTED = 1 ∧ t.dev.out = d.out ++ [.joinGrant plane { epoch := 0, id := e.id, role := e.role }] ∧
          RegsKept d t.dev [(0, Reg.LINK_STATE.EXHAUSTED)]) ∧
        (d.rd 0 Reg.LINK_EPOCH.NEXT ≠ 0 → d.sealed = false → d.league.sealPlan = none → e.id < 64 →
          d.league.entries.find? (fun x => x.id = e.id && x.valid && x.slot ≠ m.slot) = none →
          (d.rd 0 (Reg.LINK_ROUTE.VALID.at 8 e.id) = 0 ∨ d.rd 0 (Reg.LINK_ROUTE.SLOT.at 8 e.id) = m.slot) →
          ∃ t : State, exec (.join plane m) s = .next t ∧ t.pending = s.pending ∧
            Out.joinGrant plane { epoch := d.rd 0 Reg.LINK_EPOCH.NEXT, id := e.id, role := e.role } ∈ t.dev.out ∧
            t.dev.rd 0 Reg.LINK_EPOCH.NEXT = (d.rd 0 Reg.LINK_EPOCH.NEXT + 1) % 65536 ∧ (t.dev.pkgState e.id).joined = true ∧
            t.dev.rd 0 (Reg.LINK_ROUTE.VALID.at 8 e.id) = 1 ∧ t.dev.rd 0 (Reg.LINK_ROUTE.EPOCH.at 8 e.id) = d.rd 0 Reg.LINK_EPOCH.NEXT))) ∧
    (∀ pkg, d.sealed = true → pkg < 64 → pkg ≠ d.pkgId → (d.pkgState pkg).joined = true →
      ((d.pkgState pkg).answered = false → (d.pkgState pkg).counted = false →
        ∃ t : State, exec (.beaconUnanswered pkg) s = .next t ∧ t.pending = s.pending ∧ t.dev.elapsed = max d.elapsed 1000000 ∧
          t.dev.pkgState pkg = { d.pkgState pkg with counted := true, missed := (d.pkgState pkg).missed + 1 } ∧
          min 255 ((d.pkgState pkg).missed + 1) ≤ t.dev.rd 0 Reg.LINK_STATE.MISSED ∧ t.dev.out = d.out) ∧
      ((d.pkgState pkg).answered = true ∨ (d.pkgState pkg).counted = true → exec (.beaconUnanswered pkg) s = .next s) ∧
      (2 ≤ (d.pkgState pkg).missed → (∀ p ∈ d.charter.plans, p.adopt = []) → ∃ t : State, exec (.packageLost pkg) s = .next t ∧ t.pending = s.pending ∧
        (t.dev.pkgState pkg).joined = false ∧ bit t.dev.league.lost pkg = true ∧ t.dev.rd 0 (Reg.LINK_ROUTE.VALID.at 8 pkg) = 0 ∧
        t.dev.rd 0 (Reg.LINK_ROUTE.EPOCH.at 8 pkg) = 0 ∧ ∀ p : Packet, p.srcPkg = pkg → t.dev.packetDrop p = some Reg.LINK_DROP.SOURCE)) ∧
    (∀ v, d.planeOpen plane = true → d.halted = false → d.rd 0 Reg.HIF_RELAY_CMD.GO_BUSY = 1 →
      ∃ t : State, exec (.mgmt plane (.relayAnswer v)) s = .next t ∧ t.pending = s.pending ∧ t.dev.rd 0 Reg.HIF_RELAY_CMD.GO_BUSY = 0 ∧
        t.dev.rd 0 Reg.HIF_RELAY_CMD.RESULT = 0 ∧ t.dev.rd 0 Reg.HIF_RELAY_DATA.VALUE = v % 2 ^ 64 ∧ OnlyRegs d t.dev)

/-- A beacon of a sealed package in service gives it the tick, the next point, the plan announced and the packages lost, ends its count of misses and is answered
on the spot; the seal beacon names the plan. A halted package hears it and does not answer. A beacon that has not come counts once. A grant puts the package in service
with its epoch, ID and role; epoch 0 refuses it. An invalidation of the tables takes effect at once, another entry at its tick; a notice of a port takes the
plane from the slot's IDs. A routed entry and a relayed read are served. -/
def Obligations.LeagueFollower : Prop :=
  ∀ (plane : Nat) (s : State), s.dev.on = true → s.dev.isFollower = true → s.dev.isManager = false →
    let d := s.dev
    (∀ off (m : BeaconMsg), d.planeUp plane = true →
      (d.sealed = true → d.rd 0 Reg.LINK_STATE.LEAGUE = 2 → m.tick < 2 ^ 64 - 2 →
        ∃ t : State, exec (.beacon plane off m) s = .next t ∧ t.pending = s.pending ∧ t.dev.tick = m.tick ∧
          t.dev.rd 0 Reg.PWR_STATUS.OPP_NEXT = m.oppNext % 8 ∧ t.dev.rd 0 Reg.LINK_STATE.PLAN_NEXT = m.planNext % 256 ∧
          t.dev.rd 0 Reg.LINK_LOST.LOST = m.lost % 2 ^ 64 ∧ t.dev.rd 0 Reg.LINK_STATE.MISSED = 0 ∧
          t.dev.rd 0 Reg.LINK_STATE.BEACON_TICK_LO = m.tick % 65536 ∧ t.dev.league.seen = true ∧ t.dev.league.oppNext2 = m.oppNext2 ∧
          (d.halted = false → t.dev.out.getLast? = some (.beaconAck plane
            { pkg := d.pkgId, tick := m.tick, league := 2, epoch := d.rd 0 Reg.LINK_EPOCH.OWN, allowance := d.power.allowance }))) ∧
      (m.tick = 2 ^ 64 - 1 → ∃ t : State, exec (.beacon plane off m) s = .next t ∧ t.dev.league.sealPlan = some m.plan ∧
        t.dev.tick = d.tick)) ∧
    (d.sealed = true → d.league.seen = false → d.league.missCounted = false → ∃ t : State, exec .beaconMiss s = .next t ∧ t.pending = s.pending ∧
      t.dev.rd 0 Reg.LINK_STATE.MISSED = min (d.rd 0 Reg.LINK_STATE.MISSED + 1) 255 ∧ t.dev.league = { d.league with missCounted := true } ∧
      t.dev.elapsed = max d.elapsed 1000000 ∧ RegsKept d t.dev [(0, Reg.LINK_STATE.MISSED)]) ∧
    (∀ m : JoinGrantMsg, d.planeOpen plane = true → d.league.joining = true →
      (m.epoch = 0 → ∃ t : State, exec (.joinGrant plane m) s = .next t ∧ t.dev.rd 0 Reg.LINK_STATE.LEAGUE = 4 ∧ t.dev.league.joining = false ∧
        RegsKept d t.dev [(0, Reg.LINK_STATE.LEAGUE)]) ∧
      (m.epoch ≠ 0 → ∃ t : State, exec (.joinGrant plane m) s = .next t ∧ t.pending = s.pending ∧ t.dev.rd 0 Reg.LINK_STATE.LEAGUE = 2 ∧
        t.dev.rd 0 Reg.LINK_EPOCH.OWN = m.epoch % 65536 ∧ t.dev.pkgId = m.id % 64 ∧ t.dev.rd 0 Reg.LINK_CFG.ROLE = m.role % 4 ∧
        { t.dev with regs := d.regs, regsSt := d.regsSt } = { d with league := { d.league with joining := false } } ∧
        RegsKept d t.dev [(0, Reg.LINK_STATE.LEAGUE), (0, Reg.LINK_EPOCH.OWN), (0, Reg.LINK_CFG.PKG_ID), (0, Reg.LINK_CFG.ROLE)])) ∧
    (∀ slot, d.planeOpen plane = true → ∃ t : State, exec (.portDown plane slot) s = .next t ∧ t.pending = s.pending ∧
      ∀ i, i < 64 → i ≠ d.pkgId → d.rd 0 (Reg.LINK_ROUTE.VALID.at 8 i) = 1 →
        (d.rd 0 (Reg.LINK_ROUTE.SLOT.at 8 i) = slot → bit (t.dev.planesTo i) plane = false) ∧
        (d.rd 0 (Reg.LINK_ROUTE.SLOT.at 8 i) ≠ slot → t.dev.planesTo i = d.planesTo i)) ∧
    (∀ gen entries, d.planeOpen plane = true → entries.all (fun e => !e.valid) = true →
      ∃ t : State, exec (.epochSet plane gen entries) s = .next t ∧ t.pending = s.pending ∧ t.dev.rd 0 Reg.LINK_EPOCH.GEN = gen % 65536 ∧
        ∀ e ∈ entries, t.dev.rd 0 (Reg.LINK_ROUTE.VALID.at 8 (e.id % 64)) = 0 ∧ t.dev.rd 0 (Reg.LINK_ROUTE.EPOCH.at 8 (e.id % 64)) = 0) ∧
    (∀ gen (e : RouteEntry), d.planeOpen plane = true → e.valid = true →
      (e.effective ≤ d.tick → e.slot ≠ d.rd 0 Reg.LINK_CFG.SLOT → ∃ t : State, exec (.epochSet plane gen [e]) s = .next t ∧ t.pending = s.pending ∧
        t.dev.rd 0 (Reg.LINK_ROUTE.VALID.at 8 (e.id % 64)) = 1 ∧ t.dev.rd 0 (Reg.LINK_ROUTE.EPOCH.at 8 (e.id % 64)) = e.epoch % 65536 ∧
        t.dev.rd 0 (Reg.LINK_ROUTE.SLOT.at 8 (e.id % 64)) = e.slot % 64 ∧ t.dev.pkgId = d.pkgId) ∧
      (e.effective ≤ d.tick → e.slot = d.rd 0 Reg.LINK_CFG.SLOT → ∃ t : State, exec (.epochSet plane gen [e]) s = .next t ∧
        t.dev.pkgId = e.id % 64 ∧ t.dev.rd 0 Reg.LINK_EPOCH.OWN = e.epoch % 65536) ∧
      (d.tick < e.effective → ∃ t : State, exec (.epochSet plane gen [e]) s = .next t ∧ t.dev.league.entries = d.league.entries ++ [e] ∧
        RegsKept d t.dev [(0, Reg.LINK_EPOCH.GEN)])) ∧
    (∀ src die offset v, d.planeOpen plane = true → d.halted = false → d.viewRead die offset = some v →
      exec (.mgmt plane (.relayRequest src die offset)) s = .next { s with dev := d.emit (.mgmt (.relayAnswer v)) })

/-- A frame that fails its checks is dropped and counted; one for the exception ring is kept while the ring has room. A packet of a matching flow within its window
places its payload and its cell header at its cell, whose PRESENT bit is set. A slot that closes writes its header. ENABLE, DISABLE, REKEY and REANCHOR wait for
the boundary and answer RESULT; a key is loaded from the key data; a link change shows in the port's status. -/
def Obligations.SioFlows : Prop :=
  ∀ (s : State), s.dev.on = true →
    let d := s.dev
    (∀ port at_ frame, d.ethUp port = true →
      let d1 := d.toTime at_
      (readFrame frame = .mac → exec (.ethFrameRx port at_ frame) s = .next { s with dev := d1.inc d.sioDie Reg.SIO_DROP.MAC 1 }) ∧
      (readFrame frame = .ring → d.sio.ring.length < 4096 → d.sio.accepted < d.rd 0 Reg.TICK_PERIOD.PERIOD →
        ∃ t : State, exec (.ethFrameRx port at_ frame) s = .next t ∧ t.pending = s.pending ∧ t.dev.sio.ring = d.sio.ring ++ [(port, frame)] ∧
          t.dev.sio.accepted = d.sio.accepted + 1 ∧ t.dev.sio.flows = d.sio.flows ∧ t.dev.mem = d.mem ∧ t.dev.regs = d.regs) ∧
      (readFrame frame = .ring → 4096 ≤ d.sio.ring.length →
        exec (.ethFrameRx port at_ frame) s = .next { s with dev := d1.inc d.sioDie Reg.SIO_DROP.EXC 1 }) ∧
      (∀ u i f0 n a t0 c target pa d2, readFrame frame = .udp u → d.sio.flows.any (fun e => e.2.on && e.2.entry.rtcpFor u) = false →
        d.sio.flows.find? (fun e => e.2.matching && e.2.entry.port = port && e.2.entry.isFor u) = some (i, f0) → rtpHeaderLen u.data = some n →
        let f := d.flow i
        let h := u.data.take n
        let v := u.data.drop n
        let x := d.flowXq i f.entry
        let now : Int := d.tick
        let off := 64 + c * f.entry.cellBytes
        f.entry.srtp = false → bit (fld h 0 1) 5 = false → fld h 1 1 % 128 = f.entry.pt → f.anchor = some a →
        f.entry.mediaOf a (fldBE h 4 4) = (t0, c) → 0 ≤ t0 → t0 + f.entry.jitter + 2 ≤ now + f.entry.slotCount → now < t0 + f.entry.jitter + 1 →
        v.length + 16 ≤ f.entry.cellBytes → off + f.entry.cellBytes ≤ f.entry.slotBytes →
        bit ((f.slots.find? (fun z => z.tick = t0.toNat)).getD { tick := t0.toNat }).present c = false →
        ((d1.flowStat i stRx 1).translateRange x (f.entry.slotDva t0.toNat) f.entry.slotBytes axWrite) = (.ok [(target, f.entry.slotBytes)], d2) →
        d.localOf target = some pa → d.inFathom (x.rq false true) pa f.entry.slotBytes → d.flaws = [] → d.findings = [] →
        ∃ t : State, exec (.ethFrameRx port at_ frame) s = .next t ∧ t.pending = s.pending ∧
          (∀ b, b < v.length → t.dev.cohByte (pa + off + 16 + b) = v.getD b 0) ∧
          (∀ b, b < 16 → t.dev.cohByte (pa + off + b) = (cellHeader v.length (fldBE h 2 2) (fldBE h 4 4) (fld h 1 1) (decide (t0 < now))
            ((now - t0) * ((d.rd 0 Reg.TICK_PERIOD.PERIOD * 1000 : Nat) : Int) + (d1.elapsed : Int))).getD b 0) ∧
          (∃ z ∈ (t.dev.flow i).slots, z.tick = t0.toNat ∧ bit z.present c = true) ∧ t.dev.out = d.out)) ∧
    (∀ i tk z target pa d2, (d.flow i).closing.find? (fun z => z.tick = tk) = some z →
      (∃ t : State, exec (.slotClose i tk) s = .next t ∧ t.pending = s.pending ∧ (t.dev.flow i).closing = (d.flow i).closing.filter (fun z => z.tick ≠ tk) ∧
        (t.dev.flow i).stats = []) ∧
      ((d.flow i).stats = [] → z.missing = 0 →
        ((d.updFlow i (fun f => { f with closing := f.closing.filter (fun s => s.tick ≠ tk) })).translateRange (d.flowXq i (d.flow i).entry)
          ((d.flow i).entry.slotDva tk) (d.flow i).entry.slotBytes axWrite) = (.ok [(target, (d.flow i).entry.slotBytes)], d2) →
        64 ≤ (d.flow i).entry.slotBytes → d.localOf target = some pa → d.inFathom ((d.flowXq i (d.flow i).entry).rq false true) pa 64 → d.flaws = [] →
        d.findings = [] →
        ∃ t : State, exec (.slotClose i tk) s = .next t ∧ ∀ b, b < 64 → t.dev.cohByte (pa + b) = (z.header (d.flow i).entry.ssrc).getD b 0)) ∧
    (∀ i, d.rd d.sioDie Reg.SIO_FLOW_STATUS.BUSY = 0 →
      let Answer := fun (t : State) (r : Nat) => t.pending = s.pending ∧ t.dev.rd d.sioDie Reg.SIO_FLOW_STATUS.RESULT = r ∧ t.dev.mem = d.mem ∧
        (∀ j, j ≠ i → t.dev.flow j = d.flow j) ∧ RegsKept d t.dev [(d.sioDie, Reg.SIO_FLOW_STATUS.RESULT)]
      (d.flowStruct i = none → ∃ t : State, exec (.flowEnable i) s = .next t ∧ Answer t 1 ∧ t.dev.sio = d.sio) ∧
      (∀ e, d.flowStruct i = some e →
        let taken := d.sio.flows.any (fun g => g.1 ≠ i && g.2.counted && (g.2.turnOn.getD g.2.entry).kind = 1 &&
          (g.2.turnOn.getD g.2.entry).sameKey (d.flowInMemory i e))
        (e.kind = 1 → taken = true → ∃ t : State, exec (.flowEnable i) s = .next t ∧ Answer t 2 ∧ t.dev.sio = d.sio) ∧
        (e.kind ≠ 1 ∨ taken = false → ∃ t : State, exec (.flowEnable i) s = .next t ∧ Answer t 0 ∧
          t.dev.flow i = { d.flow i with turnOn := some (d.flowInMemory i e), counted := true, pendingKey := none }) ∧
        (∃ t : State, exec (.flowDisable i) s = .next t ∧ Answer t 0 ∧
          t.dev.flow i = { d.flow i with turnOn := none, turnOff := (d.flow i).on, counted := false }) ∧
        (∀ key, ∃ t : State, exec (.flowRekey i key) s = .next t ∧ Answer t 0 ∧ t.dev.flow i = { d.flow i with pendingKey := some (key % 65536) }) ∧
        (e.kind = 1 → ∃ t : State, exec (.flowReanchor i) s = .next t ∧ Answer t 0 ∧ t.dev.flow i = { d.flow i with reanchor := true }) ∧
        (e.kind ≠ 1 → ∃ t : State, exec (.flowReanchor i) s = .next t ∧ Answer t 3 ∧ t.dev.sio = d.sio))) ∧
    (∀ k long, ∃ t : State, exec (.keyLoad k long) s = .next t ∧ t.pending = s.pending ∧ { t.dev with sio := d.sio } = d ∧
      (∀ j, j ≠ k % 65536 → t.dev.srtpKey j = d.srtpKey j) ∧ (t.dev.srtpKey (k % 65536)).key.length = (if long then 32 else 16) ∧
      (t.dev.srtpKey (k % 65536)).salt.length = 12 ∧
      ∀ w b, w < (if long then 4 else 2) → b < 8 →
        ((t.dev.srtpKey (k % 65536)).key.getD (8 * w + b) 0).toNat = bits (d.rd d.sioDie (Reg.SIO_KEY_DATA.DATA.at 8 w)) (8 * b) 8) ∧
    (∀ port up, port < 2 → ∃ t : State, exec (.ethPortLinkChange port up) s = .next t ∧ t.pending = s.pending ∧ OnlyRegs d t.dev ∧
      t.dev.rd d.sioDie (Reg.SIO_PORT_STATUS.LINK.at 8 port) = b2n up ∧ RegsKept d t.dev [(d.sioDie, Reg.SIO_PORT_STATUS.LINK.at 8 port)])

/-- A release waits for its producer until the earliest time; where the producer failed nothing of the slot is sent; where it completed, its cells are due in order
and not before the earliest time. The packet that is due leaves as a frame around its RTP packet with the next sequence number. A frame of the exception ring
leaves as it is. A command of an entry leaves for its SSD in order; one that completes counts its bytes, one that fails or is aborted ends its entry with
ERROR; a reset of the controller ends all of a port. -/
def Obligations.EgressAndStorage : Prop :=
  ∀ (s : State), s.dev.on = true →
    let d := s.dev
    (∀ i, (d.flow i).on = true → (d.flow i).entry.kind = 2 → ((d.flow i).job.map (·.tick)) ≠ some d.tick →
      (d.entryOf (d.flow i).entry.producer).isSome = true →
      let e := (d.flow i).entry
      let o := d.span e.producer
      let known : Bool := o.dispatched && o.tick = d.tick && o.outcome ≠ 0xFF
      (known = false → d.dispatching = true → d.elapsed < e.earliestNs → exec (.egressRelease i) s = .next s) ∧
      (known = true → o.outcome ≠ ocCompleted → ∃ t : State, exec (.egressRelease i) s = .next t ∧ t.pending = s.pending ∧
        (t.dev.flow i).job = some { tick := d.tick } ∧ ∀ port f, Out.ethFrame port f ∈ t.dev.out → Out.ethFrame port f ∈ d.out) ∧
      (∀ b d2, known = true → o.outcome = ocCompleted → d.egressRead (d.flowXq i e) (e.slotDva d.tick) 64 = (some b, d2) → anyPoison b = false →
        ∃ (t : State) (j : EgressJob), exec (.egressRelease i) s = .next t ∧ t.pending = s.pending ∧ (t.dev.flow i).job = some j ∧ j.tick = d.tick ∧
          j.cells.length ≤ fld (plain b) 0 2 ∧ j.cells.Pairwise (fun x y => x.2 ≤ y.2) ∧ (∀ z ∈ j.cells, e.earliestNs ≤ z.2) ∧
          ∀ port f, Out.ethFrame port f ∈ t.dev.out → Out.ethFrame port f ∈ d.out)) ∧
    (∀ i k due rest tk n late, (d.flow i).job = some { tick := tk, cells := (some k, due) :: rest, sent := n } → tk = d.tick → k ≠ 65535 →
      due + late < d.rd 0 Reg.TICK_PERIOD.PERIOD * 1000 → d.paceBehind i (d.flow i).entry.port due = false →
      d.rd d.sioDie (Reg.SIO_PORT_STATUS.LINK.at 8 (d.flow i).entry.port) ≠ 0 → (d.flow i).entry.kind = 2 → (d.flow i).entry.srtp = false →
      let f := d.flow i
      let e := f.entry
      let d1 := d.toTime (due + late)
      let x := d.flowXq i e
      let base := e.slotDva tk + 64 + k * e.cellBytes
      ∀ hb b d2 d3, d1.egressRead x base 16 = (some hb, d2) → d2.egressRead x base (16 + fld (plain hb) 0 2) = (some b, d3) → anyPoison b = false →
        e.overhead + ((plain b).drop 16).length ≤ 9216 →
        ∃ (t : State) (fill : List Byte), exec (.pacedSend i k late) s = .next t ∧ t.pending = s.pending ∧ fill.length = 11 ∧
          Out.ethFrame e.port (e.frame fill (e.rtpHeader (bit (fld (plain b) 2 1) 7) f.seq (fld (plain b) 4 4) ++ (plain b).drop 16)) ∈ t.dev.out ∧
          (t.dev.flow i).seq = (f.seq + 1) % 65536 ∧ (t.dev.flow i).job = some { tick := tk, cells := rest, sent := n + 1 }) ∧
    (∀ port frame, d.ethUp port = true → frame.length ≤ 9216 → exec (.excRingTx port frame) s = .next { s with dev := d.emit (.ethFrame port frame) }) ∧
    (∀ port entry e lba bytes dva ps d2, d.moveList[entry]? = some e → (d.moveRun (portDie port) entry).state = 1 →
      (d.moveRun (portDie port) entry).fail = 0 → e.port = port → e.kind = 5 → d.rd d.sioDie (Reg.SIO_NVME_STATUS.STATE.at 8 port) = 1 → bytes ≠ 0 →
      let m := d.moveRun (portDie port) entry
      bytes = min 0x100000 (e.amount - m.issued) → lba = e.src + m.issued / 4096 → dva = e.dst + m.issued →
      d.translateRange (d.nvmeXq port e.partition) dva bytes axWrite = (.ok ps, d2) → (d.nvPort port).cmds = [] →
      ∃ t : State, exec (.nvmeCommandIssue port entry false lba bytes dva) s = .next t ∧ t.pending = s.pending ∧
        t.dev.out = d.out ++ [.nvme port (d.nvPort port).nextCid e.nsid false lba bytes []] ∧
        (t.dev.moveRun (portDie port) entry).issued = m.issued + bytes ∧ (t.dev.nvPort port).cmds.map (·.cid) = [(d.nvPort port).nextCid] ∧
        t.dev.mem = d.mem) ∧
    (∀ port cid c, (d.nvPort port).cmds.find? (fun c => c.cid = cid) = some c → c.orphan = false →
      let m := d.moveRun c.die c.entry
      (∀ ext, c.write = true → ∃ t : State, exec (.nvmeCommandComplete port cid true ext) s = .next t ∧ t.pending = s.pending ∧
        (t.dev.nvPort port).cmds = (d.nvPort port).cmds.filter (fun c => c.cid ≠ cid) ∧ (t.dev.moveRun c.die c.entry).done = m.done + c.bytes ∧
        t.dev.mem = d.mem ∧ t.dev.regs = d.regs) ∧
      (∀ ext target pa, c.write = false → c.targets = [(target, c.bytes)] → d.localOf target = some pa →
        d.inFathom ((d.nvmeXq port c.part).rq false true) pa c.bytes → ext.bytes.length = c.bytes → d.flaws = [] → d.findings = [] →
        d.deferredAt (fun _ => false) target c.bytes = false →
        ∃ t : State, exec (.nvmeCommandComplete port cid true ext) s = .next t ∧ t.pending = s.pending ∧
          (t.dev.moveRun c.die c.entry).done = m.done + c.bytes ∧ ∀ b, b < c.bytes → t.dev.cohByte (pa + b) = ext.bytes.getD b 0) ∧
      (∀ ext, ∃ t : State, exec (.nvmeCommandComplete port cid false ext) s = .next t ∧ t.pending = s.pending ∧
        (m.state = 1 → (t.dev.moveRun c.die c.entry).fail = 3) ∧ t.dev.mem = d.mem ∧
        (port < 8 → t.dev.rd d.sioDie (Reg.SIO_NVME_STATUS.ERRORS.at 8 port) = min (d.rd d.sioDie (Reg.SIO_NVME_STATUS.ERRORS.at 8 port) + 1) 65535)) ∧
      (c.aborted = false → ∃ t : State, exec (.nvmeAbortTimeout port cid) s = .next t ∧ t.pending = s.pending ∧ t.dev.out = d.out ++ [.nvmeAbort port cid] ∧
        (m.state = 1 → (t.dev.moveRun c.die c.entry).fail = 3) ∧ (∀ y ∈ (t.dev.nvPort port).cmds, y.cid = cid → y.aborted = true))) ∧
    (∀ port recovered, port < 8 → (d.nvPort port).cmds.any (fun c => c.aborted) = true →
      ∃ t : State, exec (.nvmeControllerReset port recovered) s = .next t ∧ t.pending = s.pending ∧ (t.dev.nvPort port).cmds = [] ∧
        t.dev.out = d.out ++ [.nvmeReset port] ∧ t.dev.rd d.sioDie (Reg.SIO_NVME_STATUS.STATE.at 8 port) = (if recovered then 1 else 3) ∧
        bit (t.dev.rd (portDie port) Reg.RAS_ERR.CLASS) 14 = true ∧ t.dev.mem = d.mem ∧
        ∀ c ∈ (d.nvPort port).cmds, c.orphan = false → (d.moveRun c.die c.entry).state = 1 → (t.dev.moveRun c.die c.entry).fail = 3)

/-- A core that waits for nothing executes the instruction at its pc, or takes the interrupt that is due: the pc, the cause and the mode are saved. TWAIT gives the
count it reached, all ones where the tick generator is off, or waits; FENCE.SC at system scope waits for remote stores; SPANQ and TREAD give their values; SETIPI
makes an identity pending; the Xeumtick CSRs take their values in M mode and trap below it; a timer that expires stands in mip; WFI and its wake change the
power state; a reservation times out, a deferral ends; sfence.vma drops the core's own translations. Requests that a home held for a core go on after each; where
it holds none, nothing else happens. -/
def Obligations.StewardCore : Prop :=
  ∀ (h : Nat) (s : State), s.dev.on = true → s.dev.hartAlive h = true →
    let d := s.dev
    let v := d.hart h
    let Done := fun (t : State) (rd x : Nat) => t.pending = s.pending ∧ Freed t (fun e => OnlyHart d e h ∧ HartRetired v (e.hart h) rd x)
    let Becomes := fun (t : State) (w : Hart) => t.pending = s.pending ∧ Freed t (fun e => OnlyHart d e h ∧ e.hart h = w)
    let Below := v.priv ≤ 3 ∧ (v.priv = 3 ∨ bit (v.c 0x302) 2 = false)
    let Illegal := fun (t : State) => t.pending = s.pending ∧ Freed t (fun e => HartIllegal v (e.hart h) ∧ e.mem = d.mem ∧ e.regs = d.regs)
    (∀ x : Dev, x.held = [] → x.peerHeld = [] → x.releaseFree = x) ∧
    (d.irqWakes v = true → ∃ t : State, exec (.coreWake h) s = .next t ∧ t.pending = s.pending ∧ OnlyHart d t.dev h ∧
      t.dev.hart h = { v with power := 0 }) ∧
    (d.irqWakes v = false → exec (.coreWake h) s = .next s) ∧
    (d.hartReady h = true →
    (∀ ext i, v.stall = .none → d.irqTake v = some (i, false) → v.priv ≤ 3 → i < 64 → ∃ t : State, exec (.stewardInstruction h ext) s = .next t ∧
      t.pending = s.pending ∧ Freed t (fun e => OnlyHart d e h ∧ (e.hart h).priv = 3 ∧ (e.hart h).c 0x341 = v.core.pc % 2 ^ 64 ∧
      (e.hart h).c 0x342 = 2 ^ 63 + i ∧ bits ((e.hart h).c 0x300) 11 2 = v.priv ∧ bit ((e.hart h).c 0x300) 3 = false ∧
      bit ((e.hart h).c 0x300) 7 = bit (v.c 0x300) 3 ∧ (e.hart h).core.pc = vectorOf (v.c 0x305) i true ∧ (e.hart h).resv = none)) ∧
    (∀ ext b b2 s1 s2 rd rs1 imm, v.stall = .none → d.irqTake v = none → rd < 32 → rs1 < 32 → imm < 2048 →
      let s0 : HartSt := { d := d.updHart h (fun t => { t with stall := .none }), ext := ext }
      s0.read h v.core.pc 2 axFetch 1 = .ok (b, s1) → s1.read h (v.core.pc + 2) 2 axFetch 1 = .ok (b2, s2) → b.length = 2 → s2.d.hart h = v →
      leNat b + 65536 * leNat b2 = imm * 2 ^ 20 + rs1 * 2 ^ 15 + rd * 2 ^ 7 + 0x13 →
      ∃ t : State, exec (.stewardInstruction h ext) s = .next t ∧ t.pending = s.pending ∧
        Freed t (fun e => OnlyHart s2.d e h ∧ HartRetired v (e.hart h) rd (v.core.gx rs1 + imm))) ∧
    (∀ next rs1 rd, rs1 < 32 → rd < 32 →
      let off : Bool := d.rd 0 Reg.TICK_STATUS.STATE = 0
      (off = true ∨ (next = false ∧ v.core.gx rs1 ≤ d.tick) → ∃ t : State, exec (.twait h next rs1 rd) s = .next t ∧ t.pending = s.pending ∧
        Freed t (fun e => OnlyHart d e h ∧ (rd ≠ 0 → (e.hart h).core.gx rd = if off = true then 2 ^ 64 - 1 else d.tick) ∧ bit ((e.hart h).c 0x344) 34 = false ∧
        (e.hart h).core.pc = (v.core.pc + 4) % 2 ^ 64 ∧ (e.hart h).stall = .none)) ∧
      (off = false → next = true ∨ d.tick < v.core.gx rs1 → ∃ t : State, exec (.twait h next rs1 rd) s = .next t ∧
        Becomes t { v with stall := .twait next (v.core.gx rs1) rd, power := 1 })) ∧
    (∀ scope, v.stall = .none →
      (scope < 4 ∨ (scope = 4 ∧ v.remote = []) → ∃ t : State, exec (.stewardFenceSc h scope) s = .next t ∧ Done t 0 0) ∧
      (scope = 4 → v.remote ≠ [] → ∃ t : State, exec (.stewardFenceSc h scope) s = .next t ∧ Becomes t { v with stall := .fence 4 }) ∧
      (4 < scope → Below → ∃ t : State, exec (.stewardFenceSc h scope) s = .next t ∧ Illegal t)) ∧
    (∀ rs1 rd, rs1 < 32 → rd < 32 → ∃ t : State, exec (.spanq h rs1 rd) s = .next t ∧ Done t rd (d.spanState h (v.core.gx rs1 % 65536)) ∧
      (v.core.gx rs1 % 65536 = 0 → d.spanState h (v.core.gx rs1 % 65536) = 0xFF)) ∧
    (∀ sel rd, rd < 32 → (sel ≤ 2 → ∃ t : State, exec (.tread h sel rd) s = .next t ∧
        Done t rd (if sel = 0 then d.tick else if sel = 1 then d.elapsed else d.rd 0 Reg.TICK_STATUS.STATE * 256 + d.opp % 8)) ∧
      (2 < sel → Below → ∃ t : State, exec (.tread h sel rd) s = .next t ∧ Illegal t)) ∧
    (∀ rs1 identity sup, rs1 < 32 →
      let target := v.core.gx rs1
      let file := fun (t : Hart) => if sup = true then t.imsicS else t.imsicM
      (32 ≤ identity → identity ≤ 255 → d.hartOk target = true →
        v.priv = 3 ∨ (v.priv = 1 ∧ sup = true ∧ (d.hart target).partValid = true ∧ (d.hart target).part = v.part) →
        ∃ t : State, exec (.setipi h rs1 identity sup) s = .next t ∧ t.pending = s.pending ∧
          Freed t (fun e => bit (file (e.hart target)).pending identity = true ∧ (∀ k, k ≠ h → k ≠ target → e.hart k = d.hart k) ∧
          { e with harts := d.harts } = d ∧ (e.hart h).core.pc = (v.core.pc + 4) % 2 ^ 64)) ∧
      (v.priv = 0 ∨ (v.priv = 1 ∧ sup = false) → Below → ∃ t : State, exec (.setipi h rs1 identity sup) s = .next t ∧ Illegal t)) ∧
    (∀ x : W64,
      (v.priv = 3 →
        (∃ t : State, exec (.mpartWrite h x) s = .next t ∧ t.pending = s.pending ∧ Freed t (fun e => OnlyHart d e h ∧
          (e.hart h).c 0x7C0 = (if d.sealed = true ∧ bit (d.charter.parts.getD (x.toNat % 16) {}).harts h = false then v.c 0x7C0
            else x.toNat % 16 + bits x.toNat 63 1 * 2 ^ 63) ∧ (e.hart h).core.pc = (v.core.pc + 4) % 2 ^ 64)) ∧
        (∃ t : State, exec (.mliveWrite h x) s = .next t ∧ t.pending = s.pending ∧ Freed t (fun e => OnlyHart d e h ∧ (e.hart h).c 0x7C2 = x.toNat ∧
          (e.hart h).live = x.toNat % 2 ^ 32 * 2 ^ 32 + d.tick % 2 ^ 32)) ∧
        (∃ t : State, exec (.mlosterrWrite h) s = .next t ∧ t.pending = s.pending ∧ Freed t (fun e => OnlyHart d e h ∧ (e.hart h).c 0x7C3 = 0 ∧
          bit ((e.hart h).c 0x344) 35 = false))) ∧
      (v.priv < 3 → Below → (∃ t : State, exec (.mpartWrite h x) s = .next t ∧ Illegal t) ∧ (∃ t : State, exec (.mliveWrite h x) s = .next t ∧ Illegal t) ∧
        ∃ t : State, exec (.mlosterrWrite h) s = .next t ∧ Illegal t)) ∧
    (v.c 0x7C1 * 10 - d.timeNs ≤ d.rd 0 Reg.TICK_PERIOD.PERIOD * 1000 → ∃ t : State, exec (.mtimecmpxExpiry h false) s = .next t ∧ t.pending = s.pending ∧
      t.dev = d.toTime (v.c 0x7C1 * 10 - d.timeNs) ∧ bit (t.dev.mip v) 7 = true) ∧
    (v.stall = .none → d.irqWakes v = true → ∃ t : State, exec (.wfi h) s = .next t ∧ Done t 0 0) ∧
    (v.priv = 3 → d.irqWakes v = false → v.c 0x7C4 % 4 ≠ 3 ∨ v.remote = [] → ∃ t : State, exec (.wfi h) s = .next t ∧ t.pending = s.pending ∧
      Freed t (fun e => OnlyHart (if v.c 0x7C4 % 4 = 3 then d.coreOff h else d) e h ∧
        (e.hart h).power = (if v.c 0x7C4 % 4 = 0 then 1 else v.c 0x7C4 % 4) ∧ (e.hart h).core.pc = (v.core.pc + 4) % 2 ^ 64)) ∧
    (∃ t : State, exec (.reservationTimeout h) s = .next t ∧ Becomes t { v with resv := none, deferring := false }) ∧
    (v.deferring = true → ∃ t : State, exec (.recallDeferralEnd h) s = .next t ∧ Becomes t { v with deferring := false }) ∧
    (∀ rs1 rs2, v.priv = 3 → rs1 < 32 → rs2 < 32 → ∃ t : State, exec (.sfenceVma h rs1 rs2) s = .next t ∧ t.pending = s.pending ∧
      Freed t (fun x => HartRetired v (x.hart h) 0 0 ∧ { x with harts := d.harts, tlb := d.tlb, walks := d.walks } = d ∧
      ∀ e, e ∈ x.tlb ↔ e ∈ d.tlb ∧ ¬ (e.mmu = mmuHart h ∧ (rs1 = 0 ∨ e.dva = alignDown (v.core.gx rs1) (2 ^ e.size)) ∧
        (rs2 = 0 ∨ e.part = v.core.gx rs2)))))

/-- cbo.clean writes a dirty copy home, cbo.flush and cbo.inval also drop every copy, and the line's bytes keep their values. An AMO gives the old value and leaves
the new one at the home; LR gives the value and reserves its line; SC stores and gives 0 while the reservation holds, else gives 1 and stores nothing; either
ends it. PAGE_MAP claims and maps pages and gives the first, PAGE_UNMAP frees them, FLOW_CMD gives RESULT, KEY_LOAD loads the key; a count of zero does
nothing, and what belongs to another partition is denied. Requests that a home held for a core go on after each. -/
def Obligations.StewardMemory : Prop :=
  ∀ (h : Nat) (s : State), HartReady s h →
    let d := s.dev
    let v := d.hart h
    let Copies := fun (e : Dev) (line : Nat) => ∀ die, die < 2 → (e.stewLine die line).valid = false
    let Sound := d.flaws = [] ∧ d.findings = []
    let Call := fun (fid : Nat) => d.sealed = true ∧ v.priv = 1 ∧ v.partValid = true ∧ v.core.gx 17 = 0x09000001 ∧ v.core.gx 16 = fid
    let Returns := fun (t : State) (err x : Nat) (P : Dev → Prop) => t.pending = s.pending ∧ Freed t (fun e => (e.hart h).core.gx 10 = err ∧
      (e.hart h).core.gx 11 = x ∧ (e.hart h).core.pc = (v.core.pc + 4) % 2 ^ 64 ∧ (e.hart h).priv = 1 ∧ P e)
    let Only := fun (e : Dev) => OnlyHart d e h
    (∀ rs1 target pa d1, v.priv = 3 → rs1 < 32 → d.hartTranslate h (alignDown (v.core.gx rs1) 128) axRead 7 = (.ok target, d1) → d.localOf target = some pa →
      d.region pa = .stacked ∨ d.region pa = .fathom → d.dieFailed (d.homeDie pa) = false →
      let line := pa / 128
      let Same := fun (t : State) (P : Dev → Prop) => t.pending = s.pending ∧ Freed t (fun e => (Sound → HartRetired v (e.hart h) 0 0) ∧
        (Sound → d.oneOwner line → ∀ i, i < 128 → e.cohByte (line * 128 + i) = d.cohByte (line * 128 + i)) ∧ P e)
      (∃ t : State, exec (.cboClean h rs1) s = .next t ∧ Same t (fun e => ∀ die, die < 2 → (e.stewLine die line).valid = true →
        (e.stewLine die line).dirty = false)) ∧
      (∃ t : State, exec (.cboFlush h rs1) s = .next t ∧ Same t (fun e => Copies e line)) ∧
      ∃ t : State, exec (.cboInval h rs1) s = .next t ∧ Same t (fun e => Copies e line)) ∧
    (∀ w rs1 target d1 pa, w = 4 ∨ w = 8 → rs1 < 32 → d.amoTarget h (v.core.gx rs1) w 7 = (.ok target, d1) → d1.amoLocal h target 7 = .ok pa → pa % w = 0 →
      let line := pa / 128
      let old := (List.range w).map (fun i => d1.cohByte (pa + i))
      (∀ op rd rs2, op ≠ .cas → rd < 32 → rs2 < 32 → Sound → d1.amoWaits h target w = false → d1.oneOwner line →
        anyPoison (d1.homeAmo (d1.hartRq h axAtomic) pa w op (v.core.gx rs2) 0).1 = false →
        ∃ t : State, exec (.stewardAmo h op w rd rs1 rs2) s = .next t ∧ t.pending = s.pending ∧
          Freed t (fun e => HartRetired v (e.hart h) rd (signedWord w (leNat old)) ∧
          ∀ i, i < w → e.cohByte (pa + i) = (leBytes w (amoEval op (8 * w) (leNat old) (v.core.gx rs2) 0)).getD i 0)) ∧
      (∀ rd rs2, rd < 32 → rs2 < 32 → v.resv = some line → d1.storeWaits h target w = false →
        ∃ t : State, exec (.storeConditional h w rd rs1 rs2) s = .next t ∧ t.pending = s.pending ∧ Freed t (fun e => (rd ≠ 0 → (e.hart h).core.gx rd = 0) ∧
          (e.hart h).resv = none ∧ (e.hart h).core.pc = (v.core.pc + 4) % 2 ^ 64 ∧
          (Sound → ∀ i, i < w → e.cohByte (pa + i) = (leBytes w (v.core.gx rs2)).getD i 0))) ∧
      (∀ rd rs2, rd < 32 → rs2 < 32 → v.resv ≠ some line → ∃ t : State, exec (.storeConditional h w rd rs1 rs2) s = .next t ∧ t.pending = s.pending ∧
        Freed t (fun e => (rd ≠ 0 → (e.hart h).core.gx rd = 1) ∧ (e.hart h).resv = none ∧ OnlyHart d1 e h))) ∧
    (∀ w rs1 rd target d1 pa, w = 4 ∨ w = 8 → rs1 < 32 → rd < 32 → d.amoTarget h (v.core.gx rs1) w 5 = (.ok target, d1) → d1.amoLocal h target 5 = .ok pa →
      pa % w = 0 → d1.recallDefers h pa w = false → d1.hartHeld h (d1.hartRq h axAtomic) target w = false →
      anyPoison (d1.stewRead h 1 (d1.hartRq h axAtomic) pa w).1 = false → d1.oneOwner (pa / 128) →
      let l := d1.stewLine (h / 64) (pa / 128)
      let old := (List.range w).map (fun i => if l.valid = true then (lineBytes l.data).getD (pa % 128 + i) 0 else d1.cohByte (pa + i))
      ∃ t : State, exec (.loadReserved h w rd rs1) s = .next t ∧ t.pending = s.pending ∧ Freed t (fun e => (e.hart h).resv = some (pa / 128) ∧
        (e.hart h).deferring = true ∧ (Sound → rd ≠ 0 → (e.hart h).core.gx rd = signedWord w (leNat old)) ∧
        (e.hart h).core.pc = (v.core.pc + 4) % 2 ^ 64)) ∧
    (Call 0 → d.ownCmd = none → d.rd 0 Reg.BMC_OWN_STATUS.BUSY = 0 →
      (v.core.gx 11 = 0 → ∃ t : State, exec (.sbiPageMap h) s = .next t ∧ Returns t 0 0 Only) ∧
      (v.core.gx 11 ≠ 0 → 1 < v.core.gx 10 ∨ v.core.gx 13 % 2 = 0 → ∃ t : State, exec (.sbiPageMap h) s = .next t ∧ Returns t sbiInvalid 0 Only) ∧
      (∀ page d2 pool, v.core.gx 10 ≤ 1 → v.core.gx 11 = 1 → v.core.gx 13 < 8 → v.core.gx 13 % 2 = 1 → v.core.gx 12 % 65536 = 0 →
        v.core.gx 12 + 65536 ≤ hostBase → d.leafAt d.pkgId v.part (d.hartRoot h) (v.core.gx 12) = none →
        d.findFree (d.tierPages (v.core.gx 10)).1 (d.tierPages (v.core.gx 10)).2 1 1 = some page → page < 2 ^ 64 →
        let d1 := d.ownCommand 1 v.part 1 page
        (d1.rd 0 Reg.BMC_OWN_STATUS.RESULT ≠ 0 → ∃ t : State, exec (.sbiPageMap h) s = .next t ∧ Returns t sbiFailed 0 (fun e => OnlyHart d1 e h)) ∧
        (d1.rd 0 Reg.BMC_OWN_STATUS.RESULT = 0 →
          d1.mapLeaf v.part (d.hartRoot h) (v.core.gx 12) 0 (d1.leagueAddr (d1.pageBase page)) (v.core.gx 13 % 4 + 8 * bits (v.core.gx 13) 2 1)
            { lo := 0, hi := d.stackedPages, own := d.pkgId } = some (pool, d2) →
          ∃ t : State, exec (.sbiPageMap h) s = .next t ∧ Returns t 0 page (fun e => OnlyHart d2 e h)))) ∧
    (Call 1 → d.ownCmd = none → d.invCmd = none → d.rd 0 Reg.BMC_OWN_STATUS.BUSY = 0 → d.rd 0 Reg.MMU_INV_STATUS.BUSY = 0 →
      (v.core.gx 11 = 0 → ∃ t : State, exec (.sbiPageUnmap h) s = .next t ∧ Returns t 0 0 Only) ∧
      (∀ e, v.core.gx 10 % 65536 = 0 → v.core.gx 11 = 1 → d.leafAt d.pkgId v.part (d.hartRoot h) (v.core.gx 10) = some e → e.size = 16 →
        e.target / 2 ^ 48 = d.pkgId → d.hasHome (e.target % 2 ^ 48) = true →
        let page := d.pageIndex (e.target % 2 ^ 48)
        (d.ownerOf page ≠ v.part → ∃ t : State, exec (.sbiPageUnmap h) s = .next t ∧ Returns t sbiDenied 0 Only) ∧
        (d.ownerOf page = v.part →
          let u := ((d.unmapLeaf v.part (d.hartRoot h) (v.core.gx 10)).wr 0 Reg.MMU_INV_ADDR.ADDR (v.core.gx 10 / 65536)).invCommand 1 v.part 1
          ∀ c, u.invCmd = some c →
            (u.invWaits c = true → ∃ t : State, exec (.sbiPageUnmap h) s = .next t ∧ t.pending = s.pending ∧ Freed t (fun e => e = d)) ∧
            (u.invWaits c = false → ∃ t : State, exec (.sbiPageUnmap h) s = .next t ∧
              Returns t 0 0 (fun e => e.ownerOf page = 0xFF ∨ e.ownerOf page = 0xFD))))) ∧
    (Call 2 → ∀ e, v.core.gx 10 < 65536 → 1 ≤ v.core.gx 11 → v.core.gx 11 ≤ 4 → d.flowStruct (v.core.gx 10) = some e →
      (e.partition ≠ v.part → ∃ t : State, exec (.sbiFlowCmd h) s = .next t ∧ Returns t sbiDenied 0 Only) ∧
      (e.partition = v.part → let f := d.flowCommand (v.core.gx 11) (v.core.gx 10) (v.core.gx 12)
        ∃ t : State, exec (.sbiFlowCmd h) s = .next t ∧ Returns t 0 (f.rd d.sioDie Reg.SIO_FLOW_STATUS.RESULT) (fun e => OnlyHart f e h))) ∧
    (Call 3 → ∀ b s1 s2, v.core.gx 10 < 65536 → v.core.gx 12 = 16 ∨ v.core.gx 12 = 32 →
      ({ d := d, ext := ⟨[], false⟩ } : HartSt).read h (v.core.gx 11) 48 axRead 5 = .ok (b, s1) → s1.write h (v.core.gx 11) (List.replicate 48 0#8) = .ok s2 →
      b.length = 48 → s2.d.hart h = v →
      ∃ t : State, exec (.sbiKeyLoad h) s = .next t ∧ Returns t 0 0 (fun e =>
        e.srtpKey (v.core.gx 10) = { key := b.take (v.core.gx 12), salt := (b.drop 32).take 12 }))

/-- A doorbell within DEPTH of the last accepted command is taken, one that repeats changes nothing, one out of range is counted. A command that passes the checks is
accepted; a failing read is counted, the fifth tears the queue; at the limit of accepted commands fetching pauses. ENABLE, DISABLE, RESUME and CQ_HEAD act under
their conditions and are rejected or counted otherwise. An abort completes every accepted command, and ends when its completions are written. A completion
is written at its place with its phase while there is credit, and its vector sent, kept for the hold-off, or left pending where it is masked. A loss of the
host detaches the queues and completes a command that names host memory; an attach counts. The relay asks for a register of another package. -/
def Obligations.HostQueues : Prop :=
  ∀ (q : Nat) (s : State), s.dev.on = true →
    let d := s.dev
    let v := d.hq q
    let To := fun (c : Instr) (w : HQueue) => ∃ t : State, exec c s = .next t ∧ t.pending = s.pending ∧ t.dev.hq q = w ∧ OnlyQueue d t.dev q
    (d.hqLive q = true → v.state = 2 ∨ v.state = 3 → v.depth ≤ 4096 → ∀ value : W64,
      let seq := value.toNat % 2 ^ 32
      let crc := value.toNat / 2 ^ 48
      (v.bell.map (·.1) = some seq → exec (.doorbell q value) s = .next s) ∧
      (v.bell.map (·.1) ≠ some seq →
        ((∃ k, k < v.depth ∧ seq = (v.nextSeq + k) % 2 ^ 32) →
          To (.doorbell q value) { v with bell := some (seq, crc), state := 2, retries := min v.retries 1 }) ∧
        ((∀ k, k < v.depth → seq ≠ (v.nextSeq + k) % 2 ^ 32) → To (.doorbell q value) { v with dbErr := min (v.dbErr + 1) 65535 }))) ∧
    (d.hifFetches q = true → ∀ slots : List (List Byte),
      let Take := fun (w : HQueue) => (v.retries = 0 → To (.commandFetch q slots) w) ∧ (0 < v.retries → To (.commandReread q slots) w)
      let live := (v.accepted.filter (fun c => !c.torn)).length
      (64 ≤ live ∨ 16384 ≤ d.hifAccepted → exec (.commandFetch q slots) s = .next s ∧ exec (.commandReread q slots) s = .next s) ∧
      (live < 64 → d.hifAccepted < 16384 →
        (∀ crc, 1 ≤ slots.length → slots.length ≤ 4 → (∀ x ∈ slots, x.length = 128) →
          let head := slots.headD []
          let body := slots.flatten
          fld head 2 1 = slots.length → fld head 8 4 = v.nextSeq → crc16 (body.take 6 ++ [0, 0] ++ body.drop 8) = fld head 6 2 →
          crc16 (slots.getLastD []) = crc → v.bell = some ((v.nextSeq + slots.length - 1) % 2 ^ 32, crc) →
          Take { v with accepted := v.accepted ++ [{ slots := body, seq := v.nextSeq, tick := d.tick }],
                        nextSeq := (v.nextSeq + slots.length) % 2 ^ 32, retries := 0 }) ∧
        (∀ b, v.bell = some b → slots ≠ [] → v.check b.1 b.2 slots = none →
          (v.retries < 4 → Take { v with retries := v.retries + 1 }) ∧
          (v.retries = 4 → v.accepted = [] →
            let torn : HDone := { tag := 0xFFFF, status := 5, seq := v.nextSeq, tick := d.tick }
            Take { v with state := 3, retries := 0, tornSeq := v.nextSeq, tornCount := min (v.tornCount + 1) 65535, compl := v.compl ++ [torn] })))) ∧
    (d.hqLive q = true →
      (∀ holdoff depth sq cq, depth < 8192 →
        let w := { v with holdoff := holdoff % 256, depthReg := depth, sqBase := sq, cqBase := cq }
        let ok := v.state = 1 ∧ (∃ i, i ≤ 8 ∧ depth = 2 ^ (i + 4)) ∧ depth ≤ d.rd 0 (Reg.HIF_Q_BIND.MAX_DEPTH.at 8 q) ∧ RingBase sq ∧ RingBase cq
        (ok → ∃ t : State, exec (.queueEnable q holdoff depth sq cq) s = .next t ∧ t.pending = s.pending ∧ OnlyQueue d t.dev q ∧
          t.dev.hq q = { w with state := 2, depth := depth, nextSeq := 0, bell := none, retries := 0, accepted := [], compl := [], written := 0, cqHead := 0,
                                dbErr := 0, tornCount := 0, tornSeq := 0, holding := false, irqDue := false }) ∧
        (¬ok → To (.queueEnable q holdoff depth sq cq) { w with opRej := true })) ∧
      ((v.state = 2 ∨ v.state = 3) ∧ v.accepted = [] ∧ v.compl = [] → To (.queueDisable q) { v with state := 1 }) ∧
      (¬((v.state = 2 ∨ v.state = 3) ∧ v.accepted = [] ∧ v.compl = []) → To (.queueDisable q) { v with opRej := true }) ∧
      (∀ sq cq,
        (v.state = 5 ∧ d.hostOk = true ∧ RingBase sq ∧ RingBase cq →
          To (.queueResume q sq cq) { v with sqBase := sq, cqBase := cq, state := 2, written := 0, cqHead := 0, bell := none, retries := 0 }) ∧
        (¬(v.state = 5 ∧ d.hostOk = true ∧ RingBase sq ∧ RingBase cq) →
          To (.queueResume q sq cq) { v with sqBase := sq, cqBase := cq, opRej := true })) ∧
      (∀ value : W64,
        (∀ k, k ≤ v.written - v.cqHead → k < 2 ^ 32 → value.toNat % 2 ^ 32 = (v.cqHead + k) % 2 ^ 32 →
          To (.cqHeadWrite q value) { v with cqHead := v.cqHead + k }) ∧
        ((∀ k, k ≤ v.written - v.cqHead → value.toNat % 2 ^ 32 ≠ (v.cqHead + k) % 2 ^ 32) →
          To (.cqHeadWrite q value) { v with dbErr := min (v.dbErr + 1) 65535 })) ∧
      (v.state = 2 ∨ v.state = 3 ∨ v.state = 5 → (v.accepted.head?.map (·.handed)) ≠ some true →
        ∃ t : State, exec (.queueAbort q) s = .next t ∧ t.pending = s.pending ∧ OnlyQueue { d with remote := t.dev.remote } t.dev q ∧
          (t.dev.hq q).state = 4 ∧ (t.dev.hq q).busy = true ∧ (t.dev.hq q).accepted = [] ∧ (t.dev.hq q).bell = none ∧
          (v.state = 5 → (t.dev.hq q).compl = []) ∧
          (v.state ≠ 5 → (t.dev.hq q).compl.map (fun e => (e.status, e.seq, e.done)) = v.compl.map (fun e => (e.status, e.seq, e.done)) ++
            v.accepted.map (fun c => (if c.torn then 5 else 4, c.seq, if c.started then c.done else 0)))) ∧
      (v.state = 1 ∨ v.state = 4 → exec (.queueAbort q) s = .next s)) ∧
    (v.state = 4 → v.compl = [] → To (.queueAbortDone q) { v with state := 1, busy := false }) ∧
    (v.state ≠ 4 ∨ v.compl ≠ [] → exec (.queueAbortDone q) s = .next s) ∧
    (∀ e rest, v.compl = e :: rest →
      (d.hqLive q = true → d.hostOk = true → v.state = 2 ∨ v.state = 3 ∨ v.state = 4 → v.written - v.cqHead < v.depth →
        let w := { v with compl := rest, written := v.written + 1 }
        let bytes := leBytes 2 e.tag ++ leBytes 1 e.status ++ leBytes 1 ((1 - v.written / v.depth % 2) + (if e.poison then 2 else 0)) ++ leBytes 4 e.seq ++
          leBytes 4 v.nextSeq ++ leBytes 4 e.done ++ leBytes 8 e.result ++ leBytes 8 e.tick
        let sent := Out.completion (v.cqBase + 32 * (v.written % v.depth)) bytes (!e.fence)
        let m := d.msixEntry (8 + q)
        ∃ t : State, exec (.completionWrite q) s = .next t ∧ t.pending = s.pending ∧ t.dev.mem = d.mem ∧ t.dev.regs = d.regs ∧
          (e.noIrq = true → t.dev.hq q = w ∧ t.dev.out = d.out ++ [sent]) ∧
          (e.noIrq = false → v.holding = true → t.dev.hq q = { w with irqDue := true } ∧ t.dev.out = d.out ++ [sent]) ∧
          (e.noIrq = false → v.holding = false → d.hif.msixEnable = true → d.hostReach = true → t.dev.hq q = { w with holding := decide (0 < v.holdoff) } ∧
            (bit m 96 = false → t.dev.out = d.out ++ [sent, .msix (8 + q) (m % 2 ^ 64) (m / 2 ^ 64 % 2 ^ 32)]) ∧
            (bit m 96 = true → t.dev.out = d.out ++ [sent] ∧ KMap.get 0 t.dev.hif.pba (8 + q) = 1))) ∧
      (d.hostOk = false ∨ v.state = 5 ∨ v.depth ≤ v.written - v.cqHead → exec (.completionWrite q) s = .next s)) ∧
    (v.holding = true →
      (v.irqDue = false → To (.msixHoldoffExpiry q) { v with holding := false }) ∧
      (v.irqDue = true → d.hif.msixEnable = true → d.hostReach = true → bit (d.msixEntry (8 + q)) 96 = false →
        ∃ t : State, exec (.msixHoldoffExpiry q) s = .next t ∧ t.pending = s.pending ∧ t.dev.hq q = { v with irqDue := false } ∧ OnlyQueueOut d t.dev q ∧
          t.dev.out = d.out ++ [.msix (8 + q) (d.msixEntry (8 + q) % 2 ^ 64) (d.msixEntry (8 + q) / 2 ^ 64 % 2 ^ 32)])) ∧
    (v.holding = false → exec (.msixHoldoffExpiry q) s = .next s) ∧
    (∀ n, ∃ t : State, exec (.msixVectorUnmask n) s = .next t ∧ t.pending = s.pending ∧ bit (t.dev.msixEntry n) 96 = false ∧
      t.dev.msixEntry n % 2 ^ 96 = d.msixEntry n % 2 ^ 96 ∧ (∀ k, k ≠ n → t.dev.msixEntry k = d.msixEntry k ∧ KMap.get 0 t.dev.hif.pba k = KMap.get 0 d.hif.pba k) ∧
      t.dev.hif.queues = d.hif.queues ∧ t.dev.mem = d.mem ∧ t.dev.regs = d.regs ∧
      (KMap.get 0 d.hif.pba n ≠ 1 → t.dev.out = d.out) ∧
      (KMap.get 0 d.hif.pba n = 1 → KMap.get 0 t.dev.hif.pba n = 0 ∧ (d.hif.msixEnable = true → d.hostReach = true →
        t.dev.out = d.out ++ [.msix n (d.msixEntry n % 2 ^ 64) (d.msixEntry n / 2 ^ 64 % 2 ^ 32)]))) ∧
    (∀ cause, ∃ t : State, exec (.hostLost cause) s = .next t ∧ t.pending = s.pending ∧ t.dev.rd 0 Reg.HIF_ATTACH.STATE = 2 ∧ t.dev.hif.bme = false ∧
      { t.dev with hif := d.hif, regs := d.regs, regsSt := d.regsSt, remote := d.remote } = d ∧
      RegsKept d t.dev [(0, Reg.HIF_ATTACH.STATE), (0, Reg.HIF_STATUS.RATE), (0, Reg.HIF_STATUS.WIDTH)] ∧
      (v.state ≠ 2 → v.state ≠ 3 → v.state ≠ 4 → t.dev.hq q = v) ∧
      (v.state = 2 ∨ v.state = 3 ∨ v.state = 4 → (t.dev.hq q).state = 5 ∧
        (v.accepted = [] → t.dev.hq q = { v with state := 5, busy := false, retries := 0, holding := false, irqDue := false }) ∧
        (∀ c rest, v.accepted = c :: rest → c.torn = false → c.namesIova = true → c.handed = false →
          ∃ e ∈ (t.dev.hq q).compl, e.status = 6 ∧ e.seq = c.seq ∧ e.done = c.done))) ∧
    (d.hif.linkUp = true → d.hif.bme = true → ∃ t : State, exec .hostAttach s = .next t ∧ t.pending = s.pending ∧ t.dev.rd 0 Reg.HIF_ATTACH.STATE = 1 ∧
      t.dev.rd 0 Reg.HIF_ATTACH.GEN = (d.rd 0 Reg.HIF_ATTACH.GEN + 1) % 2 ^ 16 ∧ OnlyRegs d t.dev ∧
      RegsKept d t.dev [(0, Reg.HIF_ATTACH.STATE), (0, Reg.HIF_ATTACH.GEN)]) ∧
    (∀ rate width, ∃ t : State, exec (.perstNRelease rate width) s = .next t ∧ t.pending = s.pending ∧ t.dev.hif = { d.hif with linkUp := true } ∧
      OnlyRegs { d with hif := t.dev.hif } t.dev ∧ t.dev.rd 0 Reg.HIF_STATUS.RATE = rate % 2 ^ Reg.HIF_STATUS.RATE.width ∧
      t.dev.rd 0 Reg.HIF_STATUS.WIDTH = width % 2 ^ Reg.HIF_STATUS.WIDTH.width ∧
      RegsKept d t.dev [(0, Reg.HIF_STATUS.RATE), (0, Reg.HIF_STATUS.WIDTH)]) ∧
    (∀ enable bme, d.hif.linkUp = true →
      (d.hif.bme = false ∨ bme = true →
        exec (.pcieConfigWrite enable bme) s = .next { s with dev := { d with hif := { d.hif with msixEnable := enable, bme := bme } } }) ∧
      (d.hif.bme = true → bme = false → ∃ t : State, exec (.pcieConfigWrite enable bme) s = .next t ∧ t.pending = s.pending ∧
        t.dev.rd 0 Reg.HIF_ATTACH.STATE = 2 ∧ t.dev.hif.bme = false ∧ t.dev.hif.msixEnable = enable)) ∧
    (∀ pkg die offset, pkg < 64 → die < 8 → offset < 2 ^ 32 → d.rd 0 Reg.LINK_CFG.ROLE = 1 → d.rd 0 Reg.HIF_RELAY_CMD.GO_BUSY = 0 → pkg ≠ d.pkgId →
      (d.rd 0 (Reg.LINK_ROUTE.VALID.at 8 pkg) = 0 → ∃ t : State, exec (.relayRead pkg die offset) s = .next t ∧ t.pending = s.pending ∧ OnlyRegs d t.dev ∧
        t.dev.rd 0 Reg.HIF_RELAY_CMD.RESULT = 1 ∧ t.dev.rd 0 Reg.HIF_RELAY_CMD.GO_BUSY = 0) ∧
      (d.rd 0 (Reg.LINK_ROUTE.VALID.at 8 pkg) ≠ 0 → ∃ t : State, exec (.relayRead pkg die offset) s = .next t ∧ t.pending = s.pending ∧
        OnlyRegs (d.emit (.mgmt (.relayRequest d.pkgId die offset))) t.dev ∧ t.dev.rd 0 Reg.HIF_RELAY_CMD.GO_BUSY = 1 ∧
        t.dev.rd 0 Reg.HIF_RELAY_CMD.PKG = pkg ∧ t.dev.rd 0 Reg.HIF_RELAY_CMD.DIE = die ∧ t.dev.rd 0 Reg.HIF_RELAY_CMD.OFFSET = offset)) ∧
    (d.rd 0 Reg.HIF_RELAY_CMD.GO_BUSY = 1 → ∃ t : State, exec .relayTimeout s = .next t ∧ t.pending = s.pending ∧ OnlyRegs d t.dev ∧
      t.dev.rd 0 Reg.HIF_RELAY_CMD.GO_BUSY = 0 ∧ t.dev.rd 0 Reg.HIF_RELAY_CMD.RESULT = 2 ∧
      RegsKept d t.dev [(0, Reg.HIF_RELAY_CMD.GO_BUSY), (0, Reg.HIF_RELAY_CMD.RESULT)])

/-- A command that the engine serves leaves the queue with its completion: NOP and FENCE do nothing else, an invalid one does nothing; WRITE and FILL leave their
bytes at ADDR_A, COPY the bytes of ADDR_B there, ATOMIC its new word and the old one as RESULT; a translation fault ends it with TRANSLATION. A RUN ends by its
outcome. The window of a partition opens at the start of a host span and closes at its end. A BAR4 access within an open aperture reads or writes the
partition's memory; any other read answers ones, any other write is dropped, and the access is counted. -/
def Obligations.HostCommands : Prop :=
  ∀ (q part : Nat) (s : State), s.dev.on = true →
    let d := s.dev
    let v := d.hq q
    (part = d.hqPart q → ∀ (c : HCmd) (rest : List HCmd) (e : Nat), v.accepted = c :: rest → d.hifEligible q = true → d.hifTurn part = some q →
      d.hif.windows.contains part = true → d.windowEnd part d.elapsed = some e →
      let Ended := fun (t : State) (p : Dev) (status done result : Nat) => t.pending = s.pending ∧ t.dev.perches = p.perches ∧ t.dev.elapsed = p.elapsed ∧
        ∃ (x : HDone) (more : List HDone), (t.dev.hq q).compl = v.compl ++ x :: more ∧ x.tag = c.tag ∧ x.status = status ∧ x.seq = c.seq ∧ x.done = done ∧
          x.result = result ∧ x.tick = d.tick ∧ x.fence = (c.fence || decide (c.opcode = 1)) ∧ x.noIrq = c.noIrq
      (c.valid = false →
        (c.opcode = 0 ∨ 5 < c.opcode → ∃ t : State, exec (.nop q) s = .next t ∧ Ended t d 1 0 0 ∧ t.dev.mem = d.mem) ∧
        (c.opcode = 1 → ∃ t : State, exec (.fence q) s = .next t ∧ Ended t d 1 0 0 ∧ t.dev.mem = d.mem) ∧
        (c.opcode = 2 → ∃ t : State, exec (.write q) s = .next t ∧ Ended t d 1 0 0 ∧ t.dev.mem = d.mem) ∧
        (c.opcode = 3 → ∀ ext, ∃ t : State, exec (.copy q ext) s = .next t ∧ Ended t d 1 0 0 ∧ t.dev.mem = d.mem) ∧
        (c.opcode = 4 → ∃ t : State, exec (.fill q) s = .next t ∧ Ended t d 1 0 0 ∧ t.dev.mem = d.mem) ∧
        (c.opcode = 5 → ∃ t : State, exec (.atomic q) s = .next t ∧ Ended t d 1 0 0 ∧ t.dev.mem = d.mem)) ∧
      (c.valid = true → c.opcode = 0 → ∃ t : State, exec (.nop q) s = .next t ∧ Ended t d 0 0 0 ∧ t.dev.mem = d.mem ∧ t.dev.out = d.out) ∧
      (c.valid = true → c.opcode = 1 → ∃ t : State, exec (.fence q) s = .next t ∧ Ended t d 0 0 0 ∧ t.dev.mem = d.mem ∧ t.dev.out = d.out) ∧
      (c.valid = true → c.started = false → c.done = 0 → c.lost = 0 → c.handed = false → c.result = 0 →
        let d1 : Dev := d.updHif (fun h => { h with last := KMap.set 0 h.last part (q + 1), worked := q :: h.worked.filter (· ≠ q) })
        let x := hifXq part q
        let rq := x.rq false false
        let Room := fun (y : Dev) (a n : Nat) => ∀ i, i < n → y.recallDeferred ((a + i) / 128) = false ∧
          y.charged (y.homeDie (a + i)) part + 4 * n + 512 ≤ y.budget (y.homeDie (a + i)) part * 4096
        (c.len = 0 → (c.opcode = 2 → ∃ t : State, exec (.write q) s = .next t ∧ Ended t d 0 0 0 ∧ t.dev.mem = d.mem) ∧
          (c.opcode = 4 → ∃ t : State, exec (.fill q) s = .next t ∧ Ended t d 0 0 0 ∧ t.dev.mem = d.mem) ∧
          (c.opcode = 3 → ∀ ext, ∃ t : State, exec (.copy q ext) s = .next t ∧ Ended t d 0 0 0 ∧ t.dev.mem = d.mem)) ∧
        (∀ target pa d2, 0 < c.len → c.len ≤ 65536 → c.len ≤ (e - d.elapsed) * 100 →
          d1.translateRange x (c.dva 0) c.len axWrite = (.ok [(target, c.len)], d2) → d.localOf target = some pa → d.inFathom rq pa c.len →
          Room d2 pa c.len → d.flaws = [] → d.findings = [] →
          (c.opcode = 2 → ∃ t : State, exec (.write q) s = .next t ∧ Ended t (d.passNs (c.len / 100)) 0 c.len 0 ∧
            ∀ i, i < c.len → t.dev.cohByte (pa + i) = c.inline.getD i 0) ∧
          (c.opcode = 4 → ∃ t : State, exec (.fill q) s = .next t ∧ Ended t (d.passNs (c.len / 100)) 0 c.len 0 ∧
            ∀ i, i < c.len → t.dev.cohByte (pa + i) = 0)) ∧
        (∀ f d2, 0 < c.len → d1.translateRange x (c.dva 0) c.len axWrite = (.error f, d2) →
          (c.opcode = 2 → ∃ t : State, exec (.write q) s = .next t ∧ Ended t d 2 0 0) ∧ (c.opcode = 4 → ∃ t : State, exec (.fill q) s = .next t ∧ Ended t d 2 0 0)) ∧
        (∀ ext source target sa pa d2 d3, c.opcode = 3 → 0 < c.len → c.len ≤ 65536 → c.len ≤ (e - d.elapsed) * 100 →
          d1.translateRange x (c.dva 1) c.len axRead = (.ok [(source, c.len)], d2) →
          (d2.translateRange x (c.dva 0) c.len axWrite) = (.ok [(target, c.len)], d3) → d.localOf source = some sa → d.localOf target = some pa →
          d.inFathom rq sa c.len → d.inFathom rq pa c.len → sa + c.len ≤ pa ∨ pa + c.len ≤ sa →
          Room d3 sa c.len → Room d3 pa c.len → d.flaws = [] → d.findings = [] → (∀ i, i < c.len → d.oneOwner ((sa + i) / 128)) →
          ∃ t : State, exec (.copy q ext) s = .next t ∧ Ended t (d.passNs (c.len / 100)) 0 c.len 0 ∧
            ∀ i, i < c.len → t.dev.cohByte (pa + i) = d.cohByte (sa + i)) ∧
        (∀ target pa d2, c.opcode = 5 → (d1.translate x (c.dva 0) axAtomic) = (.ok target, d2) → d.localOf target = some pa → d.inFathom rq pa 8 →
          d2.homeFull rq (fun _ => false) target 8 = false → d.oneOwner (pa / 128) → d.flaws = [] → d.findings = [] →
          let old := leNat ((List.range 8).map (fun i => d.cohByte (pa + i)))
          let op : AmoOp := if fld c.slots 32 1 = 1 then .add else if fld c.slots 32 1 = 2 then .swap else .cas
          ∃ t : State, exec (.atomic q) s = .next t ∧ Ended t d 0 8 old ∧
            ∀ i, i < 8 → t.dev.cohByte (pa + i) = (leBytes 8 (amoEval op 64 old (fld c.slots 40 8) (fld c.slots 48 8))).getD i 0))) ∧
    (∀ (c : HCmd) (rest : List HCmd) (r : RunGroup), v.accepted = c :: rest → c.handed = true → c.torn = false → KMap.get {} d.runs (d.hqGroup q) = r →
      r.queue = some q → r.outcome ≠ 0xFF →
      let Ended := fun (t : State) (status result : Nat) => t.pending = s.pending ∧ KMap.get {} t.dev.runs (d.hqGroup q) = {} ∧
        ∃ (x : HDone) (more : List HDone), (t.dev.hq q).compl = v.compl ++ x :: more ∧ x.tag = c.tag ∧ x.status = status ∧ x.seq = c.seq ∧ x.result = result
      (r.outcome ≠ ocCompleted → ∀ ext, ∃ t : State, exec (.runComplete { queue := q, ext := ext }) s = .next t ∧ Ended t 7 0 ∧ t.dev.mem = d.mem) ∧
      (r.outcome = ocCompleted → ∀ g ext, d.groupEntry (d.hqGroup q) = some g →
        let d1 : Dev := { d with runs := KMap.set {} d.runs (d.hqGroup q) {} }
        let x := hifXq g.partition q
        let held : Prop := ∃ ps, (d1.translateRange x (g.argDva + 512) 12 axRead).1 = .ok ps ∧ ∃ t ∈ ps, d1.homeFull (x.rq false false) (fun _ => false) t.1 t.2 = true
        (held → exec (.runComplete { queue := q, ext := ext }) s = .next s) ∧
        (∀ b d2, ¬ held → d1.dvaRead x (x.rq false false) none ext (g.argDva + 512) 12 = (b, none, d2) →
          ∃ t : State, exec (.runComplete { queue := q, ext := ext }) s = .next t ∧ Ended t (if fld (plain b) 8 4 = 0 then 0 else 7) (fld (plain b) 0 8)))) ∧
    (d.hif.windows.contains part = true → ∃ t : State, exec (.hostWindowEnd part) s = .next t ∧ t.pending = s.pending ∧
      t.dev = { d.toTime ((d.windowEnd part d.elapsed).getD 0) with hif := { d.hif with windows := d.hif.windows.filter (· ≠ part) } }) ∧
    (d.hif.windows.contains part = false → exec (.hostWindowEnd part) s = .next s) ∧
    (d.dispatching = true → d.hifTurn part = none → (∃ h ∈ d.hostSpans part, d.elapsed ≤ h.startNs ∨ d.elapsed < d.slotEnd h) →
      ∃ t : State, exec (.hostWindowStart part) s = .next t ∧ t.pending = s.pending ∧ t.dev.hif.windows.contains part = true ∧
        (∃ h ∈ d.hostSpans part, t.dev.elapsed = max d.elapsed h.startNs) ∧
        (∀ h ∈ d.hostSpans part, d.elapsed ≤ h.startNs ∨ d.elapsed < d.slotEnd h → t.dev.elapsed ≤ max d.elapsed h.startNs) ∧
        t.dev = { d.toTime t.dev.elapsed with hif := { d.hif with windows := t.dev.hif.windows } }) ∧
    (d.hif.linkUp = true → ∀ offset n,
      let ones := Out.tlpData (List.replicate n 0xFF) false
      (d.sealed = false → exec (.bar4Read offset n) s = .next { s with dev := d.emit ones } ∧
        ∀ data poison, exec (.bar4Write offset data poison) s = .next s) ∧
      (d.sealed = true → offset / 2 ^ 32 = part → part < 16 →
        (d.rd 0 (Reg.HIF_BAR4_WIN.EN.at 8 part) = 0 →
          exec (.bar4Read offset n) s = .next { s with dev := (d.inc 0 Reg.HIF_ERR.BAR4_FAULT 1).emit ones } ∧
          ∀ data poison, exec (.bar4Write offset data poison) s = .next { s with dev := d.inc 0 Reg.HIF_ERR.BAR4_FAULT 1 }) ∧
        (d.rd 0 (Reg.HIF_BAR4_WIN.EN.at 8 part) = 1 →
          let dva := d.rd 0 (Reg.HIF_BAR4_WIN.BASE.at 8 part) * 2 ^ 32 + offset % 2 ^ 32
          let x := hifXq part 0xFFFF
          (∀ f d2, d.translateRange x dva n axRead = (.error f, d2) →
            exec (.bar4Read offset n) s = .next { s with dev := (d2.inc 0 Reg.HIF_ERR.BAR4_FAULT 1).emit ones }) ∧
          (∀ data poison f d2, d.translateRange x dva data.length axWrite = (.error f, d2) →
            exec (.bar4Write offset data poison) s = .next { s with dev := d2.inc 0 Reg.HIF_ERR.BAR4_FAULT 1 }) ∧
          (∀ target pa d2, 0 < n → n ≤ 4096 → d.translateRange x dva n axRead = (.ok [(target, n)], d2) → d.localOf target = some pa →
            d.inFathom (x.rq false true) pa n → (∀ i, i < n → d.oneOwner ((pa + i) / 128)) → d.flaws = [] → d.findings = [] →
            ∃ (t : State) (poison : Bool), exec (.bar4Read offset n) s = .next t ∧ t.pending = s.pending ∧
              t.dev.out = d.out ++ [.tlpData ((List.range n).map (fun i => d.cohByte (pa + i))) poison]) ∧
          (∀ data poison target pa d2, 0 < data.length → data.length ≤ 4096 → d.translateRange x dva data.length axWrite = (.ok [(target, data.length)], d2) →
            d.localOf target = some pa → d.inFathom (x.rq false true) pa data.length → d.flaws = [] → d.findings = [] →
            d.deferredAt (fun _ => false) target data.length = false →
            ∃ t : State, exec (.bar4Write offset data poison) s = .next t ∧ t.pending = s.pending ∧ t.dev.out = d.out ∧
              ∀ i, i < data.length → t.dev.cohByte (pa + i) = data.getD i 0))))

/-- R10 whole: after seal, a write of the control space of a die that the requester reaches, whose access touches a bit of an RS field, leaves that field unchanged, sets the sticky flag
GLB_SEAL_STATUS.WRITE_REJ of the die, and raises no interrupt: no device event is set and nothing but registers changes. -/
def Obligations.WriteRejected : Prop :=
  ∀ (r : Requester) (die offset size : Nat) (value : W64) (fs : List Fld) (mirror : Bool) (f : Fld) (s : State), s.dev.on = true → s.dev.sealed = true →
    s.dev.dies.contains die = true → s.dev.ctlRefused r die = none → size = 8 ∨ size = 4 → offset % size = 0 → s.dev.regAt die (offset / 8 * 8) = some (fs, mirror) → f ∈ fs → f.acc = .rs →
    f.lo < 8 * (offset % 8) + 8 * size → 8 * (offset % 8) < f.lo + f.width →
    ∃ t : State, exec (.registerWrite r (.control die) offset size value) s = .next t ∧ t.pending = s.pending ∧
      t.dev.rd (if mirror then 0 else die) f = s.dev.rd (if mirror then 0 else die) f ∧ t.dev.rd die Reg.GLB_SEAL_STATUS.WRITE_REJ = 1 ∧
      t.dev.rd 0 Reg.HIF_EVENT.RAISED = s.dev.rd 0 Reg.HIF_EVENT.RAISED ∧ OnlyRegs s.dev t.dev

/-- An access that is malformed or names no register has no effect but the error it records on the die, and one that the requester's own die refuses has none but the
error recorded there. A write of a register without a command field leaves every bit of its fields as their access codes say; a register that another die shows of
S0 is not written there. In the page of a queue OP_REJ is cleared by writing one. Through a die view W1C fields alone act, and a write to any other register counts
in BAR0_WREJ. CNT_CLR clears the counters that it names and changes no other register. -/
def Obligations.RegisterWrites : Prop :=
  ∀ (s : State), s.dev.on = true →
    let d := s.dev
    (∀ (r : Requester) (die offset size : Nat) (value : W64),
      (∀ k, d.ctlRefused r die = some k → ∃ t : State, exec (.registerWrite r (.control die) offset size value) s = .next t ∧ t.pending = s.pending ∧
        bit (t.dev.rd (d.ctlRq r).die Reg.RAS_ERR.CLASS) 7 = true ∧ t.dev = { d with regs := t.dev.regs, regsSt := t.dev.regsSt, errNew := t.dev.errNew } ∧
        ∀ die' f, f.lo < 64 → f.off < 2 ^ 33 → f.off < 0x30000 ∨ 0x30018 ≤ f.off → t.dev.rd die' f = d.rd die' f) ∧
      (d.ctlRefused r die = none → ¬((size = 8 ∨ size = 4) ∧ offset % size = 0) ∨ d.reg64 die (offset / 8 * 8) = none →
        ∃ t : State, exec (.registerWrite r (.control die) offset size value) s = .next t ∧ t.pending = s.pending ∧ bit (t.dev.rd die Reg.RAS_ERR.CLASS) 7 = true ∧
          t.dev = { d with regs := t.dev.regs, regsSt := t.dev.regsSt, errNew := t.dev.errNew } ∧
          ∀ die' f, f.lo < 64 → f.off < 2 ^ 33 → f.off < 0x30000 ∨ 0x30018 ≤ f.off → t.dev.rd die' f = d.rd die' f) ∧
      (∀ fs mirror, size = 8 ∨ size = 4 → offset % size = 0 → d.ctlRefused r die = none → d.regAt die (offset / 8 * 8) = some (fs, mirror) →
        (mirror = true → die ≠ 0 → (∀ f ∈ fs, f.acc ≠ .rs) → exec (.registerWrite r (.control die) offset size value) s = .next s) ∧
        (mirror = false ∨ die = 0 → d.sealed = true ∨ chainOfCtrl (offset / 8 * 8) = none → (∀ f ∈ fs, f.acc ≠ .wo ∧ f.acc ≠ .w1s) → offset / 8 * 8 ≠ Reg.RAS_DUMP_READ.READY.off → offset / 8 * 8 ≠ Reg.RAS_LOG_PTR.CONS.off →
        ∃ t : State, exec (.registerWrite r (.control die) offset size value) s = .next t ∧ t.pending = s.pending ∧ OnlyRegs d t.dev ∧
          ∀ f ∈ fs, ∀ i, i < f.width →
            let addressed := decide (8 * (offset % 8) ≤ f.lo + i ∧ f.lo + i < 8 * (offset % 8) + 8 * size)
            bit (t.dev.rd die f) i = codeBit f.acc d.sealed addressed (bit value.toNat (f.lo + i - 8 * (offset % 8))) (bit (d.rd die f) i)))) ∧
    (∀ (r : Requester) (q : Nat) (value : W64), d.hqLive q = true → d.hif.linkUp = true →
      ∃ t : State, exec (.registerWrite r (.queue q) 0x28 8 value) s = .next t ∧ t.pending = s.pending ∧ OnlyQueue d t.dev q ∧
        t.dev.hq q = if bit value.toNat 60 then { d.hq q with opRej := false } else d.hq q) ∧
    (∀ (r : Requester) (q offset size : Nat) (value : W64), d.hqLive q = false ∨ d.hif.linkUp = false →
      exec (.registerWrite r (.queue q) offset size value) s = .next s) ∧
    (∀ (die offset size : Nat) (value : W64), d.hif.linkUp = true → die < 8 → offset < 0x4000000 →
      let view := 0x10000000 + die * 0x4000000 + offset
      (d.dies.contains die = false ∨ d.dieFailed die = true → exec (.bar0DieViewWrite view size value) s = .next s) ∧
      (∀ fs mirror, d.dies.contains die = true → d.dieFailed die = false → size = 8 ∨ size = 4 → offset % size = 0 →
        d.regAt die (offset / 8 * 8) = some (fs, mirror) → offset / 8 * 8 ≠ Reg.TICK_CTRL.CNT_CLR.off → offset / 8 * 8 ≠ Reg.RAS_DUMP_READ.READY.off →
        ((∀ f ∈ fs, f.acc ≠ .w1c) → exec (.bar0DieViewWrite view size value) s = .next { s with dev := d.inc 0 Reg.HIF_ERR.BAR0_WREJ 1 }) ∧
        ((∃ f ∈ fs, f.acc = .w1c) →
          (mirror = true → die ≠ 0 → exec (.bar0DieViewWrite view size value) s = .next s) ∧
          (mirror = false ∨ die = 0 → ∃ t : State, exec (.bar0DieViewWrite view size value) s = .next t ∧ t.pending = s.pending ∧ OnlyRegs d t.dev ∧
            (∀ f ∈ fs, f.acc ≠ .w1c → t.dev.rd die f = d.rd die f) ∧
            ∀ f ∈ fs, f.acc = .w1c → ∀ i, i < f.width →
              let addressed := decide (8 * (offset % 8) ≤ f.lo + i ∧ f.lo + i < 8 * (offset % 8) + 8 * size)
              bit (t.dev.rd die f) i = (bit (d.rd die f) i && !(addressed && bit value.toNat (f.lo + i - 8 * (offset % 8)))))))) ∧
    (∃ t : State, exec .cntClr s = .next t ∧ t.pending = s.pending ∧ OnlyRegs d t.dev ∧
      (∀ die, d.dies.contains die = true → ∀ f ∈ [Reg.TICK_SHED_CNT.SUSPENDS, Reg.TICK_SHED_CNT.SHEDS, Reg.TICK_OVERRUN_CNT.LATE, Reg.TICK_OVERRUN_CNT.DISPLACED,
        Reg.TICK_OVERRUN_CNT.SRC_MISS, Reg.TICK_OVERRUN_CNT.STATUS_LOST, Reg.COLL_CNT.DONE, Reg.COLL_CNT.FAILED, Reg.COLL_CNT.NONFINITE], t.dev.rd die f = 0) ∧
      (∀ die, d.stewardDies.contains die = true → ∀ f ∈ [Reg.BMC_MOVE_CNT.DONE, Reg.BMC_MOVE_CNT.LATE, Reg.BMC_MOVE_CNT.ABORTED, Reg.BMC_MOVE_CNT.FAILED,
        Reg.LINK_DROP.STALE_EPOCH, Reg.LINK_DROP.SLICE, Reg.LINK_DROP.SOURCE, Reg.LINK_DROP.FENCED, Reg.LINK_LOSS.LOST_WR, Reg.LINK_LOSS.POISON_RD],
        t.dev.rd die f = 0) ∧
      (∀ f ∈ [Reg.SIO_DROP.FAULT, Reg.SIO_DROP.EXC, Reg.SIO_DROP.UNMATCHED, Reg.SIO_DROP.IP, Reg.SIO_DROP.MAC, Reg.SIO_DROP2.FORMAT],
        t.dev.rd d.sioDie f = 0) ∧
      ∀ die f, f.lo < 64 → f.off < 2 ^ 33 → f.off ∉ [Reg.TICK_SHED_CNT.SHEDS.off, Reg.TICK_OVERRUN_CNT.LATE.off, Reg.COLL_CNT.DONE.off, Reg.BMC_MOVE_CNT.DONE.off,
        Reg.LINK_DROP.SLICE.off, Reg.LINK_LOSS.LOST_WR.off, Reg.SIO_DROP.MAC.off, Reg.SIO_DROP2.FORMAT.off] →
        (∀ k, k < 4 → f.off ≠ (portFld Reg.LINK_PORT_ERR.FEC_CORR k).off) → (∀ k, k < 2 → f.off ≠ (Reg.SIO_PORT_STATUS.FEC_CORR.at 8 k).off) →
        (∀ k, k < 8 → f.off ≠ (Reg.SIO_NVME_STATUS.ERRORS.at 8 k).off) → t.dev.rd die f = d.rd die f)

/-- A dump that software takes while every die answers ends with its record valid and its first chunk in the window, and no perch changes; while one runs a second has no
effect. A unit that does not answer is counted, and the dump goes on to the next. A released chunk gives way to the next, or to chunk 0 after the last.
CONS moves forward up to PROD only. A flash command is refused where its offset is misaligned or protected, and else runs; when it ends a program has cleared
bits of its 256 bytes, an erase left 0xFF in its 64 KiB, every other byte stands, and a failed verify is reported. -/
def Obligations.DumpAndFlash : Prop :=
  ∀ (s : State), s.dev.on = true →
    let d := s.dev
    let Ended := fun (t : State) => t.pending = s.pending ∧ t.dev.perches = d.perches ∧ t.dev.boot.dumping = none ∧
      t.dev.rd 0 Reg.RAS_DUMP_STATUS.BUSY = 0 ∧ t.dev.rd 0 Reg.RAS_DUMP_STATUS.VALID = 1 ∧ t.dev.rd 0 Reg.RAS_DUMP_READ.READY = 1 ∧
      t.dev.rd 0 Reg.RAS_DUMP_READ.CHUNK = 0 ∧ bit (t.dev.rd 0 Reg.HIF_EVENT.RAISED) 7 = true
    (d.rd 0 Reg.RAS_DUMP_STATUS.BUSY = 1 ∨ d.sealed = false → exec .dumpTake s = .next s) ∧
    ((d.rd 0 Reg.RAS_DUMP_STATUS.BUSY = 0 → d.sealed = true → d.boot.stopped = [] → ∃ t : State, exec .dumpTake s = .next t ∧ Ended t ∧
        t.dev.rd 0 Reg.RAS_DUMP_STATUS.TRIGGER = 2 ∧ t.dev.rd 0 Reg.RAS_DUMP_STATUS.NO_RESPONSE = 0) ∧
      (d.boot.dumping = none → exec .dumpUnitTimeout s = .next s) ∧
      (∀ n at_ u us, d.boot.dumping = some (n, at_) → d.dumpUnits.drop n = u :: us → d.silent u = true →
        ((∀ x ∈ us, d.silent x = false) → ∃ t : State, exec .dumpUnitTimeout s = .next t ∧ Ended t ∧
          t.dev.rd 0 Reg.RAS_DUMP_STATUS.NO_RESPONSE = min (d.rd 0 Reg.RAS_DUMP_STATUS.NO_RESPONSE + 1) 4095) ∧
        (∀ x xs, us = x :: xs → d.placed x.die = true → d.silent x = true → ∃ t : State, exec .dumpUnitTimeout s = .next t ∧ t.pending = s.pending ∧
          t.dev.boot.dumping = some (n + 1, at_ + 16) ∧ t.dev.rd 0 Reg.RAS_DUMP_STATUS.NO_RESPONSE = min (d.rd 0 Reg.RAS_DUMP_STATUS.NO_RESPONSE + 1) 4095 ∧
          t.dev.rd 0 Reg.RAS_DUMP_STATUS.BUSY = d.rd 0 Reg.RAS_DUMP_STATUS.BUSY))) ∧
    (d.rd 0 Reg.RAS_DUMP_READ.READY = 1 → ∃ t : State, exec .dumpChunkRelease s = .next t ∧ t.pending = s.pending ∧ OnlyRegs d t.dev ∧
      t.dev.rd 0 Reg.RAS_DUMP_READ.CHUNK = (if d.rd 0 Reg.RAS_DUMP_READ.CHUNK + 1 < d.rd 0 Reg.RAS_DUMP_READ.CHUNKS then d.rd 0 Reg.RAS_DUMP_READ.CHUNK + 1 else 0) ∧
      RegsKept d t.dev [(0, Reg.RAS_DUMP_READ.CHUNK)]) ∧
    (d.rd 0 Reg.RAS_DUMP_READ.READY = 0 → exec .dumpChunkRelease s = .next s) ∧
    (∀ n,
      let cons := d.rd 0 Reg.RAS_LOG_PTR.CONS
      let prod := d.rd 0 Reg.RAS_LOG_PTR.PROD
      ((∃ k, k ≤ (prod + 8192 - cons) % 8192 ∧ n % 8192 = (cons + k) % 8192) → ∃ t : State, exec (.logConsWrite n) s = .next t ∧ t.pending = s.pending ∧
        t.dev.rd 0 Reg.RAS_LOG_PTR.CONS = n % 8192 ∧ OnlyRegs d t.dev ∧ RegsKept d t.dev [(0, Reg.RAS_LOG_PTR.CONS)]) ∧
      ((∀ k, k ≤ (prod + 8192 - cons) % 8192 → n % 8192 ≠ (cons + k) % 8192) → exec (.logConsWrite n) s = .next s)) ∧
    (∀ erase : Bool,
      let off := d.rd 0 Reg.BOOT_FLASH_ADDR.OFFSET
      let unit := if erase then 65536 else 256
      let Run := fun (t : State) => t.pending = s.pending ∧ (erase = true → exec .flashEraseSector s = .next t) ∧ (erase = false → exec .flashProgramPage s = .next t)
      (d.rd 0 Reg.BOOT_FLASH_CMD.BUSY = 1 → Run s) ∧
      (d.rd 0 Reg.BOOT_FLASH_CMD.BUSY = 0 →
        (off % unit ≠ 0 → Run { s with dev := d.wr 0 Reg.BOOT_FLASH_CMD.RESULT 2 }) ∧
        (off % unit = 0 → d.flashProtected off = true → Run { s with dev := d.wr 0 Reg.BOOT_FLASH_CMD.RESULT 3 }) ∧
        (off % unit = 0 → d.flashProtected off = false → ∃ (t : State) (data : List Byte), Run t ∧ t.dev.rd 0 Reg.BOOT_FLASH_CMD.BUSY = 1 ∧
          t.dev.boot.flashOp = some (erase, off, data) ∧ t.dev.nv = d.nv ∧ RegsKept d t.dev [(0, Reg.BOOT_FLASH_CMD.BUSY)] ∧ data.length = 256 ∧
          (∀ w b, w < 32 → b < 8 → (data.getD (8 * w + b) 0).toNat = bits (d.rd 0 (Reg.BOOT_FLASH_DATA.DATA.at 8 w)) (8 * b) 8))) ∧
      (∀ at_ data verify, d.boot.flashOp = some (erase, at_, data) → data.length = 256 →
        ∃ t : State, exec (.flashCmdComplete verify) s = .next t ∧ t.pending = s.pending ∧ t.dev.boot.flashOp = none ∧
          t.dev.rd 0 Reg.BOOT_FLASH_CMD.BUSY = 0 ∧ t.dev.rd 0 Reg.BOOT_FLASH_CMD.RESULT = (if verify then 0 else 1) ∧ t.dev.mem = d.mem ∧
          (∀ a, a < at_ ∨ at_ + unit ≤ a → KMap.get 0xFF#8 t.dev.nv.flash a = KMap.get 0xFF#8 d.nv.flash a) ∧
          (verify = true → ∀ i, i < unit → KMap.get 0xFF#8 t.dev.nv.flash (at_ + i) =
            if erase then 0xFF#8 else KMap.get 0xFF#8 d.nv.flash (at_ + i) &&& data.getD i 0))) ∧
    (d.sealed = false → ∀ off, d.flashProtected off = false) ∧
    (d.sealed = true → ∀ off, (off < 0x100000 → d.flashProtected off = true) ∧ (0x900000 ≤ off → off < 0x1000000 → d.flashProtected off = false) ∧
      (0x100000 ≤ off → off < 0x500000 → (d.flashProtected off = true ↔ d.boot.fwUsed = 1)) ∧
      (0x1000000 ≤ off → off < 0x4800000 → (d.flashProtected off = true ↔ d.boot.copyUsed = 1)))

/-- For every operation of the Xperch instructions whose operands fit their fields, with every operand at every value that the encoding admits, the decoder of the
sequencer reads its word as that operation. -/
def Obligations.XperchRoundTrip : Prop :=
  ∀ o : XOp, o.wf = true → xDecode o.encode = some o
end

