-- ==== Sys2Proof/Laws/KMap.lean ====
section
/-! SUPPORT. What reading and writing a sparse store do: read after write, frame, canonical form kept. -/

namespace Sys2Proof.Machine

variable {α : Type}

@[simp] theorem KMap.get_nil (d : α) (k : Nat) : KMap.get d [] k = d := rfl

theorem KMap.get_erase (d : α) : ∀ (m : KMap α) (k j : Nat),
    KMap.get d (KMap.erase m k) j = if j = k then d else KMap.get d m j
  | [], k, j => by simp [KMap.erase]
  | (k', v') :: t, k, j => by
    have ih := KMap.get_erase d t k j
    unfold KMap.erase
    by_cases h : k = k'
    · subst h
      rw [if_pos rfl, ih]
      by_cases hj : j = k <;> simp [KMap.get, hj]
    · rw [if_neg h]
      by_cases hj : j = k'
      · have : j ≠ k := fun e => h (e ▸ hj)
        simp [KMap.get, hj, Ne.symm h]
      · simp only [KMap.get, if_neg hj]; exact ih

theorem KMap.not_mem_erase : ∀ (m : KMap α) (k : Nat) (e : Nat × α), e ∈ KMap.erase m k → e.1 ≠ k
  | [], _, _, h => by simp [KMap.erase] at h
  | (k', v') :: t, k, e, h => by
    unfold KMap.erase at h
    by_cases hk : k = k'
    · rw [if_pos hk] at h; exact KMap.not_mem_erase t k e h
    · rw [if_neg hk] at h
      rcases List.mem_cons.1 h with h | h
      · subst h; exact fun h => hk h.symm
      · exact KMap.not_mem_erase t k e h

theorem KMap.get_insert (d : α) : ∀ (m : KMap α) (k j : Nat) (v : α), (∀ e ∈ m, e.1 ≠ k) →
    KMap.get d (KMap.insert m k v) j = if j = k then v else KMap.get d m j
  | [], k, j, v, _ => by by_cases hj : j = k <;> simp [KMap.insert, KMap.get, hj]
  | (k', v') :: t, k, j, v, h => by
    have h0 : k' ≠ k := h (k', v') (List.mem_cons_self ..)
    have ih := KMap.get_insert d t k j v (fun e he => h e (List.mem_cons_of_mem _ he))
    unfold KMap.insert
    by_cases h1 : k < k'
    · simp [h1, KMap.get]
    · simp only [if_neg h1, KMap.get, ih]
      by_cases hj : j = k'
      · have : j ≠ k := fun e => h0 (hj ▸ e)
        simp [hj, h0]
      · simp [hj]

/-- Reading after a write. -/
theorem KMap.get_set [DecidableEq α] (d : α) (m : KMap α) (k j : Nat) (v : α) :
    KMap.get d (KMap.set d m k v) j = if j = k then v else KMap.get d m j := by
  unfold KMap.set
  by_cases hv : v = d
  · rw [if_pos hv, KMap.get_erase, hv]
  · rw [if_neg hv, KMap.get_insert d _ k j v (KMap.not_mem_erase m k), KMap.get_erase]
    by_cases hj : j = k <;> simp [hj]

/-- The written key reads the written value. -/
@[simp] theorem KMap.get_set_same [DecidableEq α] (d : α) (m : KMap α) (k : Nat) (v : α) :
    KMap.get d (KMap.set d m k v) k = v := by simp [KMap.get_set]

/-- Every other key reads as before. -/
theorem KMap.get_set_ne [DecidableEq α] (d : α) (m : KMap α) {k j : Nat} (v : α) (hj : j ≠ k) :
    KMap.get d (KMap.set d m k v) j = KMap.get d m j := by simp [KMap.get_set, hj]

/-- Reading after a change. -/
theorem KMap.get_upd [DecidableEq α] (d : α) (m : KMap α) (k j : Nat) (f : α → α) :
    KMap.get d (KMap.upd d m k f) j = if j = k then f (KMap.get d m k) else KMap.get d m j := KMap.get_set d m k j _

@[simp] theorem KMap.get_upd_same [DecidableEq α] (d : α) (m : KMap α) (k : Nat) (f : α → α) :
    KMap.get d (KMap.upd d m k f) k = f (KMap.get d m k) := KMap.get_set_same d m k _

/-- Consecutive writes: the written keys read the list, every other key reads as before. -/
theorem KMap.get_setList [DecidableEq α] (d : α) : ∀ (l : List α) (m : KMap α) (k j : Nat),
    KMap.get d (KMap.setList d m k l) j = if k ≤ j ∧ j < k + l.length then l.getD (j - k) d else KMap.get d m j
  | [], m, k, j => by
    have : ¬ (k ≤ j ∧ j < k + ([] : List α).length) := by simp
    rw [if_neg this]; rfl
  | v :: t, m, k, j => by
    have ih := KMap.get_setList d t (KMap.set d m k v) (k + 1) j
    unfold KMap.setList
    rw [ih]
    simp only [List.length_cons]
    by_cases h1 : k + 1 ≤ j ∧ j < k + 1 + t.length
    · have h2 : k ≤ j ∧ j < k + (t.length + 1) := by omega
      rw [if_pos h1, if_pos h2]
      have h3 : j - k = (j - (k + 1)) + 1 := by omega
      rw [h3]; rfl
    · rw [if_neg h1, KMap.get_set]
      by_cases h2 : j = k
      · subst h2
        simp
      · have h3 : ¬ (k ≤ j ∧ j < k + (t.length + 1)) := by omega
        rw [if_neg h3, if_neg h2]

theorem KMap.wfFrom_mono [DecidableEq α] (d : α) : ∀ (m : KMap α) (b b' : Nat), b' ≤ b →
    KMap.wfFrom d b m = true → KMap.wfFrom d b' m = true
  | [], _, _, _, _ => rfl
  | (k', v) :: t, b, b', hb, h => by
    simp only [KMap.wfFrom, Bool.and_eq_true, decide_eq_true_eq] at h ⊢
    exact ⟨⟨by omega, h.1.2⟩, h.2⟩

theorem KMap.wfFrom_erase [DecidableEq α] (d : α) : ∀ (m : KMap α) (b k : Nat),
    KMap.wfFrom d b m = true → KMap.wfFrom d b (KMap.erase m k) = true
  | [], _, _, _ => rfl
  | (k', v) :: t, b, k, h => by
    simp only [KMap.wfFrom, Bool.and_eq_true, decide_eq_true_eq] at h
    have ih := KMap.wfFrom_erase d t (k' + 1) k h.2
    unfold KMap.erase
    by_cases hk : k = k'
    · rw [if_pos hk]; exact KMap.wfFrom_mono d _ (k' + 1) b (by omega) ih
    · rw [if_neg hk]
      simp only [KMap.wfFrom, Bool.and_eq_true, decide_eq_true_eq]
      exact ⟨h.1, ih⟩

theorem KMap.wfFrom_insert [DecidableEq α] (d : α) : ∀ (m : KMap α) (b k : Nat) (v : α), v ≠ d → b ≤ k →
    (∀ e ∈ m, e.1 ≠ k) → KMap.wfFrom d b m = true → KMap.wfFrom d b (KMap.insert m k v) = true
  | [], b, k, v, hv, hb, _, _ => by simp [KMap.insert, KMap.wfFrom, hv, hb]
  | (k', v') :: t, b, k, v, hv, hb, hn, h => by
    have h0 : k' ≠ k := hn (k', v') (List.mem_cons_self ..)
    simp only [KMap.wfFrom, Bool.and_eq_true, decide_eq_true_eq] at h
    unfold KMap.insert
    by_cases h1 : k < k'
    · have h3 : k + 1 ≤ k' := h1
      simp [h1, KMap.wfFrom, hb, hv, h3, h.1.2, h.2]
    · have h3 : k' + 1 ≤ k := by omega
      rw [if_neg h1]
      simp only [KMap.wfFrom, Bool.and_eq_true, decide_eq_true_eq]
      exact ⟨h.1, KMap.wfFrom_insert d t (k' + 1) k v hv h3 (fun e he => hn e (List.mem_cons_of_mem _ he)) h.2⟩

/-- A write keeps the canonical form. -/
theorem KMap.wf_set [DecidableEq α] (d : α) (m : KMap α) (k : Nat) (v : α) (h : KMap.wf d m = true) :
    KMap.wf d (KMap.set d m k v) = true := by
  unfold KMap.set
  by_cases hv : v = d
  · rw [if_pos hv]; exact KMap.wfFrom_erase d m 0 k h
  · rw [if_neg hv]
    exact KMap.wfFrom_insert d _ 0 k v hv (Nat.zero_le k) (KMap.not_mem_erase m k) (KMap.wfFrom_erase d m 0 k h)

theorem KMap.wf_upd [DecidableEq α] (d : α) (m : KMap α) (k : Nat) (f : α → α) (h : KMap.wf d m = true) :
    KMap.wf d (KMap.upd d m k f) = true := KMap.wf_set d m k _ h

theorem KMap.wf_setList [DecidableEq α] (d : α) : ∀ (l : List α) (m : KMap α) (k : Nat),
    KMap.wf d m = true → KMap.wf d (KMap.setList d m k l) = true
  | [], _, _, h => h
  | v :: t, m, k, h => KMap.wf_setList d t _ (k + 1) (KMap.wf_set d m k v h)

theorem KMap.wfFrom_filter [DecidableEq α] (d : α) (p : Nat × α → Bool) : ∀ (m : KMap α) (b : Nat),
    KMap.wfFrom d b m = true → KMap.wfFrom d b (m.filter p) = true
  | [], _, _ => rfl
  | (k', v) :: t, b, h => by
    simp only [KMap.wfFrom, Bool.and_eq_true, decide_eq_true_eq] at h
    have ih := KMap.wfFrom_filter d p t (k' + 1) h.2
    by_cases hp : p (k', v) = true
    · simp only [List.filter, hp, KMap.wfFrom, Bool.and_eq_true, decide_eq_true_eq]; exact ⟨h.1, ih⟩
    · simp only [List.filter, hp]; exact KMap.wfFrom_mono d _ (k' + 1) b (by omega) ih

theorem KMap.wf_dropIf [DecidableEq α] (d : α) (p : Nat → Bool) (m : KMap α) (h : KMap.wf d m = true) :
    KMap.wf d (KMap.dropIf p m) = true := KMap.wfFrom_filter d _ m 0 h

/-- What `mapV` does at every key, where `f` keeps the default. -/
theorem KMap.get_mapV [DecidableEq α] (d : α) (f : Nat → α → α) (hf : ∀ k, f k d = d) : ∀ (m : KMap α) (k : Nat),
    KMap.get d (KMap.mapV d f m) k = f k (KMap.get d m k)
  | [], k => (hf k).symm
  | (k', v) :: t, k => by
    have ih := KMap.get_mapV d f hf t k
    by_cases h : k = k'
    · subst h
      by_cases hv : f k v = d <;> simp [KMap.mapV, KMap.get, KMap.get_erase, hv]
    · by_cases hv : f k' v = d <;> simp [KMap.mapV, KMap.get, KMap.get_erase, hv, h, ih]

theorem KMap.wfFrom_mapV [DecidableEq α] (d : α) (f : Nat → α → α) : ∀ (m : KMap α) (b : Nat),
    KMap.wfFrom d b m = true → KMap.wfFrom d b (KMap.mapV d f m) = true
  | [], _, _ => rfl
  | (k, v) :: t, b, h => by
    simp only [KMap.wfFrom, Bool.and_eq_true, decide_eq_true_eq] at h
    have ih := KMap.wfFrom_erase d (KMap.mapV d f t) (k + 1) k (KMap.wfFrom_mapV d f t (k + 1) h.2)
    by_cases hv : f k v = d
    · simpa [KMap.mapV, hv] using KMap.wfFrom_mono d _ _ _ (by omega) ih
    · simp [KMap.mapV, KMap.wfFrom, hv, h.1.1, ih]

/-- `mapV` keeps the canonical form. -/
theorem KMap.wf_mapV [DecidableEq α] (d : α) (f : Nat → α → α) (m : KMap α) (h : KMap.wf d m = true) : KMap.wf d (KMap.mapV d f m) = true :=
  KMap.wfFrom_mapV d f m 0 h

@[simp] theorem KMap.wf_nil [DecidableEq α] (d : α) : KMap.wf d ([] : KMap α) = true := rfl

end Sys2Proof.Machine
end

