-- ==== Sys2Proof/Laws/Regs.lean ====
section
/-! SUPPORT. Reading a register field after a write to one. -/

namespace Sys2Proof.Machine

/-- A written field reads the low bits of the value written. -/
@[simp] theorem Dev.rd_wr_same (d : Dev) (die : Nat) (f : Fld) (v : Nat) : (d.wr die f v).rd die f = v % 2 ^ f.width := by
  unfold Dev.wr Dev.rd
  by_cases h : f.st = true
  · simp only [h, if_true, KMap.get_set_same]
    rw [Nat.xor_mod_two_pow, Nat.xor_mod_two_pow, Nat.mod_mod, Nat.mod_mod, Nat.xor_assoc, Nat.xor_self, Nat.xor_zero]
  · simp only [h, KMap.get_set_same]
    rw [Nat.xor_mod_two_pow]
    simp [Nat.xor_mod_two_pow, Nat.xor_assoc]

/-- A field with storage of its own keeps its value over a write to another field. -/
theorem Dev.rd_wr_ne (d : Dev) {die die' : Nat} {f f' : Fld} (v : Nat) (h : ¬ SameField die f die' f') :
    (d.wr die f v).rd die' f' = d.rd die' f' := by
  unfold SameField at h
  unfold Dev.wr Dev.rd
  by_cases h1 : f.st = true <;> by_cases h2 : f'.st = true <;> simp only [h1, h2, if_true] <;> try simp
  · have : regKey die' f' ≠ regKey die f := fun e => h ⟨e.symm, by simp [h1, h2]⟩
    rw [KMap.get_set_ne _ _ _ this]
  · have : regKey die' f' ≠ regKey die f := fun e => h ⟨e.symm, by simp [h1, h2]⟩
    rw [KMap.get_set_ne _ _ _ this]

/-- Fields of different registers, of different bits, or one of them sticky, share nothing. -/
theorem not_sameField {die die' : Nat} {f f' : Fld} (h : f.off ≠ f'.off ∨ f.lo ≠ f'.lo) (h1 : f.lo < 64) (h2 : f'.lo < 64)
    (h3 : f.off < 2 ^ 33) (h4 : f'.off < 2 ^ 33) : ¬ SameField die f die' f' := by
  rintro ⟨h5, -⟩
  unfold regKey at h5
  omega

/-- Two dies share no register field. -/
theorem not_sameField_die {die die' : Nat} {f f' : Fld} (h : die ≠ die') (h1 : f.lo < 64) (h2 : f'.lo < 64)
    (h3 : f.off < 2 ^ 33) (h4 : f'.off < 2 ^ 33) : ¬ SameField die f die' f' := by
  rintro ⟨h5, -⟩
  unfold regKey at h5
  omega

/-- Register fields after a write: the field written, or as before. -/
theorem Dev.rd_wr (d : Dev) (die die' : Nat) (f f' : Fld) (v : Nat) (h1 : f.lo < 64) (h2 : f'.lo < 64) (h3 : f.off < 2 ^ 33) (h4 : f'.off < 2 ^ 33)
    (h5 : f.off = f'.off ∧ f.lo = f'.lo → f = f') :
    (d.wr die f v).rd die' f' = if die = die' ∧ f.off = f'.off ∧ f.lo = f'.lo then v % 2 ^ f.width else d.rd die' f' := by
  by_cases h : die = die' ∧ f.off = f'.off ∧ f.lo = f'.lo
  · obtain ⟨rfl, h⟩ := h
    obtain rfl := h5 h
    simp
  · rw [if_neg h]
    apply Dev.rd_wr_ne
    rintro ⟨h6, -⟩
    unfold regKey at h6
    apply h; omega

theorem regsKept_refl (d : Dev) (w : List (Nat × Fld)) : RegsKept d d w := fun _ _ _ => rfl

/-- A write to a listed field keeps every field that is not listed. -/
theorem regsKept_wr {d t : Dev} {w : List (Nat × Fld)} {die : Nat} {f : Fld} (v : Nat) (hm : (die, f) ∈ w) (h : RegsKept d t w) :
    RegsKept d (t.wr die f v) w := by
  intro die' f' hw
  rw [Dev.rd_wr_ne _ _ (hw _ hm)]
  exact h die' f' hw

end Sys2Proof.Machine
end

