-- ==== Sys2Proof/Laws/State.lean ====
section
/-! SUPPORT. What each update of the device writes, and that it leaves every other field as it was. -/

namespace Sys2Proof.Machine

/-- A register write changes the register store alone. -/
@[simp] theorem Dev.wr_fields (d : Dev) (die : Nat) (g : Fld) (v : Nat) :
  (d.wr die g v).nv = d.nv ∧ (d.wr die g v).on = d.on ∧ (d.wr die g v).seed = d.seed ∧ (d.wr die g v).out = d.out ∧ (d.wr die g v).charter = d.charter ∧
    (d.wr die g v).mem = d.mem ∧ (d.wr die g v).poison = d.poison ∧ (d.wr die g v).spadPoison = d.spadPoison ∧ (d.wr die g v).owner = d.owner ∧
    (d.wr die g v).flaws = d.flaws ∧ (d.wr die g v).findings = d.findings ∧ (d.wr die g v).sysCache = d.sysCache ∧
    (d.wr die g v).coreCache = d.coreCache ∧ (d.wr die g v).chains = d.chains ∧ (d.wr die g v).wcb = d.wcb ∧ (d.wr die g v).stew = d.stew ∧
    (d.wr die g v).charge = d.charge ∧ (d.wr die g v).held = d.held ∧ (d.wr die g v).peerHeld = d.peerHeld ∧ (d.wr die g v).tlb = d.tlb ∧
    (d.wr die g v).walks = d.walks ∧ (d.wr die g v).tlbTree = d.tlbTree ∧ (d.wr die g v).walkTree = d.walkTree ∧ (d.wr die g v).perches = d.perches ∧
    (d.wr die g v).spadErr = d.spadErr ∧ (d.wr die g v).spans = d.spans ∧ (d.wr die g v).conts = d.conts ∧ (d.wr die g v).elapsed = d.elapsed ∧
    (d.wr die g v).timeNs = d.timeNs ∧ (d.wr die g v).kernelPa = d.kernelPa ∧ (d.wr die g v).runs = d.runs ∧ (d.wr die g v).spanStarts = d.spanStarts ∧
    (d.wr die g v).lateIn = d.lateIn ∧ (d.wr die g v).overrunDue = d.overrunDue ∧ (d.wr die g v).errNew = d.errNew ∧
    (d.wr die g v).healthDue = d.healthDue ∧ (d.wr die g v).rowTrack = d.rowTrack ∧ (d.wr die g v).rowMaps = d.rowMaps ∧
    (d.wr die g v).bankSpares = d.bankSpares ∧ (d.wr die g v).pagePend = d.pagePend ∧ (d.wr die g v).pageLate = d.pageLate ∧
    (d.wr die g v).fathomCorr = d.fathomCorr ∧ (d.wr die g v).scrub = d.scrub ∧ (d.wr die g v).harts = d.harts ∧ (d.wr die g v).invCmd = d.invCmd ∧
    (d.wr die g v).ownCmd = d.ownCmd ∧ (d.wr die g v).moves = d.moves ∧ (d.wr die g v).nvme = d.nvme ∧ (d.wr die g v).noPlane = d.noPlane ∧
    (d.wr die g v).colls = d.colls ∧ (d.wr die g v).hif = d.hif ∧ (d.wr die g v).league = d.league ∧ (d.wr die g v).sio = d.sio ∧
    (d.wr die g v).gen = d.gen ∧ (d.wr die g v).power = d.power ∧ (d.wr die g v).boot = d.boot ∧ (d.wr die g v).alerts = d.alerts ∧
    (d.wr die g v).remote = d.remote ∧ (d.wr die g v).nextTag = d.nextTag := by
  unfold Dev.wr; split <;> simp

/-- The field that `emit` writes. -/
@[simp] theorem Dev.emit_out (d : Dev) (o : Out) : (d.emit o).out = d.out ++ [o] := rfl

/-- `emit` leaves every other field as it was. -/
@[simp] theorem Dev.emit_fields (d : Dev) (o : Out) :
  (d.emit o).nv = d.nv ∧ (d.emit o).on = d.on ∧ (d.emit o).seed = d.seed ∧ (d.emit o).regs = d.regs ∧ (d.emit o).regsSt = d.regsSt ∧
    (d.emit o).charter = d.charter ∧ (d.emit o).mem = d.mem ∧ (d.emit o).poison = d.poison ∧ (d.emit o).spadPoison = d.spadPoison ∧
    (d.emit o).owner = d.owner ∧ (d.emit o).flaws = d.flaws ∧ (d.emit o).findings = d.findings ∧ (d.emit o).sysCache = d.sysCache ∧
    (d.emit o).coreCache = d.coreCache ∧ (d.emit o).chains = d.chains ∧ (d.emit o).wcb = d.wcb ∧ (d.emit o).stew = d.stew ∧ (d.emit o).charge = d.charge ∧
    (d.emit o).held = d.held ∧ (d.emit o).peerHeld = d.peerHeld ∧ (d.emit o).tlb = d.tlb ∧ (d.emit o).walks = d.walks ∧ (d.emit o).tlbTree = d.tlbTree ∧
    (d.emit o).walkTree = d.walkTree ∧ (d.emit o).perches = d.perches ∧ (d.emit o).spadErr = d.spadErr ∧ (d.emit o).spans = d.spans ∧
    (d.emit o).conts = d.conts ∧ (d.emit o).elapsed = d.elapsed ∧ (d.emit o).timeNs = d.timeNs ∧ (d.emit o).kernelPa = d.kernelPa ∧
    (d.emit o).runs = d.runs ∧ (d.emit o).spanStarts = d.spanStarts ∧ (d.emit o).lateIn = d.lateIn ∧ (d.emit o).overrunDue = d.overrunDue ∧
    (d.emit o).errNew = d.errNew ∧ (d.emit o).healthDue = d.healthDue ∧ (d.emit o).rowTrack = d.rowTrack ∧ (d.emit o).rowMaps = d.rowMaps ∧
    (d.emit o).bankSpares = d.bankSpares ∧ (d.emit o).pagePend = d.pagePend ∧ (d.emit o).pageLate = d.pageLate ∧ (d.emit o).fathomCorr = d.fathomCorr ∧
    (d.emit o).scrub = d.scrub ∧ (d.emit o).harts = d.harts ∧ (d.emit o).invCmd = d.invCmd ∧ (d.emit o).ownCmd = d.ownCmd ∧ (d.emit o).moves = d.moves ∧
    (d.emit o).nvme = d.nvme ∧ (d.emit o).noPlane = d.noPlane ∧ (d.emit o).colls = d.colls ∧ (d.emit o).hif = d.hif ∧ (d.emit o).league = d.league ∧
    (d.emit o).sio = d.sio ∧ (d.emit o).gen = d.gen ∧ (d.emit o).power = d.power ∧ (d.emit o).boot = d.boot ∧ (d.emit o).alerts = d.alerts ∧
    (d.emit o).remote = d.remote ∧ (d.emit o).nextTag = d.nextTag := by
  simp [Dev.emit]

/-- `emit` changes no register. -/
@[simp] theorem Dev.emit_rd (d : Dev) (o : Out) (die : Nat) (g : Fld) : (d.emit o).rd die g = d.rd die g := rfl

/-- The field that `setPerch` writes. -/
@[simp] theorem Dev.setPerch_perches (d : Dev) (p : Nat) (v : Perch) : (d.setPerch p v).perches = KMap.set {} d.perches p v := rfl

/-- `setPerch` leaves every other field as it was. -/
@[simp] theorem Dev.setPerch_fields (d : Dev) (p : Nat) (v : Perch) :
  (d.setPerch p v).nv = d.nv ∧ (d.setPerch p v).on = d.on ∧ (d.setPerch p v).seed = d.seed ∧ (d.setPerch p v).out = d.out ∧
    (d.setPerch p v).regs = d.regs ∧ (d.setPerch p v).regsSt = d.regsSt ∧ (d.setPerch p v).charter = d.charter ∧ (d.setPerch p v).mem = d.mem ∧
    (d.setPerch p v).poison = d.poison ∧ (d.setPerch p v).spadPoison = d.spadPoison ∧ (d.setPerch p v).owner = d.owner ∧
    (d.setPerch p v).flaws = d.flaws ∧ (d.setPerch p v).findings = d.findings ∧ (d.setPerch p v).sysCache = d.sysCache ∧
    (d.setPerch p v).coreCache = d.coreCache ∧ (d.setPerch p v).chains = d.chains ∧ (d.setPerch p v).wcb = d.wcb ∧ (d.setPerch p v).stew = d.stew ∧
    (d.setPerch p v).charge = d.charge ∧ (d.setPerch p v).held = d.held ∧ (d.setPerch p v).peerHeld = d.peerHeld ∧ (d.setPerch p v).tlb = d.tlb ∧
    (d.setPerch p v).walks = d.walks ∧ (d.setPerch p v).tlbTree = d.tlbTree ∧ (d.setPerch p v).walkTree = d.walkTree ∧
    (d.setPerch p v).spadErr = d.spadErr ∧ (d.setPerch p v).spans = d.spans ∧ (d.setPerch p v).conts = d.conts ∧ (d.setPerch p v).elapsed = d.elapsed ∧
    (d.setPerch p v).timeNs = d.timeNs ∧ (d.setPerch p v).kernelPa = d.kernelPa ∧ (d.setPerch p v).runs = d.runs ∧
    (d.setPerch p v).spanStarts = d.spanStarts ∧ (d.setPerch p v).lateIn = d.lateIn ∧ (d.setPerch p v).overrunDue = d.overrunDue ∧
    (d.setPerch p v).errNew = d.errNew ∧ (d.setPerch p v).healthDue = d.healthDue ∧ (d.setPerch p v).rowTrack = d.rowTrack ∧
    (d.setPerch p v).rowMaps = d.rowMaps ∧ (d.setPerch p v).bankSpares = d.bankSpares ∧ (d.setPerch p v).pagePend = d.pagePend ∧
    (d.setPerch p v).pageLate = d.pageLate ∧ (d.setPerch p v).fathomCorr = d.fathomCorr ∧ (d.setPerch p v).scrub = d.scrub ∧
    (d.setPerch p v).harts = d.harts ∧ (d.setPerch p v).invCmd = d.invCmd ∧ (d.setPerch p v).ownCmd = d.ownCmd ∧ (d.setPerch p v).moves = d.moves ∧
    (d.setPerch p v).nvme = d.nvme ∧ (d.setPerch p v).noPlane = d.noPlane ∧ (d.setPerch p v).colls = d.colls ∧ (d.setPerch p v).hif = d.hif ∧
    (d.setPerch p v).league = d.league ∧ (d.setPerch p v).sio = d.sio ∧ (d.setPerch p v).gen = d.gen ∧ (d.setPerch p v).power = d.power ∧
    (d.setPerch p v).boot = d.boot ∧ (d.setPerch p v).alerts = d.alerts ∧ (d.setPerch p v).remote = d.remote ∧ (d.setPerch p v).nextTag = d.nextTag := by
  simp [Dev.setPerch]

/-- `setPerch` changes no register. -/
@[simp] theorem Dev.setPerch_rd (d : Dev) (p : Nat) (v : Perch) (die : Nat) (g : Fld) : (d.setPerch p v).rd die g = d.rd die g := rfl

/-- The field that `updPerch` writes. -/
@[simp] theorem Dev.updPerch_perches (d : Dev) (p : Nat) (f : Perch → Perch) : (d.updPerch p f).perches = KMap.set {} d.perches p (f (d.perch p)) := rfl

/-- `updPerch` leaves every other field as it was. -/
@[simp] theorem Dev.updPerch_fields (d : Dev) (p : Nat) (f : Perch → Perch) :
  (d.updPerch p f).nv = d.nv ∧ (d.updPerch p f).on = d.on ∧ (d.updPerch p f).seed = d.seed ∧ (d.updPerch p f).out = d.out ∧
    (d.updPerch p f).regs = d.regs ∧ (d.updPerch p f).regsSt = d.regsSt ∧ (d.updPerch p f).charter = d.charter ∧ (d.updPerch p f).mem = d.mem ∧
    (d.updPerch p f).poison = d.poison ∧ (d.updPerch p f).spadPoison = d.spadPoison ∧ (d.updPerch p f).owner = d.owner ∧
    (d.updPerch p f).flaws = d.flaws ∧ (d.updPerch p f).findings = d.findings ∧ (d.updPerch p f).sysCache = d.sysCache ∧
    (d.updPerch p f).coreCache = d.coreCache ∧ (d.updPerch p f).chains = d.chains ∧ (d.updPerch p f).wcb = d.wcb ∧ (d.updPerch p f).stew = d.stew ∧
    (d.updPerch p f).charge = d.charge ∧ (d.updPerch p f).held = d.held ∧ (d.updPerch p f).peerHeld = d.peerHeld ∧ (d.updPerch p f).tlb = d.tlb ∧
    (d.updPerch p f).walks = d.walks ∧ (d.updPerch p f).tlbTree = d.tlbTree ∧ (d.updPerch p f).walkTree = d.walkTree ∧
    (d.updPerch p f).spadErr = d.spadErr ∧ (d.updPerch p f).spans = d.spans ∧ (d.updPerch p f).conts = d.conts ∧ (d.updPerch p f).elapsed = d.elapsed ∧
    (d.updPerch p f).timeNs = d.timeNs ∧ (d.updPerch p f).kernelPa = d.kernelPa ∧ (d.updPerch p f).runs = d.runs ∧
    (d.updPerch p f).spanStarts = d.spanStarts ∧ (d.updPerch p f).lateIn = d.lateIn ∧ (d.updPerch p f).overrunDue = d.overrunDue ∧
    (d.updPerch p f).errNew = d.errNew ∧ (d.updPerch p f).healthDue = d.healthDue ∧ (d.updPerch p f).rowTrack = d.rowTrack ∧
    (d.updPerch p f).rowMaps = d.rowMaps ∧ (d.updPerch p f).bankSpares = d.bankSpares ∧ (d.updPerch p f).pagePend = d.pagePend ∧
    (d.updPerch p f).pageLate = d.pageLate ∧ (d.updPerch p f).fathomCorr = d.fathomCorr ∧ (d.updPerch p f).scrub = d.scrub ∧
    (d.updPerch p f).harts = d.harts ∧ (d.updPerch p f).invCmd = d.invCmd ∧ (d.updPerch p f).ownCmd = d.ownCmd ∧ (d.updPerch p f).moves = d.moves ∧
    (d.updPerch p f).nvme = d.nvme ∧ (d.updPerch p f).noPlane = d.noPlane ∧ (d.updPerch p f).colls = d.colls ∧ (d.updPerch p f).hif = d.hif ∧
    (d.updPerch p f).league = d.league ∧ (d.updPerch p f).sio = d.sio ∧ (d.updPerch p f).gen = d.gen ∧ (d.updPerch p f).power = d.power ∧
    (d.updPerch p f).boot = d.boot ∧ (d.updPerch p f).alerts = d.alerts ∧ (d.updPerch p f).remote = d.remote ∧ (d.updPerch p f).nextTag = d.nextTag := by
  simp [Dev.updPerch, Dev.setPerch]

/-- `updPerch` changes no register. -/
@[simp] theorem Dev.updPerch_rd (d : Dev) (p : Nat) (f : Perch → Perch) (die : Nat) (g : Fld) : (d.updPerch p f).rd die g = d.rd die g := rfl

/-- The field that `updHart` writes. -/
@[simp] theorem Dev.updHart_harts (d : Dev) (h : Nat) (f : Hart → Hart) : (d.updHart h f).harts = KMap.upd {} d.harts h f := rfl

/-- `updHart` leaves every other field as it was. -/
@[simp] theorem Dev.updHart_fields (d : Dev) (h : Nat) (f : Hart → Hart) :
  (d.updHart h f).nv = d.nv ∧ (d.updHart h f).on = d.on ∧ (d.updHart h f).seed = d.seed ∧ (d.updHart h f).out = d.out ∧ (d.updHart h f).regs = d.regs ∧
    (d.updHart h f).regsSt = d.regsSt ∧ (d.updHart h f).charter = d.charter ∧ (d.updHart h f).mem = d.mem ∧ (d.updHart h f).poison = d.poison ∧
    (d.updHart h f).spadPoison = d.spadPoison ∧ (d.updHart h f).owner = d.owner ∧ (d.updHart h f).flaws = d.flaws ∧
    (d.updHart h f).findings = d.findings ∧ (d.updHart h f).sysCache = d.sysCache ∧ (d.updHart h f).coreCache = d.coreCache ∧
    (d.updHart h f).chains = d.chains ∧ (d.updHart h f).wcb = d.wcb ∧ (d.updHart h f).stew = d.stew ∧ (d.updHart h f).charge = d.charge ∧
    (d.updHart h f).held = d.held ∧ (d.updHart h f).peerHeld = d.peerHeld ∧ (d.updHart h f).tlb = d.tlb ∧ (d.updHart h f).walks = d.walks ∧
    (d.updHart h f).tlbTree = d.tlbTree ∧ (d.updHart h f).walkTree = d.walkTree ∧ (d.updHart h f).perches = d.perches ∧
    (d.updHart h f).spadErr = d.spadErr ∧ (d.updHart h f).spans = d.spans ∧ (d.updHart h f).conts = d.conts ∧ (d.updHart h f).elapsed = d.elapsed ∧
    (d.updHart h f).timeNs = d.timeNs ∧ (d.updHart h f).kernelPa = d.kernelPa ∧ (d.updHart h f).runs = d.runs ∧
    (d.updHart h f).spanStarts = d.spanStarts ∧ (d.updHart h f).lateIn = d.lateIn ∧ (d.updHart h f).overrunDue = d.overrunDue ∧
    (d.updHart h f).errNew = d.errNew ∧ (d.updHart h f).healthDue = d.healthDue ∧ (d.updHart h f).rowTrack = d.rowTrack ∧
    (d.updHart h f).rowMaps = d.rowMaps ∧ (d.updHart h f).bankSpares = d.bankSpares ∧ (d.updHart h f).pagePend = d.pagePend ∧
    (d.updHart h f).pageLate = d.pageLate ∧ (d.updHart h f).fathomCorr = d.fathomCorr ∧ (d.updHart h f).scrub = d.scrub ∧
    (d.updHart h f).invCmd = d.invCmd ∧ (d.updHart h f).ownCmd = d.ownCmd ∧ (d.updHart h f).moves = d.moves ∧ (d.updHart h f).nvme = d.nvme ∧
    (d.updHart h f).noPlane = d.noPlane ∧ (d.updHart h f).colls = d.colls ∧ (d.updHart h f).hif = d.hif ∧ (d.updHart h f).league = d.league ∧
    (d.updHart h f).sio = d.sio ∧ (d.updHart h f).gen = d.gen ∧ (d.updHart h f).power = d.power ∧ (d.updHart h f).boot = d.boot ∧
    (d.updHart h f).alerts = d.alerts ∧ (d.updHart h f).remote = d.remote ∧ (d.updHart h f).nextTag = d.nextTag := by
  simp [Dev.updHart]

/-- `updHart` changes no register. -/
@[simp] theorem Dev.updHart_rd (d : Dev) (h : Nat) (f : Hart → Hart) (die : Nat) (g : Fld) : (d.updHart h f).rd die g = d.rd die g := rfl

/-- The field that `updHif` writes. -/
@[simp] theorem Dev.updHif_hif (d : Dev) (f : Hif → Hif) : (d.updHif f).hif = f d.hif := rfl

/-- `updHif` leaves every other field as it was. -/
@[simp] theorem Dev.updHif_fields (d : Dev) (f : Hif → Hif) :
  (d.updHif f).nv = d.nv ∧ (d.updHif f).on = d.on ∧ (d.updHif f).seed = d.seed ∧ (d.updHif f).out = d.out ∧ (d.updHif f).regs = d.regs ∧
    (d.updHif f).regsSt = d.regsSt ∧ (d.updHif f).charter = d.charter ∧ (d.updHif f).mem = d.mem ∧ (d.updHif f).poison = d.poison ∧
    (d.updHif f).spadPoison = d.spadPoison ∧ (d.updHif f).owner = d.owner ∧ (d.updHif f).flaws = d.flaws ∧ (d.updHif f).findings = d.findings ∧
    (d.updHif f).sysCache = d.sysCache ∧ (d.updHif f).coreCache = d.coreCache ∧ (d.updHif f).chains = d.chains ∧ (d.updHif f).wcb = d.wcb ∧
    (d.updHif f).stew = d.stew ∧ (d.updHif f).charge = d.charge ∧ (d.updHif f).held = d.held ∧ (d.updHif f).peerHeld = d.peerHeld ∧
    (d.updHif f).tlb = d.tlb ∧ (d.updHif f).walks = d.walks ∧ (d.updHif f).tlbTree = d.tlbTree ∧ (d.updHif f).walkTree = d.walkTree ∧
    (d.updHif f).perches = d.perches ∧ (d.updHif f).spadErr = d.spadErr ∧ (d.updHif f).spans = d.spans ∧ (d.updHif f).conts = d.conts ∧
    (d.updHif f).elapsed = d.elapsed ∧ (d.updHif f).timeNs = d.timeNs ∧ (d.updHif f).kernelPa = d.kernelPa ∧ (d.updHif f).runs = d.runs ∧
    (d.updHif f).spanStarts = d.spanStarts ∧ (d.updHif f).lateIn = d.lateIn ∧ (d.updHif f).overrunDue = d.overrunDue ∧ (d.updHif f).errNew = d.errNew ∧
    (d.updHif f).healthDue = d.healthDue ∧ (d.updHif f).rowTrack = d.rowTrack ∧ (d.updHif f).rowMaps = d.rowMaps ∧
    (d.updHif f).bankSpares = d.bankSpares ∧ (d.updHif f).pagePend = d.pagePend ∧ (d.updHif f).pageLate = d.pageLate ∧
    (d.updHif f).fathomCorr = d.fathomCorr ∧ (d.updHif f).scrub = d.scrub ∧ (d.updHif f).harts = d.harts ∧ (d.updHif f).invCmd = d.invCmd ∧
    (d.updHif f).ownCmd = d.ownCmd ∧ (d.updHif f).moves = d.moves ∧ (d.updHif f).nvme = d.nvme ∧ (d.updHif f).noPlane = d.noPlane ∧
    (d.updHif f).colls = d.colls ∧ (d.updHif f).league = d.league ∧ (d.updHif f).sio = d.sio ∧ (d.updHif f).gen = d.gen ∧ (d.updHif f).power = d.power ∧
    (d.updHif f).boot = d.boot ∧ (d.updHif f).alerts = d.alerts ∧ (d.updHif f).remote = d.remote ∧ (d.updHif f).nextTag = d.nextTag := by
  simp [Dev.updHif]

/-- `updHif` changes no register. -/
@[simp] theorem Dev.updHif_rd (d : Dev) (f : Hif → Hif) (die : Nat) (g : Fld) : (d.updHif f).rd die g = d.rd die g := rfl

/-- The field that `updLeague` writes. -/
@[simp] theorem Dev.updLeague_league (d : Dev) (f : League → League) : (d.updLeague f).league = f d.league := rfl

/-- `updLeague` leaves every other field as it was. -/
@[simp] theorem Dev.updLeague_fields (d : Dev) (f : League → League) :
  (d.updLeague f).nv = d.nv ∧ (d.updLeague f).on = d.on ∧ (d.updLeague f).seed = d.seed ∧ (d.updLeague f).out = d.out ∧ (d.updLeague f).regs = d.regs ∧
    (d.updLeague f).regsSt = d.regsSt ∧ (d.updLeague f).charter = d.charter ∧ (d.updLeague f).mem = d.mem ∧ (d.updLeague f).poison = d.poison ∧
    (d.updLeague f).spadPoison = d.spadPoison ∧ (d.updLeague f).owner = d.owner ∧ (d.updLeague f).flaws = d.flaws ∧
    (d.updLeague f).findings = d.findings ∧ (d.updLeague f).sysCache = d.sysCache ∧ (d.updLeague f).coreCache = d.coreCache ∧
    (d.updLeague f).chains = d.chains ∧ (d.updLeague f).wcb = d.wcb ∧ (d.updLeague f).stew = d.stew ∧ (d.updLeague f).charge = d.charge ∧
    (d.updLeague f).held = d.held ∧ (d.updLeague f).peerHeld = d.peerHeld ∧ (d.updLeague f).tlb = d.tlb ∧ (d.updLeague f).walks = d.walks ∧
    (d.updLeague f).tlbTree = d.tlbTree ∧ (d.updLeague f).walkTree = d.walkTree ∧ (d.updLeague f).perches = d.perches ∧
    (d.updLeague f).spadErr = d.spadErr ∧ (d.updLeague f).spans = d.spans ∧ (d.updLeague f).conts = d.conts ∧ (d.updLeague f).elapsed = d.elapsed ∧
    (d.updLeague f).timeNs = d.timeNs ∧ (d.updLeague f).kernelPa = d.kernelPa ∧ (d.updLeague f).runs = d.runs ∧
    (d.updLeague f).spanStarts = d.spanStarts ∧ (d.updLeague f).lateIn = d.lateIn ∧ (d.updLeague f).overrunDue = d.overrunDue ∧
    (d.updLeague f).errNew = d.errNew ∧ (d.updLeague f).healthDue = d.healthDue ∧ (d.updLeague f).rowTrack = d.rowTrack ∧
    (d.updLeague f).rowMaps = d.rowMaps ∧ (d.updLeague f).bankSpares = d.bankSpares ∧ (d.updLeague f).pagePend = d.pagePend ∧
    (d.updLeague f).pageLate = d.pageLate ∧ (d.updLeague f).fathomCorr = d.fathomCorr ∧ (d.updLeague f).scrub = d.scrub ∧
    (d.updLeague f).harts = d.harts ∧ (d.updLeague f).invCmd = d.invCmd ∧ (d.updLeague f).ownCmd = d.ownCmd ∧ (d.updLeague f).moves = d.moves ∧
    (d.updLeague f).nvme = d.nvme ∧ (d.updLeague f).noPlane = d.noPlane ∧ (d.updLeague f).colls = d.colls ∧ (d.updLeague f).hif = d.hif ∧
    (d.updLeague f).sio = d.sio ∧ (d.updLeague f).gen = d.gen ∧ (d.updLeague f).power = d.power ∧ (d.updLeague f).boot = d.boot ∧
    (d.updLeague f).alerts = d.alerts ∧ (d.updLeague f).remote = d.remote ∧ (d.updLeague f).nextTag = d.nextTag := by
  simp [Dev.updLeague]

/-- `updLeague` changes no register. -/
@[simp] theorem Dev.updLeague_rd (d : Dev) (f : League → League) (die : Nat) (g : Fld) : (d.updLeague f).rd die g = d.rd die g := rfl

/-- The field that `updGen` writes. -/
@[simp] theorem Dev.updGen_gen (d : Dev) (f : TickGen → TickGen) : (d.updGen f).gen = f d.gen := rfl

/-- `updGen` leaves every other field as it was. -/
@[simp] theorem Dev.updGen_fields (d : Dev) (f : TickGen → TickGen) :
  (d.updGen f).nv = d.nv ∧ (d.updGen f).on = d.on ∧ (d.updGen f).seed = d.seed ∧ (d.updGen f).out = d.out ∧ (d.updGen f).regs = d.regs ∧
    (d.updGen f).regsSt = d.regsSt ∧ (d.updGen f).charter = d.charter ∧ (d.updGen f).mem = d.mem ∧ (d.updGen f).poison = d.poison ∧
    (d.updGen f).spadPoison = d.spadPoison ∧ (d.updGen f).owner = d.owner ∧ (d.updGen f).flaws = d.flaws ∧ (d.updGen f).findings = d.findings ∧
    (d.updGen f).sysCache = d.sysCache ∧ (d.updGen f).coreCache = d.coreCache ∧ (d.updGen f).chains = d.chains ∧ (d.updGen f).wcb = d.wcb ∧
    (d.updGen f).stew = d.stew ∧ (d.updGen f).charge = d.charge ∧ (d.updGen f).held = d.held ∧ (d.updGen f).peerHeld = d.peerHeld ∧
    (d.updGen f).tlb = d.tlb ∧ (d.updGen f).walks = d.walks ∧ (d.updGen f).tlbTree = d.tlbTree ∧ (d.updGen f).walkTree = d.walkTree ∧
    (d.updGen f).perches = d.perches ∧ (d.updGen f).spadErr = d.spadErr ∧ (d.updGen f).spans = d.spans ∧ (d.updGen f).conts = d.conts ∧
    (d.updGen f).elapsed = d.elapsed ∧ (d.updGen f).timeNs = d.timeNs ∧ (d.updGen f).kernelPa = d.kernelPa ∧ (d.updGen f).runs = d.runs ∧
    (d.updGen f).spanStarts = d.spanStarts ∧ (d.updGen f).lateIn = d.lateIn ∧ (d.updGen f).overrunDue = d.overrunDue ∧ (d.updGen f).errNew = d.errNew ∧
    (d.updGen f).healthDue = d.healthDue ∧ (d.updGen f).rowTrack = d.rowTrack ∧ (d.updGen f).rowMaps = d.rowMaps ∧
    (d.updGen f).bankSpares = d.bankSpares ∧ (d.updGen f).pagePend = d.pagePend ∧ (d.updGen f).pageLate = d.pageLate ∧
    (d.updGen f).fathomCorr = d.fathomCorr ∧ (d.updGen f).scrub = d.scrub ∧ (d.updGen f).harts = d.harts ∧ (d.updGen f).invCmd = d.invCmd ∧
    (d.updGen f).ownCmd = d.ownCmd ∧ (d.updGen f).moves = d.moves ∧ (d.updGen f).nvme = d.nvme ∧ (d.updGen f).noPlane = d.noPlane ∧
    (d.updGen f).colls = d.colls ∧ (d.updGen f).hif = d.hif ∧ (d.updGen f).league = d.league ∧ (d.updGen f).sio = d.sio ∧ (d.updGen f).power = d.power ∧
    (d.updGen f).boot = d.boot ∧ (d.updGen f).alerts = d.alerts ∧ (d.updGen f).remote = d.remote ∧ (d.updGen f).nextTag = d.nextTag := by
  simp [Dev.updGen]

/-- `updGen` changes no register. -/
@[simp] theorem Dev.updGen_rd (d : Dev) (f : TickGen → TickGen) (die : Nat) (g : Fld) : (d.updGen f).rd die g = d.rd die g := rfl

/-- The field that `updPower` writes. -/
@[simp] theorem Dev.updPower_power (d : Dev) (f : Power → Power) : (d.updPower f).power = f d.power := rfl

/-- `updPower` leaves every other field as it was. -/
@[simp] theorem Dev.updPower_fields (d : Dev) (f : Power → Power) :
  (d.updPower f).nv = d.nv ∧ (d.updPower f).on = d.on ∧ (d.updPower f).seed = d.seed ∧ (d.updPower f).out = d.out ∧ (d.updPower f).regs = d.regs ∧
    (d.updPower f).regsSt = d.regsSt ∧ (d.updPower f).charter = d.charter ∧ (d.updPower f).mem = d.mem ∧ (d.updPower f).poison = d.poison ∧
    (d.updPower f).spadPoison = d.spadPoison ∧ (d.updPower f).owner = d.owner ∧ (d.updPower f).flaws = d.flaws ∧ (d.updPower f).findings = d.findings ∧
    (d.updPower f).sysCache = d.sysCache ∧ (d.updPower f).coreCache = d.coreCache ∧ (d.updPower f).chains = d.chains ∧ (d.updPower f).wcb = d.wcb ∧
    (d.updPower f).stew = d.stew ∧ (d.updPower f).charge = d.charge ∧ (d.updPower f).held = d.held ∧ (d.updPower f).peerHeld = d.peerHeld ∧
    (d.updPower f).tlb = d.tlb ∧ (d.updPower f).walks = d.walks ∧ (d.updPower f).tlbTree = d.tlbTree ∧ (d.updPower f).walkTree = d.walkTree ∧
    (d.updPower f).perches = d.perches ∧ (d.updPower f).spadErr = d.spadErr ∧ (d.updPower f).spans = d.spans ∧ (d.updPower f).conts = d.conts ∧
    (d.updPower f).elapsed = d.elapsed ∧ (d.updPower f).timeNs = d.timeNs ∧ (d.updPower f).kernelPa = d.kernelPa ∧ (d.updPower f).runs = d.runs ∧
    (d.updPower f).spanStarts = d.spanStarts ∧ (d.updPower f).lateIn = d.lateIn ∧ (d.updPower f).overrunDue = d.overrunDue ∧
    (d.updPower f).errNew = d.errNew ∧ (d.updPower f).healthDue = d.healthDue ∧ (d.updPower f).rowTrack = d.rowTrack ∧
    (d.updPower f).rowMaps = d.rowMaps ∧ (d.updPower f).bankSpares = d.bankSpares ∧ (d.updPower f).pagePend = d.pagePend ∧
    (d.updPower f).pageLate = d.pageLate ∧ (d.updPower f).fathomCorr = d.fathomCorr ∧ (d.updPower f).scrub = d.scrub ∧ (d.updPower f).harts = d.harts ∧
    (d.updPower f).invCmd = d.invCmd ∧ (d.updPower f).ownCmd = d.ownCmd ∧ (d.updPower f).moves = d.moves ∧ (d.updPower f).nvme = d.nvme ∧
    (d.updPower f).noPlane = d.noPlane ∧ (d.updPower f).colls = d.colls ∧ (d.updPower f).hif = d.hif ∧ (d.updPower f).league = d.league ∧
    (d.updPower f).sio = d.sio ∧ (d.updPower f).gen = d.gen ∧ (d.updPower f).boot = d.boot ∧ (d.updPower f).alerts = d.alerts ∧
    (d.updPower f).remote = d.remote ∧ (d.updPower f).nextTag = d.nextTag := by
  simp [Dev.updPower]

/-- `updPower` changes no register. -/
@[simp] theorem Dev.updPower_rd (d : Dev) (f : Power → Power) (die : Nat) (g : Fld) : (d.updPower f).rd die g = d.rd die g := rfl

/-- The field that `updBoot` writes. -/
@[simp] theorem Dev.updBoot_boot (d : Dev) (f : Boot → Boot) : (d.updBoot f).boot = f d.boot := rfl

/-- `updBoot` leaves every other field as it was. -/
@[simp] theorem Dev.updBoot_fields (d : Dev) (f : Boot → Boot) :
  (d.updBoot f).nv = d.nv ∧ (d.updBoot f).on = d.on ∧ (d.updBoot f).seed = d.seed ∧ (d.updBoot f).out = d.out ∧ (d.updBoot f).regs = d.regs ∧
    (d.updBoot f).regsSt = d.regsSt ∧ (d.updBoot f).charter = d.charter ∧ (d.updBoot f).mem = d.mem ∧ (d.updBoot f).poison = d.poison ∧
    (d.updBoot f).spadPoison = d.spadPoison ∧ (d.updBoot f).owner = d.owner ∧ (d.updBoot f).flaws = d.flaws ∧ (d.updBoot f).findings = d.findings ∧
    (d.updBoot f).sysCache = d.sysCache ∧ (d.updBoot f).coreCache = d.coreCache ∧ (d.updBoot f).chains = d.chains ∧ (d.updBoot f).wcb = d.wcb ∧
    (d.updBoot f).stew = d.stew ∧ (d.updBoot f).charge = d.charge ∧ (d.updBoot f).held = d.held ∧ (d.updBoot f).peerHeld = d.peerHeld ∧
    (d.updBoot f).tlb = d.tlb ∧ (d.updBoot f).walks = d.walks ∧ (d.updBoot f).tlbTree = d.tlbTree ∧ (d.updBoot f).walkTree = d.walkTree ∧
    (d.updBoot f).perches = d.perches ∧ (d.updBoot f).spadErr = d.spadErr ∧ (d.updBoot f).spans = d.spans ∧ (d.updBoot f).conts = d.conts ∧
    (d.updBoot f).elapsed = d.elapsed ∧ (d.updBoot f).timeNs = d.timeNs ∧ (d.updBoot f).kernelPa = d.kernelPa ∧ (d.updBoot f).runs = d.runs ∧
    (d.updBoot f).spanStarts = d.spanStarts ∧ (d.updBoot f).lateIn = d.lateIn ∧ (d.updBoot f).overrunDue = d.overrunDue ∧
    (d.updBoot f).errNew = d.errNew ∧ (d.updBoot f).healthDue = d.healthDue ∧ (d.updBoot f).rowTrack = d.rowTrack ∧ (d.updBoot f).rowMaps = d.rowMaps ∧
    (d.updBoot f).bankSpares = d.bankSpares ∧ (d.updBoot f).pagePend = d.pagePend ∧ (d.updBoot f).pageLate = d.pageLate ∧
    (d.updBoot f).fathomCorr = d.fathomCorr ∧ (d.updBoot f).scrub = d.scrub ∧ (d.updBoot f).harts = d.harts ∧ (d.updBoot f).invCmd = d.invCmd ∧
    (d.updBoot f).ownCmd = d.ownCmd ∧ (d.updBoot f).moves = d.moves ∧ (d.updBoot f).nvme = d.nvme ∧ (d.updBoot f).noPlane = d.noPlane ∧
    (d.updBoot f).colls = d.colls ∧ (d.updBoot f).hif = d.hif ∧ (d.updBoot f).league = d.league ∧ (d.updBoot f).sio = d.sio ∧ (d.updBoot f).gen = d.gen ∧
    (d.updBoot f).power = d.power ∧ (d.updBoot f).alerts = d.alerts ∧ (d.updBoot f).remote = d.remote ∧ (d.updBoot f).nextTag = d.nextTag := by
  simp [Dev.updBoot]

/-- `updBoot` changes no register. -/
@[simp] theorem Dev.updBoot_rd (d : Dev) (f : Boot → Boot) (die : Nat) (g : Fld) : (d.updBoot f).rd die g = d.rd die g := rfl

/-- The field that `updSio` writes. -/
@[simp] theorem Dev.updSio_sio (d : Dev) (f : Sio → Sio) : (d.updSio f).sio = f d.sio := rfl

/-- `updSio` leaves every other field as it was. -/
@[simp] theorem Dev.updSio_fields (d : Dev) (f : Sio → Sio) :
  (d.updSio f).nv = d.nv ∧ (d.updSio f).on = d.on ∧ (d.updSio f).seed = d.seed ∧ (d.updSio f).out = d.out ∧ (d.updSio f).regs = d.regs ∧
    (d.updSio f).regsSt = d.regsSt ∧ (d.updSio f).charter = d.charter ∧ (d.updSio f).mem = d.mem ∧ (d.updSio f).poison = d.poison ∧
    (d.updSio f).spadPoison = d.spadPoison ∧ (d.updSio f).owner = d.owner ∧ (d.updSio f).flaws = d.flaws ∧ (d.updSio f).findings = d.findings ∧
    (d.updSio f).sysCache = d.sysCache ∧ (d.updSio f).coreCache = d.coreCache ∧ (d.updSio f).chains = d.chains ∧ (d.updSio f).wcb = d.wcb ∧
    (d.updSio f).stew = d.stew ∧ (d.updSio f).charge = d.charge ∧ (d.updSio f).held = d.held ∧ (d.updSio f).peerHeld = d.peerHeld ∧
    (d.updSio f).tlb = d.tlb ∧ (d.updSio f).walks = d.walks ∧ (d.updSio f).tlbTree = d.tlbTree ∧ (d.updSio f).walkTree = d.walkTree ∧
    (d.updSio f).perches = d.perches ∧ (d.updSio f).spadErr = d.spadErr ∧ (d.updSio f).spans = d.spans ∧ (d.updSio f).conts = d.conts ∧
    (d.updSio f).elapsed = d.elapsed ∧ (d.updSio f).timeNs = d.timeNs ∧ (d.updSio f).kernelPa = d.kernelPa ∧ (d.updSio f).runs = d.runs ∧
    (d.updSio f).spanStarts = d.spanStarts ∧ (d.updSio f).lateIn = d.lateIn ∧ (d.updSio f).overrunDue = d.overrunDue ∧ (d.updSio f).errNew = d.errNew ∧
    (d.updSio f).healthDue = d.healthDue ∧ (d.updSio f).rowTrack = d.rowTrack ∧ (d.updSio f).rowMaps = d.rowMaps ∧
    (d.updSio f).bankSpares = d.bankSpares ∧ (d.updSio f).pagePend = d.pagePend ∧ (d.updSio f).pageLate = d.pageLate ∧
    (d.updSio f).fathomCorr = d.fathomCorr ∧ (d.updSio f).scrub = d.scrub ∧ (d.updSio f).harts = d.harts ∧ (d.updSio f).invCmd = d.invCmd ∧
    (d.updSio f).ownCmd = d.ownCmd ∧ (d.updSio f).moves = d.moves ∧ (d.updSio f).nvme = d.nvme ∧ (d.updSio f).noPlane = d.noPlane ∧
    (d.updSio f).colls = d.colls ∧ (d.updSio f).hif = d.hif ∧ (d.updSio f).league = d.league ∧ (d.updSio f).gen = d.gen ∧ (d.updSio f).power = d.power ∧
    (d.updSio f).boot = d.boot ∧ (d.updSio f).alerts = d.alerts ∧ (d.updSio f).remote = d.remote ∧ (d.updSio f).nextTag = d.nextTag := by
  simp [Dev.updSio]

/-- `updSio` changes no register. -/
@[simp] theorem Dev.updSio_rd (d : Dev) (f : Sio → Sio) (die : Nat) (g : Fld) : (d.updSio f).rd die g = d.rd die g := rfl

/-- The field that `setOwner` writes. -/
@[simp] theorem Dev.setOwner_owner (d : Dev) (i v : Nat) : (d.setOwner i v).owner = KMap.set 0xFF#8 d.owner i (BitVec.ofNat 8 v) := rfl

/-- `setOwner` leaves every other field as it was. -/
@[simp] theorem Dev.setOwner_fields (d : Dev) (i v : Nat) :
  (d.setOwner i v).nv = d.nv ∧ (d.setOwner i v).on = d.on ∧ (d.setOwner i v).seed = d.seed ∧ (d.setOwner i v).out = d.out ∧
    (d.setOwner i v).regs = d.regs ∧ (d.setOwner i v).regsSt = d.regsSt ∧ (d.setOwner i v).charter = d.charter ∧ (d.setOwner i v).mem = d.mem ∧
    (d.setOwner i v).poison = d.poison ∧ (d.setOwner i v).spadPoison = d.spadPoison ∧ (d.setOwner i v).flaws = d.flaws ∧
    (d.setOwner i v).findings = d.findings ∧ (d.setOwner i v).sysCache = d.sysCache ∧ (d.setOwner i v).coreCache = d.coreCache ∧
    (d.setOwner i v).chains = d.chains ∧ (d.setOwner i v).wcb = d.wcb ∧ (d.setOwner i v).stew = d.stew ∧ (d.setOwner i v).charge = d.charge ∧
    (d.setOwner i v).held = d.held ∧ (d.setOwner i v).peerHeld = d.peerHeld ∧ (d.setOwner i v).tlb = d.tlb ∧ (d.setOwner i v).walks = d.walks ∧
    (d.setOwner i v).tlbTree = d.tlbTree ∧ (d.setOwner i v).walkTree = d.walkTree ∧ (d.setOwner i v).perches = d.perches ∧
    (d.setOwner i v).spadErr = d.spadErr ∧ (d.setOwner i v).spans = d.spans ∧ (d.setOwner i v).conts = d.conts ∧ (d.setOwner i v).elapsed = d.elapsed ∧
    (d.setOwner i v).timeNs = d.timeNs ∧ (d.setOwner i v).kernelPa = d.kernelPa ∧ (d.setOwner i v).runs = d.runs ∧
    (d.setOwner i v).spanStarts = d.spanStarts ∧ (d.setOwner i v).lateIn = d.lateIn ∧ (d.setOwner i v).overrunDue = d.overrunDue ∧
    (d.setOwner i v).errNew = d.errNew ∧ (d.setOwner i v).healthDue = d.healthDue ∧ (d.setOwner i v).rowTrack = d.rowTrack ∧
    (d.setOwner i v).rowMaps = d.rowMaps ∧ (d.setOwner i v).bankSpares = d.bankSpares ∧ (d.setOwner i v).pagePend = d.pagePend ∧
    (d.setOwner i v).pageLate = d.pageLate ∧ (d.setOwner i v).fathomCorr = d.fathomCorr ∧ (d.setOwner i v).scrub = d.scrub ∧
    (d.setOwner i v).harts = d.harts ∧ (d.setOwner i v).invCmd = d.invCmd ∧ (d.setOwner i v).ownCmd = d.ownCmd ∧ (d.setOwner i v).moves = d.moves ∧
    (d.setOwner i v).nvme = d.nvme ∧ (d.setOwner i v).noPlane = d.noPlane ∧ (d.setOwner i v).colls = d.colls ∧ (d.setOwner i v).hif = d.hif ∧
    (d.setOwner i v).league = d.league ∧ (d.setOwner i v).sio = d.sio ∧ (d.setOwner i v).gen = d.gen ∧ (d.setOwner i v).power = d.power ∧
    (d.setOwner i v).boot = d.boot ∧ (d.setOwner i v).alerts = d.alerts ∧ (d.setOwner i v).remote = d.remote ∧ (d.setOwner i v).nextTag = d.nextTag := by
  simp [Dev.setOwner]

/-- `setOwner` changes no register. -/
@[simp] theorem Dev.setOwner_rd (d : Dev) (i v : Nat) (die : Nat) (g : Fld) : (d.setOwner i v).rd die g = d.rd die g := rfl

/-- The field that `setSpan` writes. -/
@[simp] theorem Dev.setSpan_spans (d : Dev) (id : Nat) (i : SpanInfo) : (d.setSpan id i).spans = KMap.set {} d.spans id i := rfl

/-- `setSpan` leaves every other field as it was. -/
@[simp] theorem Dev.setSpan_fields (d : Dev) (id : Nat) (i : SpanInfo) :
  (d.setSpan id i).nv = d.nv ∧ (d.setSpan id i).on = d.on ∧ (d.setSpan id i).seed = d.seed ∧ (d.setSpan id i).out = d.out ∧
    (d.setSpan id i).regs = d.regs ∧ (d.setSpan id i).regsSt = d.regsSt ∧ (d.setSpan id i).charter = d.charter ∧ (d.setSpan id i).mem = d.mem ∧
    (d.setSpan id i).poison = d.poison ∧ (d.setSpan id i).spadPoison = d.spadPoison ∧ (d.setSpan id i).owner = d.owner ∧
    (d.setSpan id i).flaws = d.flaws ∧ (d.setSpan id i).findings = d.findings ∧ (d.setSpan id i).sysCache = d.sysCache ∧
    (d.setSpan id i).coreCache = d.coreCache ∧ (d.setSpan id i).chains = d.chains ∧ (d.setSpan id i).wcb = d.wcb ∧ (d.setSpan id i).stew = d.stew ∧
    (d.setSpan id i).charge = d.charge ∧ (d.setSpan id i).held = d.held ∧ (d.setSpan id i).peerHeld = d.peerHeld ∧ (d.setSpan id i).tlb = d.tlb ∧
    (d.setSpan id i).walks = d.walks ∧ (d.setSpan id i).tlbTree = d.tlbTree ∧ (d.setSpan id i).walkTree = d.walkTree ∧
    (d.setSpan id i).perches = d.perches ∧ (d.setSpan id i).spadErr = d.spadErr ∧ (d.setSpan id i).conts = d.conts ∧
    (d.setSpan id i).elapsed = d.elapsed ∧ (d.setSpan id i).timeNs = d.timeNs ∧ (d.setSpan id i).kernelPa = d.kernelPa ∧ (d.setSpan id i).runs = d.runs ∧
    (d.setSpan id i).spanStarts = d.spanStarts ∧ (d.setSpan id i).lateIn = d.lateIn ∧ (d.setSpan id i).overrunDue = d.overrunDue ∧
    (d.setSpan id i).errNew = d.errNew ∧ (d.setSpan id i).healthDue = d.healthDue ∧ (d.setSpan id i).rowTrack = d.rowTrack ∧
    (d.setSpan id i).rowMaps = d.rowMaps ∧ (d.setSpan id i).bankSpares = d.bankSpares ∧ (d.setSpan id i).pagePend = d.pagePend ∧
    (d.setSpan id i).pageLate = d.pageLate ∧ (d.setSpan id i).fathomCorr = d.fathomCorr ∧ (d.setSpan id i).scrub = d.scrub ∧
    (d.setSpan id i).harts = d.harts ∧ (d.setSpan id i).invCmd = d.invCmd ∧ (d.setSpan id i).ownCmd = d.ownCmd ∧ (d.setSpan id i).moves = d.moves ∧
    (d.setSpan id i).nvme = d.nvme ∧ (d.setSpan id i).noPlane = d.noPlane ∧ (d.setSpan id i).colls = d.colls ∧ (d.setSpan id i).hif = d.hif ∧
    (d.setSpan id i).league = d.league ∧ (d.setSpan id i).sio = d.sio ∧ (d.setSpan id i).gen = d.gen ∧ (d.setSpan id i).power = d.power ∧
    (d.setSpan id i).boot = d.boot ∧ (d.setSpan id i).alerts = d.alerts ∧ (d.setSpan id i).remote = d.remote ∧ (d.setSpan id i).nextTag = d.nextTag := by
  simp [Dev.setSpan]

/-- `setSpan` changes no register. -/
@[simp] theorem Dev.setSpan_rd (d : Dev) (id : Nat) (i : SpanInfo) (die : Nat) (g : Fld) : (d.setSpan id i).rd die g = d.rd die g := rfl

/-- The field that `updCont` writes. -/
@[simp] theorem Dev.updCont_conts (d : Dev) (id : Nat) (f : Cont → Cont) : (d.updCont id f).conts = KMap.upd {} d.conts id f := rfl

/-- `updCont` leaves every other field as it was. -/
@[simp] theorem Dev.updCont_fields (d : Dev) (id : Nat) (f : Cont → Cont) :
  (d.updCont id f).nv = d.nv ∧ (d.updCont id f).on = d.on ∧ (d.updCont id f).seed = d.seed ∧ (d.updCont id f).out = d.out ∧
    (d.updCont id f).regs = d.regs ∧ (d.updCont id f).regsSt = d.regsSt ∧ (d.updCont id f).charter = d.charter ∧ (d.updCont id f).mem = d.mem ∧
    (d.updCont id f).poison = d.poison ∧ (d.updCont id f).spadPoison = d.spadPoison ∧ (d.updCont id f).owner = d.owner ∧
    (d.updCont id f).flaws = d.flaws ∧ (d.updCont id f).findings = d.findings ∧ (d.updCont id f).sysCache = d.sysCache ∧
    (d.updCont id f).coreCache = d.coreCache ∧ (d.updCont id f).chains = d.chains ∧ (d.updCont id f).wcb = d.wcb ∧ (d.updCont id f).stew = d.stew ∧
    (d.updCont id f).charge = d.charge ∧ (d.updCont id f).held = d.held ∧ (d.updCont id f).peerHeld = d.peerHeld ∧ (d.updCont id f).tlb = d.tlb ∧
    (d.updCont id f).walks = d.walks ∧ (d.updCont id f).tlbTree = d.tlbTree ∧ (d.updCont id f).walkTree = d.walkTree ∧
    (d.updCont id f).perches = d.perches ∧ (d.updCont id f).spadErr = d.spadErr ∧ (d.updCont id f).spans = d.spans ∧
    (d.updCont id f).elapsed = d.elapsed ∧ (d.updCont id f).timeNs = d.timeNs ∧ (d.updCont id f).kernelPa = d.kernelPa ∧ (d.updCont id f).runs = d.runs ∧
    (d.updCont id f).spanStarts = d.spanStarts ∧ (d.updCont id f).lateIn = d.lateIn ∧ (d.updCont id f).overrunDue = d.overrunDue ∧
    (d.updCont id f).errNew = d.errNew ∧ (d.updCont id f).healthDue = d.healthDue ∧ (d.updCont id f).rowTrack = d.rowTrack ∧
    (d.updCont id f).rowMaps = d.rowMaps ∧ (d.updCont id f).bankSpares = d.bankSpares ∧ (d.updCont id f).pagePend = d.pagePend ∧
    (d.updCont id f).pageLate = d.pageLate ∧ (d.updCont id f).fathomCorr = d.fathomCorr ∧ (d.updCont id f).scrub = d.scrub ∧
    (d.updCont id f).harts = d.harts ∧ (d.updCont id f).invCmd = d.invCmd ∧ (d.updCont id f).ownCmd = d.ownCmd ∧ (d.updCont id f).moves = d.moves ∧
    (d.updCont id f).nvme = d.nvme ∧ (d.updCont id f).noPlane = d.noPlane ∧ (d.updCont id f).colls = d.colls ∧ (d.updCont id f).hif = d.hif ∧
    (d.updCont id f).league = d.league ∧ (d.updCont id f).sio = d.sio ∧ (d.updCont id f).gen = d.gen ∧ (d.updCont id f).power = d.power ∧
    (d.updCont id f).boot = d.boot ∧ (d.updCont id f).alerts = d.alerts ∧ (d.updCont id f).remote = d.remote ∧ (d.updCont id f).nextTag = d.nextTag := by
  simp [Dev.updCont]

/-- `updCont` changes no register. -/
@[simp] theorem Dev.updCont_rd (d : Dev) (id : Nat) (f : Cont → Cont) (die : Nat) (g : Fld) : (d.updCont id f).rd die g = d.rd die g := rfl

/-- The field that `updColl` writes. -/
@[simp] theorem Dev.updColl_colls (d : Dev) (coll : Nat) (f : CollDefState → CollDefState) : (d.updColl coll f).colls = KMap.upd {} d.colls coll f := rfl

/-- `updColl` leaves every other field as it was. -/
@[simp] theorem Dev.updColl_fields (d : Dev) (coll : Nat) (f : CollDefState → CollDefState) :
  (d.updColl coll f).nv = d.nv ∧ (d.updColl coll f).on = d.on ∧ (d.updColl coll f).seed = d.seed ∧ (d.updColl coll f).out = d.out ∧
    (d.updColl coll f).regs = d.regs ∧ (d.updColl coll f).regsSt = d.regsSt ∧ (d.updColl coll f).charter = d.charter ∧ (d.updColl coll f).mem = d.mem ∧
    (d.updColl coll f).poison = d.poison ∧ (d.updColl coll f).spadPoison = d.spadPoison ∧ (d.updColl coll f).owner = d.owner ∧
    (d.updColl coll f).flaws = d.flaws ∧ (d.updColl coll f).findings = d.findings ∧ (d.updColl coll f).sysCache = d.sysCache ∧
    (d.updColl coll f).coreCache = d.coreCache ∧ (d.updColl coll f).chains = d.chains ∧ (d.updColl coll f).wcb = d.wcb ∧
    (d.updColl coll f).stew = d.stew ∧ (d.updColl coll f).charge = d.charge ∧ (d.updColl coll f).held = d.held ∧
    (d.updColl coll f).peerHeld = d.peerHeld ∧ (d.updColl coll f).tlb = d.tlb ∧ (d.updColl coll f).walks = d.walks ∧
    (d.updColl coll f).tlbTree = d.tlbTree ∧ (d.updColl coll f).walkTree = d.walkTree ∧ (d.updColl coll f).perches = d.perches ∧
    (d.updColl coll f).spadErr = d.spadErr ∧ (d.updColl coll f).spans = d.spans ∧ (d.updColl coll f).conts = d.conts ∧
    (d.updColl coll f).elapsed = d.elapsed ∧ (d.updColl coll f).timeNs = d.timeNs ∧ (d.updColl coll f).kernelPa = d.kernelPa ∧
    (d.updColl coll f).runs = d.runs ∧ (d.updColl coll f).spanStarts = d.spanStarts ∧ (d.updColl coll f).lateIn = d.lateIn ∧
    (d.updColl coll f).overrunDue = d.overrunDue ∧ (d.updColl coll f).errNew = d.errNew ∧ (d.updColl coll f).healthDue = d.healthDue ∧
    (d.updColl coll f).rowTrack = d.rowTrack ∧ (d.updColl coll f).rowMaps = d.rowMaps ∧ (d.updColl coll f).bankSpares = d.bankSpares ∧
    (d.updColl coll f).pagePend = d.pagePend ∧ (d.updColl coll f).pageLate = d.pageLate ∧ (d.updColl coll f).fathomCorr = d.fathomCorr ∧
    (d.updColl coll f).scrub = d.scrub ∧ (d.updColl coll f).harts = d.harts ∧ (d.updColl coll f).invCmd = d.invCmd ∧
    (d.updColl coll f).ownCmd = d.ownCmd ∧ (d.updColl coll f).moves = d.moves ∧ (d.updColl coll f).nvme = d.nvme ∧
    (d.updColl coll f).noPlane = d.noPlane ∧ (d.updColl coll f).hif = d.hif ∧ (d.updColl coll f).league = d.league ∧ (d.updColl coll f).sio = d.sio ∧
    (d.updColl coll f).gen = d.gen ∧ (d.updColl coll f).power = d.power ∧ (d.updColl coll f).boot = d.boot ∧ (d.updColl coll f).alerts = d.alerts ∧
    (d.updColl coll f).remote = d.remote ∧ (d.updColl coll f).nextTag = d.nextTag := by
  simp [Dev.updColl]

/-- `updColl` changes no register. -/
@[simp] theorem Dev.updColl_rd (d : Dev) (coll : Nat) (f : CollDefState → CollDefState) (die : Nat) (g : Fld) : (d.updColl coll f).rd die g = d.rd die g := rfl

/-- The field that `setMove` writes. -/
@[simp] theorem Dev.setMove_moves (d : Dev) (die entry : Nat) (m : MoveRun) : (d.setMove die entry m).moves = KMap.set {} d.moves (die * 65536 + entry) m := rfl

/-- `setMove` leaves every other field as it was. -/
@[simp] theorem Dev.setMove_fields (d : Dev) (die entry : Nat) (m : MoveRun) :
  (d.setMove die entry m).nv = d.nv ∧ (d.setMove die entry m).on = d.on ∧ (d.setMove die entry m).seed = d.seed ∧ (d.setMove die entry m).out = d.out ∧
    (d.setMove die entry m).regs = d.regs ∧ (d.setMove die entry m).regsSt = d.regsSt ∧ (d.setMove die entry m).charter = d.charter ∧
    (d.setMove die entry m).mem = d.mem ∧ (d.setMove die entry m).poison = d.poison ∧ (d.setMove die entry m).spadPoison = d.spadPoison ∧
    (d.setMove die entry m).owner = d.owner ∧ (d.setMove die entry m).flaws = d.flaws ∧ (d.setMove die entry m).findings = d.findings ∧
    (d.setMove die entry m).sysCache = d.sysCache ∧ (d.setMove die entry m).coreCache = d.coreCache ∧ (d.setMove die entry m).chains = d.chains ∧
    (d.setMove die entry m).wcb = d.wcb ∧ (d.setMove die entry m).stew = d.stew ∧ (d.setMove die entry m).charge = d.charge ∧
    (d.setMove die entry m).held = d.held ∧ (d.setMove die entry m).peerHeld = d.peerHeld ∧ (d.setMove die entry m).tlb = d.tlb ∧
    (d.setMove die entry m).walks = d.walks ∧ (d.setMove die entry m).tlbTree = d.tlbTree ∧ (d.setMove die entry m).walkTree = d.walkTree ∧
    (d.setMove die entry m).perches = d.perches ∧ (d.setMove die entry m).spadErr = d.spadErr ∧ (d.setMove die entry m).spans = d.spans ∧
    (d.setMove die entry m).conts = d.conts ∧ (d.setMove die entry m).elapsed = d.elapsed ∧ (d.setMove die entry m).timeNs = d.timeNs ∧
    (d.setMove die entry m).kernelPa = d.kernelPa ∧ (d.setMove die entry m).runs = d.runs ∧ (d.setMove die entry m).spanStarts = d.spanStarts ∧
    (d.setMove die entry m).lateIn = d.lateIn ∧ (d.setMove die entry m).overrunDue = d.overrunDue ∧ (d.setMove die entry m).errNew = d.errNew ∧
    (d.setMove die entry m).healthDue = d.healthDue ∧ (d.setMove die entry m).rowTrack = d.rowTrack ∧ (d.setMove die entry m).rowMaps = d.rowMaps ∧
    (d.setMove die entry m).bankSpares = d.bankSpares ∧ (d.setMove die entry m).pagePend = d.pagePend ∧ (d.setMove die entry m).pageLate = d.pageLate ∧
    (d.setMove die entry m).fathomCorr = d.fathomCorr ∧ (d.setMove die entry m).scrub = d.scrub ∧ (d.setMove die entry m).harts = d.harts ∧
    (d.setMove die entry m).invCmd = d.invCmd ∧ (d.setMove die entry m).ownCmd = d.ownCmd ∧ (d.setMove die entry m).nvme = d.nvme ∧
    (d.setMove die entry m).noPlane = d.noPlane ∧ (d.setMove die entry m).colls = d.colls ∧ (d.setMove die entry m).hif = d.hif ∧
    (d.setMove die entry m).league = d.league ∧ (d.setMove die entry m).sio = d.sio ∧ (d.setMove die entry m).gen = d.gen ∧
    (d.setMove die entry m).power = d.power ∧ (d.setMove die entry m).boot = d.boot ∧ (d.setMove die entry m).alerts = d.alerts ∧
    (d.setMove die entry m).remote = d.remote ∧ (d.setMove die entry m).nextTag = d.nextTag := by
  simp [Dev.setMove]

/-- `setMove` changes no register. -/
@[simp] theorem Dev.setMove_rd (d : Dev) (die entry : Nat) (m : MoveRun) (die : Nat) (g : Fld) : (d.setMove die entry m).rd die g = d.rd die g := rfl

/-- The field that `setNvPort` writes. -/
@[simp] theorem Dev.setNvPort_nvme (d : Dev) (port : Nat) (v : NvmePort) : (d.setNvPort port v).nvme = KMap.set {} d.nvme port v := rfl

/-- `setNvPort` leaves every other field as it was. -/
@[simp] theorem Dev.setNvPort_fields (d : Dev) (port : Nat) (v : NvmePort) :
  (d.setNvPort port v).nv = d.nv ∧ (d.setNvPort port v).on = d.on ∧ (d.setNvPort port v).seed = d.seed ∧ (d.setNvPort port v).out = d.out ∧
    (d.setNvPort port v).regs = d.regs ∧ (d.setNvPort port v).regsSt = d.regsSt ∧ (d.setNvPort port v).charter = d.charter ∧
    (d.setNvPort port v).mem = d.mem ∧ (d.setNvPort port v).poison = d.poison ∧ (d.setNvPort port v).spadPoison = d.spadPoison ∧
    (d.setNvPort port v).owner = d.owner ∧ (d.setNvPort port v).flaws = d.flaws ∧ (d.setNvPort port v).findings = d.findings ∧
    (d.setNvPort port v).sysCache = d.sysCache ∧ (d.setNvPort port v).coreCache = d.coreCache ∧ (d.setNvPort port v).chains = d.chains ∧
    (d.setNvPort port v).wcb = d.wcb ∧ (d.setNvPort port v).stew = d.stew ∧ (d.setNvPort port v).charge = d.charge ∧ (d.setNvPort port v).held = d.held ∧
    (d.setNvPort port v).peerHeld = d.peerHeld ∧ (d.setNvPort port v).tlb = d.tlb ∧ (d.setNvPort port v).walks = d.walks ∧
    (d.setNvPort port v).tlbTree = d.tlbTree ∧ (d.setNvPort port v).walkTree = d.walkTree ∧ (d.setNvPort port v).perches = d.perches ∧
    (d.setNvPort port v).spadErr = d.spadErr ∧ (d.setNvPort port v).spans = d.spans ∧ (d.setNvPort port v).conts = d.conts ∧
    (d.setNvPort port v).elapsed = d.elapsed ∧ (d.setNvPort port v).timeNs = d.timeNs ∧ (d.setNvPort port v).kernelPa = d.kernelPa ∧
    (d.setNvPort port v).runs = d.runs ∧ (d.setNvPort port v).spanStarts = d.spanStarts ∧ (d.setNvPort port v).lateIn = d.lateIn ∧
    (d.setNvPort port v).overrunDue = d.overrunDue ∧ (d.setNvPort port v).errNew = d.errNew ∧ (d.setNvPort port v).healthDue = d.healthDue ∧
    (d.setNvPort port v).rowTrack = d.rowTrack ∧ (d.setNvPort port v).rowMaps = d.rowMaps ∧ (d.setNvPort port v).bankSpares = d.bankSpares ∧
    (d.setNvPort port v).pagePend = d.pagePend ∧ (d.setNvPort port v).pageLate = d.pageLate ∧ (d.setNvPort port v).fathomCorr = d.fathomCorr ∧
    (d.setNvPort port v).scrub = d.scrub ∧ (d.setNvPort port v).harts = d.harts ∧ (d.setNvPort port v).invCmd = d.invCmd ∧
    (d.setNvPort port v).ownCmd = d.ownCmd ∧ (d.setNvPort port v).moves = d.moves ∧ (d.setNvPort port v).noPlane = d.noPlane ∧
    (d.setNvPort port v).colls = d.colls ∧ (d.setNvPort port v).hif = d.hif ∧ (d.setNvPort port v).league = d.league ∧ (d.setNvPort port v).sio = d.sio ∧
    (d.setNvPort port v).gen = d.gen ∧ (d.setNvPort port v).power = d.power ∧ (d.setNvPort port v).boot = d.boot ∧
    (d.setNvPort port v).alerts = d.alerts ∧ (d.setNvPort port v).remote = d.remote ∧ (d.setNvPort port v).nextTag = d.nextTag := by
  simp [Dev.setNvPort]

/-- `setNvPort` changes no register. -/
@[simp] theorem Dev.setNvPort_rd (d : Dev) (port : Nat) (v : NvmePort) (die : Nat) (g : Fld) : (d.setNvPort port v).rd die g = d.rd die g := rfl

/-- The field that `setPoison` writes. -/
@[simp] theorem Dev.setPoison_poison (d : Dev) (sector : Nat) (b : Bool) : (d.setPoison sector b).poison = KMap.set 0 d.poison sector (b2n b) := rfl

/-- `setPoison` leaves every other field as it was. -/
@[simp] theorem Dev.setPoison_fields (d : Dev) (sector : Nat) (b : Bool) :
  (d.setPoison sector b).nv = d.nv ∧ (d.setPoison sector b).on = d.on ∧ (d.setPoison sector b).seed = d.seed ∧ (d.setPoison sector b).out = d.out ∧
    (d.setPoison sector b).regs = d.regs ∧ (d.setPoison sector b).regsSt = d.regsSt ∧ (d.setPoison sector b).charter = d.charter ∧
    (d.setPoison sector b).mem = d.mem ∧ (d.setPoison sector b).spadPoison = d.spadPoison ∧ (d.setPoison sector b).owner = d.owner ∧
    (d.setPoison sector b).flaws = d.flaws ∧ (d.setPoison sector b).findings = d.findings ∧ (d.setPoison sector b).sysCache = d.sysCache ∧
    (d.setPoison sector b).coreCache = d.coreCache ∧ (d.setPoison sector b).chains = d.chains ∧ (d.setPoison sector b).wcb = d.wcb ∧
    (d.setPoison sector b).stew = d.stew ∧ (d.setPoison sector b).charge = d.charge ∧ (d.setPoison sector b).held = d.held ∧
    (d.setPoison sector b).peerHeld = d.peerHeld ∧ (d.setPoison sector b).tlb = d.tlb ∧ (d.setPoison sector b).walks = d.walks ∧
    (d.setPoison sector b).tlbTree = d.tlbTree ∧ (d.setPoison sector b).walkTree = d.walkTree ∧ (d.setPoison sector b).perches = d.perches ∧
    (d.setPoison sector b).spadErr = d.spadErr ∧ (d.setPoison sector b).spans = d.spans ∧ (d.setPoison sector b).conts = d.conts ∧
    (d.setPoison sector b).elapsed = d.elapsed ∧ (d.setPoison sector b).timeNs = d.timeNs ∧ (d.setPoison sector b).kernelPa = d.kernelPa ∧
    (d.setPoison sector b).runs = d.runs ∧ (d.setPoison sector b).spanStarts = d.spanStarts ∧ (d.setPoison sector b).lateIn = d.lateIn ∧
    (d.setPoison sector b).overrunDue = d.overrunDue ∧ (d.setPoison sector b).errNew = d.errNew ∧ (d.setPoison sector b).healthDue = d.healthDue ∧
    (d.setPoison sector b).rowTrack = d.rowTrack ∧ (d.setPoison sector b).rowMaps = d.rowMaps ∧ (d.setPoison sector b).bankSpares = d.bankSpares ∧
    (d.setPoison sector b).pagePend = d.pagePend ∧ (d.setPoison sector b).pageLate = d.pageLate ∧ (d.setPoison sector b).fathomCorr = d.fathomCorr ∧
    (d.setPoison sector b).scrub = d.scrub ∧ (d.setPoison sector b).harts = d.harts ∧ (d.setPoison sector b).invCmd = d.invCmd ∧
    (d.setPoison sector b).ownCmd = d.ownCmd ∧ (d.setPoison sector b).moves = d.moves ∧ (d.setPoison sector b).nvme = d.nvme ∧
    (d.setPoison sector b).noPlane = d.noPlane ∧ (d.setPoison sector b).colls = d.colls ∧ (d.setPoison sector b).hif = d.hif ∧
    (d.setPoison sector b).league = d.league ∧ (d.setPoison sector b).sio = d.sio ∧ (d.setPoison sector b).gen = d.gen ∧
    (d.setPoison sector b).power = d.power ∧ (d.setPoison sector b).boot = d.boot ∧ (d.setPoison sector b).alerts = d.alerts ∧
    (d.setPoison sector b).remote = d.remote ∧ (d.setPoison sector b).nextTag = d.nextTag := by
  simp [Dev.setPoison]

/-- `setPoison` changes no register. -/
@[simp] theorem Dev.setPoison_rd (d : Dev) (sector : Nat) (b : Bool) (die : Nat) (g : Fld) : (d.setPoison sector b).rd die g = d.rd die g := rfl

/-- The field that `setSysc` writes. -/
@[simp] theorem Dev.setSysc_sysCache (d : Dev) (die : Nat) (c : Cache) : (d.setSysc die c).sysCache = KMap.set {} d.sysCache die c := rfl

/-- `setSysc` leaves every other field as it was. -/
@[simp] theorem Dev.setSysc_fields (d : Dev) (die : Nat) (c : Cache) :
  (d.setSysc die c).nv = d.nv ∧ (d.setSysc die c).on = d.on ∧ (d.setSysc die c).seed = d.seed ∧ (d.setSysc die c).out = d.out ∧
    (d.setSysc die c).regs = d.regs ∧ (d.setSysc die c).regsSt = d.regsSt ∧ (d.setSysc die c).charter = d.charter ∧ (d.setSysc die c).mem = d.mem ∧
    (d.setSysc die c).poison = d.poison ∧ (d.setSysc die c).spadPoison = d.spadPoison ∧ (d.setSysc die c).owner = d.owner ∧
    (d.setSysc die c).flaws = d.flaws ∧ (d.setSysc die c).findings = d.findings ∧ (d.setSysc die c).coreCache = d.coreCache ∧
    (d.setSysc die c).chains = d.chains ∧ (d.setSysc die c).wcb = d.wcb ∧ (d.setSysc die c).stew = d.stew ∧ (d.setSysc die c).charge = d.charge ∧
    (d.setSysc die c).held = d.held ∧ (d.setSysc die c).peerHeld = d.peerHeld ∧ (d.setSysc die c).tlb = d.tlb ∧ (d.setSysc die c).walks = d.walks ∧
    (d.setSysc die c).tlbTree = d.tlbTree ∧ (d.setSysc die c).walkTree = d.walkTree ∧ (d.setSysc die c).perches = d.perches ∧
    (d.setSysc die c).spadErr = d.spadErr ∧ (d.setSysc die c).spans = d.spans ∧ (d.setSysc die c).conts = d.conts ∧
    (d.setSysc die c).elapsed = d.elapsed ∧ (d.setSysc die c).timeNs = d.timeNs ∧ (d.setSysc die c).kernelPa = d.kernelPa ∧
    (d.setSysc die c).runs = d.runs ∧ (d.setSysc die c).spanStarts = d.spanStarts ∧ (d.setSysc die c).lateIn = d.lateIn ∧
    (d.setSysc die c).overrunDue = d.overrunDue ∧ (d.setSysc die c).errNew = d.errNew ∧ (d.setSysc die c).healthDue = d.healthDue ∧
    (d.setSysc die c).rowTrack = d.rowTrack ∧ (d.setSysc die c).rowMaps = d.rowMaps ∧ (d.setSysc die c).bankSpares = d.bankSpares ∧
    (d.setSysc die c).pagePend = d.pagePend ∧ (d.setSysc die c).pageLate = d.pageLate ∧ (d.setSysc die c).fathomCorr = d.fathomCorr ∧
    (d.setSysc die c).scrub = d.scrub ∧ (d.setSysc die c).harts = d.harts ∧ (d.setSysc die c).invCmd = d.invCmd ∧ (d.setSysc die c).ownCmd = d.ownCmd ∧
    (d.setSysc die c).moves = d.moves ∧ (d.setSysc die c).nvme = d.nvme ∧ (d.setSysc die c).noPlane = d.noPlane ∧ (d.setSysc die c).colls = d.colls ∧
    (d.setSysc die c).hif = d.hif ∧ (d.setSysc die c).league = d.league ∧ (d.setSysc die c).sio = d.sio ∧ (d.setSysc die c).gen = d.gen ∧
    (d.setSysc die c).power = d.power ∧ (d.setSysc die c).boot = d.boot ∧ (d.setSysc die c).alerts = d.alerts ∧ (d.setSysc die c).remote = d.remote ∧
    (d.setSysc die c).nextTag = d.nextTag := by
  simp [Dev.setSysc]

/-- `setSysc` changes no register. -/
@[simp] theorem Dev.setSysc_rd (d : Dev) (die : Nat) (c : Cache) (die : Nat) (g : Fld) : (d.setSysc die c).rd die g = d.rd die g := rfl

/-- The field that `setChain` writes. -/
@[simp] theorem Dev.setChain_chains (d : Dev) (die chain : Nat) (c : ChainCache) : (d.setChain die chain c).chains = KMap.set {} d.chains (mmuChain die chain) c := rfl

/-- `setChain` leaves every other field as it was. -/
@[simp] theorem Dev.setChain_fields (d : Dev) (die chain : Nat) (c : ChainCache) :
  (d.setChain die chain c).nv = d.nv ∧ (d.setChain die chain c).on = d.on ∧ (d.setChain die chain c).seed = d.seed ∧
    (d.setChain die chain c).out = d.out ∧ (d.setChain die chain c).regs = d.regs ∧ (d.setChain die chain c).regsSt = d.regsSt ∧
    (d.setChain die chain c).charter = d.charter ∧ (d.setChain die chain c).mem = d.mem ∧ (d.setChain die chain c).poison = d.poison ∧
    (d.setChain die chain c).spadPoison = d.spadPoison ∧ (d.setChain die chain c).owner = d.owner ∧ (d.setChain die chain c).flaws = d.flaws ∧
    (d.setChain die chain c).findings = d.findings ∧ (d.setChain die chain c).sysCache = d.sysCache ∧ (d.setChain die chain c).coreCache = d.coreCache ∧
    (d.setChain die chain c).wcb = d.wcb ∧ (d.setChain die chain c).stew = d.stew ∧ (d.setChain die chain c).charge = d.charge ∧
    (d.setChain die chain c).held = d.held ∧ (d.setChain die chain c).peerHeld = d.peerHeld ∧ (d.setChain die chain c).tlb = d.tlb ∧
    (d.setChain die chain c).walks = d.walks ∧ (d.setChain die chain c).tlbTree = d.tlbTree ∧ (d.setChain die chain c).walkTree = d.walkTree ∧
    (d.setChain die chain c).perches = d.perches ∧ (d.setChain die chain c).spadErr = d.spadErr ∧ (d.setChain die chain c).spans = d.spans ∧
    (d.setChain die chain c).conts = d.conts ∧ (d.setChain die chain c).elapsed = d.elapsed ∧ (d.setChain die chain c).timeNs = d.timeNs ∧
    (d.setChain die chain c).kernelPa = d.kernelPa ∧ (d.setChain die chain c).runs = d.runs ∧ (d.setChain die chain c).spanStarts = d.spanStarts ∧
    (d.setChain die chain c).lateIn = d.lateIn ∧ (d.setChain die chain c).overrunDue = d.overrunDue ∧ (d.setChain die chain c).errNew = d.errNew ∧
    (d.setChain die chain c).healthDue = d.healthDue ∧ (d.setChain die chain c).rowTrack = d.rowTrack ∧ (d.setChain die chain c).rowMaps = d.rowMaps ∧
    (d.setChain die chain c).bankSpares = d.bankSpares ∧ (d.setChain die chain c).pagePend = d.pagePend ∧ (d.setChain die chain c).pageLate = d.pageLate ∧
    (d.setChain die chain c).fathomCorr = d.fathomCorr ∧ (d.setChain die chain c).scrub = d.scrub ∧ (d.setChain die chain c).harts = d.harts ∧
    (d.setChain die chain c).invCmd = d.invCmd ∧ (d.setChain die chain c).ownCmd = d.ownCmd ∧ (d.setChain die chain c).moves = d.moves ∧
    (d.setChain die chain c).nvme = d.nvme ∧ (d.setChain die chain c).noPlane = d.noPlane ∧ (d.setChain die chain c).colls = d.colls ∧
    (d.setChain die chain c).hif = d.hif ∧ (d.setChain die chain c).league = d.league ∧ (d.setChain die chain c).sio = d.sio ∧
    (d.setChain die chain c).gen = d.gen ∧ (d.setChain die chain c).power = d.power ∧ (d.setChain die chain c).boot = d.boot ∧
    (d.setChain die chain c).alerts = d.alerts ∧ (d.setChain die chain c).remote = d.remote ∧ (d.setChain die chain c).nextTag = d.nextTag := by
  simp [Dev.setChain]

/-- `setChain` changes no register. -/
@[simp] theorem Dev.setChain_rd (d : Dev) (die chain : Nat) (c : ChainCache) (die : Nat) (g : Fld) : (d.setChain die chain c).rd die g = d.rd die g := rfl

/-- The perch written reads as written, every other as before. -/
theorem Dev.perch_setPerch (d : Dev) (p q : Nat) (v : Perch) : (d.setPerch p v).perch q = if q = p then v else d.perch q := KMap.get_set _ _ _ _ _

@[simp] theorem Dev.perch_setPerch_same (d : Dev) (p : Nat) (v : Perch) : (d.setPerch p v).perch p = v := KMap.get_set_same _ _ _ _

theorem Dev.perch_updPerch (d : Dev) (p q : Nat) (f : Perch → Perch) :
    (d.updPerch p f).perch q = if q = p then f (d.perch p) else d.perch q := KMap.get_set _ _ _ _ _

@[simp] theorem Dev.perch_updPerch_same (d : Dev) (p : Nat) (f : Perch → Perch) : (d.updPerch p f).perch p = f (d.perch p) := KMap.get_set_same _ _ _ _

theorem Dev.hart_updHart (d : Dev) (h k : Nat) (f : Hart → Hart) :
    (d.updHart h f).hart k = if k = h then f (d.hart h) else d.hart k := KMap.get_set _ _ _ _ _

@[simp] theorem Dev.hart_updHart_same (d : Dev) (h : Nat) (f : Hart → Hart) : (d.updHart h f).hart h = f (d.hart h) := KMap.get_set_same _ _ _ _

@[simp] theorem Dev.perch_wr (d : Dev) (die : Nat) (g : Fld) (v p : Nat) : (d.wr die g v).perch p = d.perch p := by simp [Dev.perch]

@[simp] theorem Dev.hart_wr (d : Dev) (die : Nat) (g : Fld) (v h : Nat) : (d.wr die g v).hart h = d.hart h := by simp [Dev.hart]

/-- An owner byte written reads as written, every other as before. -/
theorem Dev.ownerOf_setOwner (d : Dev) (i j v : Nat) :
    (d.setOwner i v).ownerOf j = if j = i then v % 256 else d.ownerOf j := by
  unfold Dev.ownerOf Dev.setOwner
  simp only [KMap.get_set]
  by_cases h : j = i <;> simp [h]

end Sys2Proof.Machine
end

