-- ==== Sys2Proof/Laws/Memory.lean ====
section
/-! SUPPORT. The operations over memory keep its canonical form, and a byte stored is the byte read. -/

namespace Sys2Proof.Machine

/-- The canonical form speaks of four fields. -/
theorem Memory.wf_congr {d t : Dev} (h1 : t.mem = d.mem) (h2 : t.poison = d.poison) (h3 : t.spadPoison = d.spadPoison) (h4 : t.owner = d.owner) :
    Memory.wf t = Memory.wf d := by
  simp only [Memory.wf, h1, h2, h3, h4]

/-- A device with the same memory, poison and owners as one in canonical form is in it. -/
theorem Memory.wf_of {d t : Dev} (h : Memory.wf d = true) (h1 : t.mem = d.mem) (h2 : t.poison = d.poison) (h3 : t.spadPoison = d.spadPoison)
    (h4 : t.owner = d.owner) : Memory.wf t = true := (Memory.wf_congr h1 h2 h3 h4).trans h

/-- The canonical form, field by field. -/
theorem Memory.wf_iff (d : Dev) : Memory.wf d = true ↔
    KMap.wf 0#8 d.mem = true ∧ KMap.wf 0 d.poison = true ∧ KMap.wf 0 d.spadPoison = true ∧ KMap.wf 0xFF#8 d.owner = true := by
  simp only [Memory.wf, Bool.and_eq_true, and_assoc]

/-- A fold over operations that keep the canonical form keeps it. -/
theorem Memory.wf_foldl {β : Type} (f : Dev → β → Dev) (hf : ∀ d b, Memory.wf d = true → Memory.wf (f d b) = true) :
    ∀ (l : List β) (d : Dev), Memory.wf d = true → Memory.wf (l.foldl f d) = true
  | [], _, h => h
  | b :: t, d, h => Memory.wf_foldl f hf t (f d b) (hf d b h)

/-- Reset's memory has the canonical form. -/
theorem Memory.wf_reset : Memory.wf State.reset.dev = true := rfl

/-- A register write leaves memory alone. -/
theorem Dev.wr_wf {d : Dev} (die : Nat) (f : Fld) (v : Nat) (h : Memory.wf d = true) : Memory.wf (d.wr die f v) = true := by
  rw [Memory.wf_congr (d := d) (by simp) (by simp) (by simp) (by simp)]; exact h

theorem Dev.inc_wf {d : Dev} (die : Nat) (f : Fld) (n : Nat) (h : Memory.wf d = true) : Memory.wf (d.inc die f n) = true := Dev.wr_wf die f _ h

theorem Dev.incMod_wf {d : Dev} (die : Nat) (f : Fld) (n : Nat) (h : Memory.wf d = true) : Memory.wf (d.incMod die f n) = true := Dev.wr_wf die f _ h

theorem Dev.raiseMax_wf {d : Dev} (die : Nat) (f : Fld) (n : Nat) (h : Memory.wf d = true) : Memory.wf (d.raiseMax die f n) = true := Dev.wr_wf die f _ h

/-- Storing a byte keeps the canonical form. -/
theorem Dev.setRaw_wf {d : Dev} (a : Nat) (b : Byte) (h : Memory.wf d = true) : Memory.wf (d.setRaw a b) = true := by
  rw [Memory.wf_iff] at h ⊢
  unfold Dev.setRaw
  split
  · exact ⟨h.1, h.2.1, h.2.2.1, KMap.wf_set _ _ _ _ h.2.2.2⟩
  · exact ⟨KMap.wf_set _ _ _ _ h.1, h.2⟩

theorem Dev.setRawList_wf : ∀ (l : List Byte) {d : Dev} (a : Nat), Memory.wf d = true → Memory.wf (d.setRawList a l) = true
  | [], _, _, h => h
  | b :: t, _, a, h => Dev.setRawList_wf t (a + 1) (Dev.setRaw_wf a b h)

/-- Marking poison keeps the canonical form. -/
theorem Dev.setPoison_wf {d : Dev} (n : Nat) (b : Bool) (h : Memory.wf d = true) : Memory.wf (d.setPoison n b) = true := by
  rw [Memory.wf_iff] at h ⊢
  exact ⟨h.1, KMap.wf_set _ _ _ _ h.2.1, h.2.2⟩

/-- Writing whole sectors keeps the canonical form. -/
theorem Dev.dramWrite_wf {d : Dev} (line sectors : Nat) (v : List PByte) (h : Memory.wf d = true) : Memory.wf (d.dramWrite line sectors v) = true := by
  refine Memory.wf_foldl _ (fun d s h => ?_) _ _ h
  dsimp only
  split
  · have h1 := Dev.setPoison_wf (line * 4 + s) (((v.drop (32 * s)).take 32).any (·.2))
      (Dev.setRawList_wf (((v.drop (32 * s)).take 32).map (·.1)) (line * 128 + 32 * s) h)
    split
    · exact h1
    · exact Memory.wf_of h1 rfl rfl rfl rfl
  · exact h

/-- Meeting an error keeps the canonical form: it may mark poison. -/
theorem Dev.meetFlaw_wf {d : Dev} (key : Nat) (h : Memory.wf d = true) : Memory.wf (d.meetFlaw key) = true := by
  unfold Dev.meetFlaw
  split
  · exact h
  · exact Memory.wf_of h rfl rfl rfl rfl
  · extract_lets d1 d2
    have h2 : Memory.wf d2 = true := Dev.setPoison_wf _ _ (Memory.wf_of h rfl rfl rfl rfl)
    split
    · exact Dev.setPoison_wf _ _ h2
    · exact h2

/-- A read of DRAM keeps the canonical form. -/
theorem Dev.dramRead_wf {d : Dev} (line sectors : Nat) (h : Memory.wf d = true) : Memory.wf (d.dramRead line sectors) = true := by
  unfold Dev.dramRead
  extract_lets d1
  have h1 : Memory.wf d1 = true := by
    unfold d1
    split
    · exact Dev.incMod_wf _ _ _ h
    · exact h
  split
  · exact h1
  · exact Memory.wf_foldl _ (fun d k h => Dev.meetFlaw_wf k h) _ _ h1

/-- Setting a page's owner keeps the canonical form. -/
theorem Dev.setOwner_wf {d : Dev} (i v : Nat) (h : Memory.wf d = true) : Memory.wf (d.setOwner i v) = true := by
  rw [Memory.wf_iff] at h ⊢
  exact ⟨h.1, h.2.1, h.2.2.1, KMap.wf_set _ _ _ _ h.2.2.2⟩

/-- Issuing an entry of the write-combining buffer keeps the canonical form. -/
theorem Dev.wcbIssue_wf {d : Dev} (e : WcbEntry) (h : Memory.wf d = true) : Memory.wf (d.wcbIssue e) = true := by
  unfold Dev.wcbIssue
  refine Dev.incMod_wf _ _ _ (Dev.inc_wf _ _ _ ?_)
  exact Memory.wf_of (Dev.dramWrite_wf e.line _ _ (Dev.dramRead_wf e.line _ h)) rfl rfl rfl rfl

theorem Dev.wcbPut_wf {d : Dev} (die channel line : Nat) (p : List (Option PByte)) (h : Memory.wf d = true) :
    Memory.wf (d.wcbPut die channel line p) = true := by
  unfold Dev.wcbPut
  split
  · exact h
  · split
    · dsimp only
      split
      · exact Dev.wcbIssue_wf _ (Memory.wf_of h rfl rfl rfl rfl)
      · exact Memory.wf_of h rfl rfl rfl rfl
    · have key : ∀ d' : Dev, Memory.wf d' = true → ∀ (e : WcbEntry) (n : Nat), Memory.wf (if e.mask = 2 ^ 128 - 1
          then (({ d' with wcb := d'.wcb ++ [e] } : Dev).raiseMax die Reg.MEMC_WCB.OCC_MAX n).wcbIssue e
          else ({ d' with wcb := d'.wcb ++ [e] } : Dev).raiseMax die Reg.MEMC_WCB.OCC_MAX n) = true := by
        intro d' h' e n
        have h2 : Memory.wf (({ d' with wcb := d'.wcb ++ [e] } : Dev).raiseMax die Reg.MEMC_WCB.OCC_MAX n) = true :=
          Dev.raiseMax_wf _ _ _ (Memory.wf_of h' rfl rfl rfl rfl)
        split
        · exact Dev.wcbIssue_wf _ h2
        · exact h2
      refine key _ ?_ _ _
      split
      · split
        · exact Dev.wcbIssue_wf _ (Dev.inc_wf _ _ _ h)
        · exact h
      · exact h

/-- Replacing a system cache leaves memory alone. -/
theorem Dev.setSysc_wf {d : Dev} (die : Nat) (c : Cache) (h : Memory.wf d = true) : Memory.wf (d.setSysc die c) = true := Memory.wf_of h rfl rfl rfl rfl

theorem Dev.syscFill_wf {d : Dev} (die set elig : Nat) (l : CLine) (h : Memory.wf d = true) : Memory.wf (d.syscFill die set elig l) = true := by
  unfold Dev.syscFill
  split
  · exact h
  · rename_i old c _
    have h1 := Dev.setSysc_wf die c h
    show Memory.wf (if _ then _ else d.setSysc die c) = true
    split
    · split
      exact Dev.wcbPut_wf _ _ _ _ h1
    · exact h1

/-- Merging bytes at the home of a line keeps the canonical form. -/
theorem Dev.homeMerge_wf {d : Dev} (part : Nat) (na : Bool) (line : Nat) (p : List (Option PByte)) (h : Memory.wf d = true) :
    Memory.wf (d.homeMerge part na line p) = true := by
  unfold Dev.homeMerge
  split
  · split
    extract_lets die set c
    split
    · exact Dev.setSysc_wf _ _ h
    · split
      · exact Dev.syscFill_wf _ _ _ _ h
      · exact Dev.wcbPut_wf _ _ _ _ h
  · exact Dev.dramWrite_wf _ _ _ (Dev.dramRead_wf _ _ h)

theorem Dev.chargeBytes_wf {d : Dev} (die part n pa : Nat) (h : Memory.wf d = true) : Memory.wf (d.chargeBytes die part n pa) = true := by
  unfold Dev.chargeBytes
  split
  · exact h
  · exact Dev.wr_wf _ _ _ (Memory.wf_of h rfl rfl rfl rfl)

/-- Writing a steward die's line to its home keeps the canonical form. -/
theorem Dev.stewBack_wf {d : Dev} (line : Nat) (l : StewardLine) (h : Memory.wf d = true) : Memory.wf (d.stewBack line l) = true :=
  Dev.homeMerge_wf _ _ _ _ (Dev.chargeBytes_wf _ _ _ _ h)

theorem Dev.recallClean_wf {d : Dev} (line : Nat) (h : Memory.wf d = true) : Memory.wf (d.recallClean line) = true := by
  unfold Dev.recallClean
  refine Memory.wf_foldl _ (fun d s h => ?_) _ _ h
  extract_lets l
  split
  · exact Memory.wf_of (Dev.stewBack_wf line l h) rfl rfl rfl rfl
  · exact h

theorem Dev.coreDrop_wf {d : Dev} (p : Nat → Bool) (line : Nat) (h : Memory.wf d = true) : Memory.wf (d.coreDrop p line) = true := by
  unfold Dev.coreDrop
  split
  · exact h
  · exact Memory.wf_of h rfl rfl rfl rfl

theorem Dev.stewDrop_wf {d : Dev} (die line : Nat) (h : Memory.wf d = true) : Memory.wf (d.stewDrop die line) = true := by
  unfold Dev.stewDrop
  extract_lets d1 d2
  exact Memory.wf_of (Dev.setSysc_wf _ _ (Dev.coreDrop_wf (fun h => h / 64 = die) line h) : Memory.wf d2 = true) rfl rfl rfl rfl

theorem Dev.recallDrop_wf {d : Dev} (line : Nat) (h : Memory.wf d = true) : Memory.wf (d.recallDrop line) = true := by
  unfold Dev.recallDrop
  split
  · exact Dev.stewDrop_wf _ _ (Dev.stewDrop_wf _ _ (Dev.recallClean_wf line h))
  · exact h

theorem Dev.clearResv_wf {d : Dev} (line : Nat) (h : Memory.wf d = true) : Memory.wf (d.clearResv line) = true := Memory.wf_of h rfl rfl rfl rfl

theorem Dev.raiseErr_wf {d : Dev} (die cls : Nat) (h : Memory.wf d = true) : Memory.wf (d.raiseErr die cls) = true := by
  unfold Dev.raiseErr
  split
  · exact h
  · exact Memory.wf_of (Dev.wr_wf die Reg.RAS_ERR.CLASS (d.rd die Reg.RAS_ERR.CLASS ||| 2 ^ cls) h) rfl rfl rfl rfl

/-- What the device writes to its own pages keeps the canonical form. -/
theorem Dev.devWrite_wf {d : Dev} (pa : Nat) (b : List Byte) (h : Memory.wf d = true) : Memory.wf (d.devWrite pa b) = true := by
  unfold Dev.devWrite
  refine Memory.wf_foldl _ (fun d s h => ?_) _ _ h
  extract_lets d1
  have h1 : Memory.wf d1 = true := Dev.clearResv_wf _ (Dev.recallDrop_wf _ h)
  split
  · split
    · exact h1
    · exact Dev.homeMerge_wf _ _ _ _ h1
  · split
    · exact h1
    · exact Dev.homeMerge_wf _ _ _ _ h1
  · exact h1

theorem Dev.logRecord_wf {d : Dev} (b : List Byte) (h : Memory.wf d = true) : Memory.wf (d.logRecord b) = true := by
  unfold Dev.logRecord
  extract_lets prod cons
  split
  · exact Dev.inc_wf _ _ _ h
  · exact Memory.wf_of (Dev.wr_wf 0 Reg.RAS_LOG_PTR.PROD (prod + 1) (Dev.devWrite_wf _ b h)) rfl rfl rfl rfl

/-- A page that qualifies for retirement changes its owner byte at most. -/
theorem Dev.retirePage_wf {d : Dev} (die page : Nat) (h : Memory.wf d = true) : Memory.wf (d.retirePage die page) = true := by
  unfold Dev.retirePage
  extract_lets o d1 d2
  split
  · exact h
  · refine Dev.logRecord_wf _ (Dev.raiseErr_wf _ _ ?_)
    unfold d2
    split
    · exact Dev.setOwner_wf _ _ h
    · split
      · exact Dev.wr_wf _ _ _ (Memory.wf_of h rfl rfl rfl rfl)
      · exact Memory.wf_of h rfl rfl rfl rfl

theorem Dev.rowFail_wf {d : Dev} (die channel bank row : Nat) (h : Memory.wf d = true) : Memory.wf (d.rowFail die channel bank row) = true := by
  unfold Dev.rowFail
  extract_lets key bk used d1 d2 d3 d4
  have h1 : Memory.wf d1 = true := Memory.wf_of h rfl rfl rfl rfl
  have h3 : Memory.wf d3 = true := Dev.raiseErr_wf _ _ (Dev.inc_wf _ _ _ (Memory.wf_of h1 rfl rfl rfl rfl))
  split
  · refine Dev.logRecord_wf _ ?_
    unfold d4
    split
    · exact Dev.raiseErr_wf _ _ h3
    · exact h3
  · exact Memory.wf_foldl _ (fun d p h => Dev.retirePage_wf _ _ h) _ _ h1

theorem Dev.eccCorrected_wf {d : Dev} (pa : Nat) (h : Memory.wf d = true) : Memory.wf (d.eccCorrected pa) = true := by
  unfold Dev.eccCorrected
  split
  · split
    extract_lets die ch key d1 l old secs l2 d2
    have h2 : Memory.wf d2 = true := Memory.wf_of (Dev.inc_wf die Reg.MEMC_ECC.CORR 1 h) rfl rfl rfl rfl
    split
    · exact Dev.rowFail_wf _ _ _ _ h2
    · exact h2
  · extract_lets die page d1 old locs d2
    have h2 : Memory.wf d2 = true := Memory.wf_of (Dev.inc_wf die Reg.RAS_FATHOM_ECC.CORR 1 h) rfl rfl rfl rfl
    split
    · exact Dev.retirePage_wf _ _ (Dev.inc_wf _ _ _ h2)
    · exact h2
  · exact h

theorem Dev.eccUncorrectable_wf {d : Dev} (pa : Nat) (h : Memory.wf d = true) : Memory.wf (d.eccUncorrectable pa) = true := by
  unfold Dev.eccUncorrectable
  split
  · split
    extract_lets die d1 d2
    refine Dev.rowFail_wf _ _ _ _ ?_
    have h1 : Memory.wf d1 = true := Dev.raiseErr_wf _ _ (Dev.inc_wf _ _ _ (Dev.setPoison_wf _ _ h))
    unfold d2
    split
    · exact h1
    · repeat apply Dev.wr_wf
      exact h1
  · extract_lets die page s d1
    have h1 : Memory.wf d1 = true := Dev.raiseErr_wf _ _ (Dev.inc_wf _ _ _ (Dev.setPoison_wf _ _ (Dev.setPoison_wf _ _ h)))
    split
    · exact h1
    · exact Dev.retirePage_wf _ _ (Dev.inc_wf _ _ _ h1)
  · exact h

theorem Dev.settleUpTo_wf : ∀ (n : Nat) {d : Dev}, Memory.wf d = true → Memory.wf (Dev.settleUpTo n d) = true
  | 0, _, h => h
  | n + 1, d, h => by
    unfold Dev.settleUpTo
    split
    · exact h
    · refine Dev.settleUpTo_wf n ?_
      dsimp only
      split
      · exact Dev.eccUncorrectable_wf _ (Memory.wf_of h rfl rfl rfl rfl)
      · exact Dev.eccCorrected_wf _ (Memory.wf_of h rfl rfl rfl rfl)

/-- Counting the detections that are due keeps the canonical form. -/
theorem Dev.settle_wf {d : Dev} (h : Memory.wf d = true) : Memory.wf d.settle = true := by
  unfold Dev.settle
  split
  · exact h
  · exact Dev.settleUpTo_wf _ h

/-- A write of a piece of a line at its home keeps the canonical form. -/
theorem Dev.homeWriteSeg_wf {d : Dev} (q : Rq) (line off : Nat) (v : List PByte) (h : Memory.wf d = true) :
    Memory.wf (d.homeWriteSeg q line off v) = true := by
  unfold Dev.homeWriteSeg
  extract_lets pa d1 d2
  exact Dev.settle_wf (Dev.homeMerge_wf _ _ _ _ (Dev.chargeBytes_wf _ _ _ _ (Dev.clearResv_wf _ (Dev.recallDrop_wf _ h))))

/-- A write of a scratchpad keeps the canonical form. -/
theorem Dev.spadWrite_wf {d : Dev} (p off : Nat) (v : List PByte) (h : Memory.wf d = true) : Memory.wf (d.spadWrite p off v) = true := by
  rw [Memory.wf_iff] at h ⊢
  refine ⟨KMap.wf_setList _ _ _ _ h.1, h.2.1, ?_, h.2.2.2⟩
  unfold Dev.spadWrite
  extract_lets a mem words sp
  show KMap.wf 0 sp = true
  unfold sp
  split
  · exact h.2.2.1
  · exact List.foldlRecOn (motive := fun m => KMap.wf 0 m = true) _ _ h.2.2.1 (fun m hm w _ => KMap.wf_set _ _ _ _ hm)

theorem Dev.accErr_wf {d : Dev} (die kind : Nat) (q : Rq) (addr : Nat) (h : Memory.wf d = true) : Memory.wf (d.accErr die kind q addr) = true := by
  unfold Dev.accErr
  extract_lets d1
  have h1 : Memory.wf d1 = true := Dev.raiseErr_wf _ _ h
  split
  · exact h1
  · repeat apply Dev.wr_wf
    exact h1

theorem Dev.writeSeg_wf {d : Dev} (q : Rq) (line off : Nat) (v : List PByte) (h : Memory.wf d = true) :
    Memory.wf (d.writeSeg q line off v).2 = true := by
  unfold Dev.writeSeg
  extract_lets pa
  split
  · exact Dev.accErr_wf _ _ _ _ h
  · split
    · exact Dev.spadWrite_wf _ _ _ h
    · exact Dev.homeWriteSeg_wf _ _ _ _ h

/-- A write of any length keeps the canonical form. -/
theorem Dev.writePa_wf {d : Dev} (q : Rq) (pa : Nat) (v : List PByte) (h : Memory.wf d = true) : Memory.wf (d.writePa q pa v).2 = true := by
  unfold Dev.writePa
  refine List.foldlRecOn (motive := fun (r : Bool × Dev) => Memory.wf r.2 = true) _ _ h (fun r hr s _ => ?_)
  exact Dev.writeSeg_wf _ _ _ _ hr

/-- Zeroing a page keeps the canonical form. -/
theorem Dev.zeroPage_wf {d : Dev} (page : Nat) (h : Memory.wf d = true) : Memory.wf (d.zeroPage page) = true := by
  unfold Dev.zeroPage
  extract_lets a lineIn d1
  have h1 : Memory.wf d1 = true := by
    unfold d1
    split
    · exact Memory.wf_foldl _ (fun d i h => Dev.incMod_wf _ _ _ h) _ _ h
    · exact h
  rw [Memory.wf_iff] at h1 ⊢
  exact ⟨KMap.wf_dropIf (0#8) (fun k => a ≤ k && k < a + 65536) _ h1.1, KMap.wf_dropIf 0 (fun k => a / 32 ≤ k && k < a / 32 + 2048) _ h1.2.1, h1.2.2⟩

/-- Clearing a scratchpad keeps the canonical form. -/
theorem Dev.clearSpad_wf {d : Dev} (p : Nat) (h : Memory.wf d = true) : Memory.wf (d.clearSpad p) = true := by
  rw [Memory.wf_iff] at h ⊢
  unfold Dev.clearSpad
  exact ⟨KMap.wf_dropIf (0#8) (fun a => spadBase p ≤ a && a < spadSize + spadBase p) _ h.1, h.2.1,
    KMap.wf_dropIf 0 (fun w => spadBase p / 8 ≤ w && w < (spadSize + spadBase p) / 8) _ h.2.2.1, h.2.2.2⟩

/-- A byte stored is the byte that reads there, outside the page-owner table. -/
theorem Dev.rawByte_setRaw (d : Dev) (a j : Nat) (b : Byte) (h : d.ownerCell a = none) (hj : d.ownerCell j = none) :
    (d.setRaw a b).rawByte j = if j = a then b else d.rawByte j := by
  have e : ∀ (m : KMap Byte) (k : Nat), ({ d with mem := m } : Dev).ownerCell k = d.ownerCell k := fun _ _ => rfl
  unfold Dev.setRaw Dev.rawByte
  simp only [h]
  rw [e, hj, KMap.get_set]

end Sys2Proof.Machine
end

