-- ==== Sys2Proof/WellFormed.lean ====
section
/-! DEFINITION. Which commands name units and operands that a part of the family has (R1, R16, R17, R21, R385, R462, R487): numbers in range of the larger
part. A command that is not well formed acts on nothing (assumption 1). -/

namespace Sys2Proof

/-- Die numbers (R16). -/
def wfDie (d : Nat) : Bool := d < 8

/-- Package perch numbers (R17). -/
def wfPerch (p : Nat) : Bool := p < 2112

/-- mhartid (R462). -/
def wfHart (h : Nat) : Bool := h % 64 < 48 && h < 128

/-- Queue numbers (R487). -/
def wfQueue (q : Nat) : Bool := q < 2040

/-- Partitions (R322). -/
def wfPart (p : Nat) : Bool := p < 16

/-- A register number of a perch or a core. -/
def wfReg (r : Nat) : Bool := r < 32

/-- A link port of a die (R385). -/
def wfPort (die port : Nat) : Bool := die < 2 && port < 4

/-- A plane (R385). -/
def wfPlane (p : Nat) : Bool := p < 8

/-- Ranges of a home request (R205). -/
def HomeReq.wf (r : HomeReq) : Bool := wfDie r.die && r.pa < 2 ^ 48 && wfPart r.part && r.unit < 256

/-- Fields of a conversion word (R181). -/
def VxFields.wf (f : VxFields) : Bool := f.fmt < 16 && wfReg f.vs2 && wfReg f.rs1 && wfReg f.vd

/-- Evidence names an edge of the part (R21). -/
def EdgeEvidence.wf (e : EdgeEvidence) : Bool := e.edge < 11 && e.a.port < 4 && e.b.port < 4

/-- A board: straps, edges, sites and capacities that exist. -/
def Board.wf (b : Board) : Bool :=
  b.strapAddr < 4 && b.edges.all EdgeEvidence.wf && b.isolated.all (fun x => wfDie x.1 && x.2 < 4) && b.fathomGib.length ≤ 16 && b.ssds.all (fun s => s.port < 8)

/-- A command names units and operands in range. -/
def Instr.wf : Instr → Bool
  | .coldStart b => b.wf
  | .deviceReset b => b.wf
  | .sbReset key b => key < 256 && b.wf
  | .edgeTrained e => e.wf
  | .edgeTrainTimeout site port => wfDie site && port < 4
  | .bootStepTimeout step => step = 3 || step = 6 || step = 8
  | .avsConfirm die | .avsRiseLate die | .dieClockLoss die => wfDie die
  | .thermalTrip cause die => 1 ≤ cause && cause ≤ 3 && wfDie die
  | .spanStart span perch | .spanLateStart span perch => 1 ≤ span && span < 65536 && wfPerch perch.perch
  | .spanStatusRecord span => 1 ≤ span && span < 65536
  | .spanend p | .budgetExpiry p | .displacement p | .spanWarning p | .perchGate p | .perchWake p | .seqInstruction p _ | .perchMret p | .cwaitSatisfied p
  | .arrayLoadStart p | .arrayPassComplete p | .keeperWindowExpiry p | .arrayRampDownStep p | .arrayRampUpStep p => wfPerch p
  | .perchTrap p _ _ => wfPerch p
  | .pspanwarnWrite p _ => wfPerch p
  | .perchFenceSc p scope => wfPerch p && scope < 8
  | .cwait p ctr rs1 rd => wfPerch p && ctr < 64 && wfReg rs1 && wfReg rd
  | .cread p ctr rd inc => wfPerch p && ctr < 64 && wfReg rd && inc < 32
  | .cset p ctr rs1 rd inc | .cadd p ctr rs1 rd inc => wfPerch p && ctr < 64 && wfReg rs1 && wfReg rd && inc < 32
  | .dmaq p ctx rs1 rd => wfPerch p && ctx < 8 && wfReg rs1 && wfReg rd
  | .dmactlStatus p ctx rd | .dmactlAbort p ctx rd | .dmactlWaitidle p ctx rd => wfPerch p && ctx < 8 && wfReg rd
  | .dmaDescriptorStart p ctx _ _ => wfPerch p && ctx < 8
  | .dmaDescriptorComplete p ctx | .arrivalIncrement p ctx => wfPerch p && ctx < 8
  | .scopSend p ep rs1 rs2 rd => wfPerch p && ep < 32 && wfReg rs1 && wfReg rs2 && wfReg rd
  | .scopAck p ep rs2 rd => wfPerch p && ep < 32 && wfReg rs2 && wfReg rd
  | .scopStatus p ep rd => wfPerch p && ep < 32 && wfReg rd
  | .channelMessageArrival p ep | .channelSourceRelease p ep | .channelCreditArrival p ep => wfPerch p && ep < 32
  | .mld p fmt _ rs1 rs2 => wfPerch p && fmt < 16 && wfReg rs1 && wfReg rs2
  | .mxm p fmt _ _ _ rs1 rs2 rd => wfPerch p && fmt < 16 && wfReg rs1 && wfReg rs2 && wfReg rd
  | .mwaitPasses p rd | .mwaitLoads p rd => wfPerch p && wfReg rd
  | .arrayPassStart p _ => wfPerch p
  | .vxncvt p f | .vxncvts p f | .vxwcvt p f | .vxwcvts p f | .vxmaxsc p f => wfPerch p && f.wf
  | .homeWrite r data _ => r.wf && data.length ≤ 128
  | .homeRead r len _ => r.wf && len ≤ 128
  | .homeAtomic r _ width _ _ => r.wf && (width = 4 || width = 8)
  | .wcbEntryTimeout die ch _ | .wcbEntryIssue die ch _ => wfDie die && ch < 128
  | .chainCacheFill die chain _ => wfDie die && chain < 22
  | .wayDisable c way => (match c with
      | .chain die chain => wfDie die && chain < 22
      | .system die => wfDie die) && way < 16
  | .scrubRead die _ => wfDie die
  | .moveCopy die e _ => die < 2 && e < 65536
  | .moveZero die e | .moveKvIn die e | .moveKvOut die e | .moveNvmeRd die e | .moveNvmeWr die e => die < 2 && e < 65536
  | .moveEntryDone die e _ => die < 2 && e < 65536
  | .moveTailAbort die => die < 2
  | .ownClaim part count page | .ownRelease part count page => wfPart part && count < 65536 && page < 2 ^ 26
  | .pageWalkDone die unit req part dva access => wfDie die && unit < 64 && req < 65536 && wfPart part && dva < 2 ^ 64 && access < 4
  | .mmuInvRange part count => wfPart part && count < 2 ^ 32
  | .mmuInvPartition part | .hostWindowStart part | .hostWindowEnd part => wfPart part
  | .collPost coll member => 1 ≤ coll && coll < 1024 && member < 16384
  | .collMemberComplete coll _ member => 1 ≤ coll && coll < 1024 && member < 16384
  | .collDeadline coll _ | .collTimeout coll _ => 1 ≤ coll && coll < 1024
  | .linkPortTrain die port lanes _ => wfPort die port && lanes.length = 4
  | .identReceive die port _ | .linkRetrainDone die port _ => wfPort die port
  | .identResend die port | .linkFence die port => wfPort die port
  | .flitReplay die port _ => wfPort die port
  | .linkRead die port _ | .linkWrite die port _ | .linkAtomic die port _ | .readRsp die port _ | .writeAck die port _ | .atomicRsp die port _
  | .collData die port _ | .collCtrl die port _ => wfPort die port
  | .beacon plane _ _ => wfPlane plane
  | .beaconAck plane _ => wfPlane plane
  | .mgmt plane _ => wfPlane plane
  | .join plane _ => wfPlane plane
  | .joinGrant plane _ => wfPlane plane
  | .portDown plane slot => wfPlane plane && slot < 64
  | .epochSet plane gen _ => wfPlane plane && gen < 65536
  | .remoteWriteLost tag | .remoteReadLost tag => tag < 65536
  | .packageLost pkg | .beaconUnanswered pkg => pkg < 64
  | .ethFrameRx port _ _ => port < 2
  | .excRingTx port _ => port < 2
  | .ethPortLinkChange port _ => port < 2
  | .slotClose flow _ => flow < 65536
  | .egressRelease flow | .flowEnable flow | .flowDisable flow | .flowReanchor flow => flow < 65536
  | .pacedSend flow _ _ => flow < 65536
  | .flowRekey flow key => flow < 65536 && key < 65536
  | .keyLoad key _ => key < 65536
  | .nvmeCommandIssue port _ _ _ _ _ => port < 8
  | .nvmeCommandComplete port _ _ _ => port < 8
  | .nvmeAbortTimeout port _ => port < 8
  | .nvmeControllerReset port _ => port < 8
  | .stewardInstruction h _ => wfHart h
  | .twait h _ rs1 rd => wfHart h && wfReg rs1 && wfReg rd
  | .stewardFenceSc h scope => wfHart h && scope < 8
  | .spanq h rs1 rd => wfHart h && wfReg rs1 && wfReg rd
  | .tread h sel rd => wfHart h && sel < 4096 && wfReg rd
  | .setipi h rs1 identity _ => wfHart h && wfReg rs1 && identity < 4096
  | .mpartWrite h _ | .mliveWrite h _ => wfHart h
  | .mlosterrWrite h | .wfi h | .coreWake h | .reservationTimeout h | .recallDeferralEnd h | .sbiPageMap h | .sbiPageUnmap h | .sbiFlowCmd h | .sbiKeyLoad h => wfHart h
  | .mtimecmpxExpiry h _ => wfHart h
  | .cboClean h rs1 | .cboFlush h rs1 | .cboInval h rs1 => wfHart h && wfReg rs1
  | .stewardAmo h _ width rd rs1 rs2 => wfHart h && (width = 4 || width = 8) && wfReg rd && wfReg rs1 && wfReg rs2
  | .loadReserved h width rd rs1 => wfHart h && (width = 4 || width = 8) && wfReg rd && wfReg rs1
  | .storeConditional h width rd rs1 rs2 => wfHart h && (width = 4 || width = 8) && wfReg rd && wfReg rs1 && wfReg rs2
  | .sfenceVma h rs1 rs2 => wfHart h && wfReg rs1 && wfReg rs2
  | .bar0DieViewWrite _ size _ => 1 ≤ size && size ≤ 8
  | .registerWrite r place offset size _ => wfDie r.die && 1 ≤ size && size ≤ 8 && (match place with
      | .control die => wfDie die && offset < 2 ^ 32
      | .queue q => q < 2048 && offset < 4096)
  | .commandFetch q _ | .commandReread q _ => wfQueue q
  | .doorbell q _ | .cqHeadWrite q _ => wfQueue q
  | .copy q _ => wfQueue q
  | .runComplete r => wfQueue r.queue
  | .nop q | .fence q | .write q | .fill q | .atomic q | .completionWrite q | .msixHoldoffExpiry q | .queueDisable q | .queueAbort q
  | .queueAbortDone q => wfQueue q
  | .queueEnable q holdoff depth _ _ => wfQueue q && holdoff < 256 && depth < 8192
  | .queueResume q _ _ => wfQueue q
  | .relayRead pkg die offset => pkg < 64 && wfDie die && offset < 2 ^ 32
  | .logConsWrite v => v < 8192
  | .sbRead die offset => die < 256 && offset < 2 ^ 32
  | .sbAlert ack => ack < 256
  | .edgeRetrain edge _ => edge < 11
  | .perstNRelease rate width => rate < 16 && width < 32
  | .msixVectorUnmask v => v < 2048
  | .pwrGoodDeassert _ | .tickAcquireTimeout | .joinWaitExpiry | .leagueSealTimeout | .seal | .tickBoundary _ | .tickInPulse _ _ | .ppsEdge _ | .holdoverExpiry
  | .ethrefLoss _ | .ownReleaseComplete | .mmuInvComplete | .beaconMiss | .bar4Read _ _ | .bar4Write _ _ _ | .hostLost _ | .hostAttach | .relayTimeout
  | .dumpUnitTimeout | .dumpTake | .dumpChunkRelease | .flashProgramPage | .flashEraseSector | .flashCmdComplete _ | .cntClr | .sbIdent | .jtagInstruction _
  | .pcieConfigWrite _ _ => true

end Sys2Proof
end

