-- ==== Sys2Proof/Tests/Slice0.lean ====
section
/-! SUPPORT. Tests on fixed values. Expected values come from the spec's words, tables and examples; each `witness_` theorem shows states and operands that
meet the hypotheses of the obligation it names, clause by clause. -/

set_option Elab.async false

namespace Sys2Proof.Tests

open Sys2Proof.Machine

/-- The state after a command. -/
def nxt (c : Instr) (s : State) : State :=
  match exec c s with
  | .next t => t
  | _ => s

/-- A state with a device and no waiting command. -/
def st (d : Dev) : State := { State.reset with dev := d }

/-- The device with power and clocks, everything else as at reset. -/
def up : Dev := { State.reset.dev with on := true }

/-- A board on which nothing has trained. -/
def board0 : Board :=
  { strapAddr := 1, testN := true, edges := [], isolated := [], fwA := none, fwB := none, hangFw := false, hangMem := false, hangNvme := false, memOk := true,
    fathomGib := [], ssds := [], images := [] }

/-- What the device measures where nothing happens. -/
def obs0 : BoundaryObs :=
  { priErr := none, altErr := none, powerW := 0, railW := [], energyUj := 0, dieTemp := [], stackTemp := [], underTemp := [], acks := [], ptpValid := false }

/-- An identity flit. -/
def flit (steward : Bool) (serial port : Nat) : Identity := { steward := steward, serial := serial, revision := 0, port := port, primary := false }

/-! ### Obligations of the block, of boot and of the tick -/

theorem witness_StepRunsFront : ({ State.reset with pending := [Instr.nop 3, Instr.seal] } : State).pending = Instr.nop 3 :: [Instr.seal] ∧
    State.reset.pending = [] := by decide

theorem witness_InertWithoutPower : State.reset.dev.on = false := by decide

theorem witness_StepKeepsInv : State.reset.Inv ∧ step State.reset = .next (idleStep State.reset) := ⟨⟨rfl, rfl, rfl, rfl⟩, rfl⟩

theorem witness_ColdStartBegins : board0.edges = [] ∧ board0.isolated = [] ∧ ({ board0 with testN := false } : Board).edges = [] := by decide

theorem witness_PowerLoss : (999 : Nat) < 1000 ∧ (1000 : Nat) ≤ 1000 := by decide

/-- Boot waits in discovery. -/
def discovering : Dev := up.updBoot (fun b => { b with wait := 2 })

theorem witness_DiscoveryWaits : (st discovering).dev.on = true ∧ (st discovering).dev.boot.wait = 2 ∧ 10 < discovering.edgeEnds.length ∧
    (discovering.evidenceOf 10).isNone = true ∧
    (discovering.updBoot (fun b => { b with evidence := b.evidence ++ [⟨10, flit true 5 1, flit false 6 1⟩] })).edgesKnown = false ∧
    (∃ x ∈ discovering.edgeEnds.zipIdx, ((x.1.1 = 2 ∧ x.1.2.1 = 1) ∨ (x.1.2.2.1 = 2 ∧ x.1.2.2.2 = 1)) ∧ (discovering.evidenceOf x.2).isNone = true) ∧
    (discovering.updBoot (fun b => { b with isolated := b.isolated ++ [(2, 1)] })).edgesKnown = false := by decide +kernel

/-- Boot waits in a step. -/
def booting (n : Nat) : Dev := up.updBoot (fun b => { b with wait := n })

/-- The generator acquires. -/
def acquiring (req : Nat) : Dev := (up.wr 0 Reg.TICK_STATUS.STATE tsAcquiring).wr 0 Reg.TICK_CTRL.REQ_LOCK req

/-- Boot has reached READY in a role. -/
def waiting (role : Nat) : Dev := (up.wr 0 Reg.LINK_CFG.ROLE role).updBoot (fun b => { b with ready := true })

/-- A manager whose only package is itself, in service. -/
def managing : Dev :=
  let d := (((waiting 1).wr 0 (Reg.LINK_ROUTE.VALID.at 8 4) 1).wr 0 (Reg.LINK_ROUTE.EPOCH.at 8 4) 1).wr 0 Reg.LINK_CFG.PKG_ID 4
  { d with charter := { d.charter with topo := { d.charter.topo with slots := [{ id := 4, role := 1 }] } } }

theorem witness_BootTimeouts : (booting 3).boot.wait = 3 ∧ (booting 6).boot.wait = 6 ∧ (booting 8).boot.wait = 8 ∧
    (acquiring 1).tickState = tsAcquiring ∧ (acquiring 1).rd 0 Reg.TICK_CTRL.REQ_LOCK = 1 ∧
    (acquiring 0).tickState = tsAcquiring ∧ (acquiring 0).rd 0 Reg.TICK_CTRL.REQ_LOCK = 0 ∧
    ((waiting 2).rd 0 Reg.LINK_CFG.ROLE = 2 ∧ (waiting 3).rd 0 Reg.LINK_CFG.ROLE = 3 ∧ (waiting 3).boot.ready = true ∧ (waiting 3).sealed = false ∧
      (waiting 3).boot.fresh = true) ∧
    ((waiting 1).isManager = true ∧ (waiting 1).league.sealPlan = none ∧ managing.isManager = true ∧ managing.boot.ready = true ∧ managing.sealed = false ∧
      managing.boot.fresh = true ∧ managing.league.sealPlan = none ∧ managing.pickPlan managing.serviceMask ≠ none ∧ managing.pickPlan 3 = none) ∧
    up.on = true := by decide +kernel

/-- A lone package at READY whose generator runs. -/
def sealable : Dev := (waiting 0).wr 0 Reg.TICK_STATUS.STATE tsFreerun

theorem witness_SealSeals : sealable.on = true ∧ sealable.maySeal = true := by decide +kernel

theorem witness_DeviceResetRestartsBoot : let d := up.setStage 1; d.on = true ∧ d.rd 0 Reg.HIF_STATUS.IN_RESET = 0 ∧ d.stage ≠ 0 ∧ d.sealed = false ∧ d.rd 0 Reg.RAS_PKG.DIE_FAILED = 0 ∧ (0x5A : Nat) ≠ 0xA5 := by
  decide +kernel

/-- A sealed package. -/
def sealedDev : Dev := (up.setStage 8).wr 0 Reg.GLB_SEAL_STATUS.SEALED 1

theorem witness_DeviceResetSealed : sealedDev.on = true ∧ board0.edges = [] ∧ board0.isolated = [] ∧ sealedDev.rd 0 Reg.HIF_STATUS.IN_RESET = 0 ∧
    sealedDev.stage ≠ 0 ∧ sealedDev.sealed = true ∧ sealedDev.rd 0 Reg.RAS_PKG.DIE_FAILED = 0 := by decide +kernel

/-- A package that tripped. -/
def trippedDev : Dev := { (up.updBoot (fun b => { b with tripped := true })) with on := false }

theorem witness_SidebandAnswers : up.sidebandLive = true ∧ up.on = true ∧ up.boot.tripped = false ∧ up.rd 0 Reg.HIF_STATUS.IN_RESET = 0 ∧
    up.viewRead 0 0x2700000 = none ∧ up.sealed = false ∧ sealedDev.viewRead 0 0x2700003 = none ∧ (sealedDev.viewRead 0 0x2700000).isSome = true ∧
    trippedDev.sidebandLive = true ∧ trippedDev.boot.tripped = true ∧ (trippedDev.reg64 2 0x20000).isSome = true := by decide +kernel

theorem witness_JtagSelects : up.on = true ∧ (∃ ir, ir = Config.idcodeOp) ∧ (∃ ir, ir ≠ Config.idcodeOp ∧ ir ≠ Config.bypassOp) ∧ sealedDev.sealed = true ∧
    up.sealed = false :=
  ⟨by decide, ⟨_, rfl⟩, ⟨Config.idcodeOp + Config.bypassOp + 1, by omega, by omega⟩, by decide +kernel, by decide +kernel⟩

/-- Edge 10 of R21 is up on both ends. -/
def edgeUp : Dev := (up.wr 1 (edgeState 1) esUp).wr 7 (edgeState 1) esUp

theorem witness_EdgeRetrainCounts : edgeUp.on = true ∧ edgeUp.edgeEnds[10]? = some (1, 1, 7, 1) ∧ edgeUp.edgeSt (1, 1, 7, 1) = esUp := by decide +kernel

theorem witness_TickAcquisition : (acquiring 1).on = true ∧ (acquiring 1).tickState = tsAcquiring ∧ (acquiring 1).rd 0 Reg.TICK_CTRL.REQ_LOCK = 1 ∧
    (acquiring 0).rd 0 Reg.TICK_CTRL.REQ_LOCK = 0 ∧ (up.wr 0 Reg.TICK_CTRL.SRC_PRI srcInternal).rd 0 Reg.TICK_CTRL.SRC_PRI = srcInternal := by
  decide +kernel

theorem witness_BoundaryBeforeSeal : sealable.on = true ∧ sealable.tickState ≠ tsStopped ∧ sealable.sealed = false ∧ sealable.boot.fresh = true ∧
    sealable.isManager = false ∧ sealable.held = [] ∧ sealable.peerHeld = [] ∧ sealable.harts = [] ∧ sealable.perches = [] ∧ sealable.spans = [] := by decide +kernel

/-- The generator follows TICK_IN in a state. -/
def following (state : Nat) (g : TickGen) : Dev :=
  { (up.wr 0 Reg.TICK_STATUS.STATE state).wr 0 Reg.TICK_CTRL.SRC_PRI srcTickIn with gen := g }

theorem witness_GeneratorRules :
    (let d := following tsFreerun { priRun := 15, tickIn := some 1000 }; d.boot.fresh = true ∧ d.tickState ≠ tsLocked ∧ d.gen.priRun = 15 ∧
        d.sourceEvent (d.rd 0 Reg.TICK_CTRL.SRC_PRI) obs0.ptpValid obs0.priErr = .err 1000 ∧ (-1000 : Int) ≤ 1000) ∧
    (let d := following tsLocked { missRun := 2, altRun := 14 }; d.tickState = tsLocked ∧ d.rd 0 Reg.TICK_STATUS.ALT_ACTIVE = 0 ∧ d.gen.missRun = 2 ∧ d.gen.altRun < 15 ∧
        d.sourceEvent (d.rd 0 Reg.TICK_CTRL.SRC_PRI) obs0.ptpValid obs0.priErr = .missing) ∧
    (up.updBoot (fun b => { b with fresh := false })).boot.fresh = false ∧ sealedDev.boot.fresh = true ∧ sealedDev.sealed = true ∧ (50 : Int) ≤ 50 := by
  decide +kernel

theorem witness_TimingEdges : (following tsFreerun {}).tickState ≠ tsStopped ∧ (following tsFreerun {}).tickState ≠ tsAcquiring ∧
    (following tsAcquiring {}).tickState = tsAcquiring ∧ (following tsAcquiring {}).rd 0 Reg.TICK_CTRL.SRC_PRI = srcTickIn ∧
    (following tsHoldover {}).tickState = tsHoldover ∧
    (100 : Nat) ≤ 100 ∧ (99 : Nat) < 100 ∧ (-2000 : Int) ≤ 2000 ∧ (2000 : Int) < 2001 := by decide +kernel

theorem witness_DieStops : 7 ∈ up.dies ∧ 7 ∈ ({ up with power := { up.power with rising := [7] } } : Dev).power.rising ∧
    (let d := up.wr 7 Reg.GLB_DIE_ID.PLACED 1; 7 ≠ 0 ∧ 7 ∈ d.dies ∧ d.placed 7 = true ∧ d.dieFailed 7 = false) ∧
    (1, 1, 7, 1) ∈ edgeUp.edgesOf 7 ∧ edgeUp.edgeSt (1, 1, 7, 1) = esUp := by decide +kernel

theorem witness_DeviceStops : up.on = true ∧ 7 ∈ up.computeDies ∧ 1 ∈ up.stewardDies ∧ (1000 : Nat) < 1001 ∧ (1000 : Nat) ≤ 1000 := by decide +kernel

/-! ### Obligations of the perches and their units -/

/-- A 64 KiB leaf of an MMU: DVA 0x10000 and 0x20000 of partition 3 lead to the fathom tier. -/
def leafOf (mmu : Nat) (hi : Nat) : TlbEntry := { mmu := mmu, part := 3, dva := hi * 0x10000, size := 16, target := 0x100000010000 + hi * 0x10000, rights := 15 }

/-- The span of the tests: a drop span of partition 3 on perch 5, with a status record. -/
def span1 : SpanEntry := { spanId := 1, kind := 0, flags := 1, group := 0, startNs := 2000, budget := 100, partition := 3, argDva := 0x10000, statusDva := 0x10040 }

/-- 16 GiB of fathom memory, budgets for partition 3, leaves in the MMUs of the test, one kernel, and a tick of 10 ms in which spans are dispatched. -/
def world : Dev :=
  let d := (up.wr 0 Reg.BMC_STATUS.CAP_GIB 16).wr 0 ((budgetFld 0).at 8 3) 100
  let d := ((d.wr 0 (Reg.MMU_ROOT.VALID.at 8 3) 1).wr 2 (Reg.MMU_ROOT.VALID.at 8 3) 1).wr 0 Reg.TICK_STATUS.DISPATCHING 1
  let d := (((d.wr 0 Reg.TICK_STATUS.STATE tsFreerun).wr 0 Reg.TICK_COUNT.COUNT 1).wr 0 Reg.GLB_SEAL_STATUS.SEALED 1).wr 0 Reg.TICK_PERIOD.PERIOD 10000
  let sched : Sched := { period := 10000, spans := [span1], patterns := [{ spanCount := 1 }], groups := [2 ^ 5 + 2 ^ 6] }
  let kern : Kern := { kernels := [{ imageSize := 4096, entry := 0x40 }] }
  { d with charter := { d.charter with sched := sched, kern := kern },
           tlb := [mmuHif, mmuMover 0, mmuSio, mmuColl 2, mmuChain 2 0].flatMap (fun m => [leafOf m 1, leafOf m 2]) }

/-- Perch 5 in a state. -/
def withPerch (v : Perch) : Dev := world.setPerch 5 v

/-- Perch 5 runs span 1: x5 holds 64, x6 holds 32, a trap handler is set. -/
def busy : Perch :=
  { pstate := 3, spanId := 1, part := 3, budget := 100, remaining := 90, core := { pc := 0x80000040, x := [(5, 64), (6, 32)] }, mtvec := 0x80000100 }

theorem witness_SpanStarts : let s := st (withPerch { pstate := 2 }); s.dev.on = true ∧ s.dev.dispatching = true ∧ s.dev.entryOf 1 = some span1 ∧
    s.dev.skips span1 (s.dev.groupMap span1) = false ∧ s.dev.perchOk 5 = true ∧ bit (s.dev.groupMap span1) 5 = true ∧ (s.dev.perch 5).pstate = 2 ∧
    s.dev.startedNow 5 span1 = false ∧ span1.kind = 0 ∧ KMap.get 0 s.dev.lateIn 5 ≠ s.dev.tick + 1 := by decide +kernel

/-- The slot of span 1 ends at 3000 ns, where another span of perch 5 begins. -/
def crowded (v : Perch) : Dev :=
  let d := withPerch v
  let span2 := { span1 with spanId := 2, startNs := 3000 }
  { d with charter := { d.charter with sched := { d.charter.sched with spans := [span1, span2], patterns := [{ spanCount := 2 }] } } }

theorem witness_SpanEnds :
    (let s := st (withPerch busy); s.dev.on = true ∧ s.dev.runs? 5 = true ∧ s.dev.collQuiet 5 (s.dev.perch 5).spanId = true ∧
      s.dev.mayEnd 5 = true ∧ (∀ e, s.dev.anyEntry 1 = some e → e.kind = 0) ∧
      (∀ at_, s.dev.displaceAt 5 = some at_ → s.dev.elapsed + s.dev.cyclesNs busy.remaining ≤ at_)) ∧
    (let s := st (crowded { busy with remaining := 3000 }); s.dev.on = true ∧ s.dev.runs? 5 = true ∧ s.dev.collQuiet 5 1 = true ∧
      (∀ e, s.dev.anyEntry 1 = some e → e.kind = 0) ∧
      ∃ at_, s.dev.displaceAt 5 = some at_ ∧ at_ < s.dev.elapsed + s.dev.cyclesNs 3000) ∧
    (withPerch { busy with remaining := 0 }).mayEnd 5 = true := by
  refine ⟨⟨?_, ?_, ?_, ?_, ?_, ?_⟩, ⟨?_, ?_, ?_, ?_, ⟨(crowded { busy with remaining := 3000 }).displaceAt 5 |>.getD 0, ?_, ?_⟩⟩, ?_⟩
  iterate 4 decide +kernel
  · intro e h; have : e = span1 := by rw [← Option.some_inj, ← h]; decide +kernel
    rw [this]; decide
  · intro x h; have : x = ((withPerch busy).displaceAt 5).getD 0 := by rw [← Option.some_inj, ← h]; decide +kernel
    rw [this]; decide +kernel
  iterate 3 decide +kernel
  · intro e h; have : e = span1 := by rw [← Option.some_inj, ← h]; decide +kernel
    rw [this]; decide
  iterate 3 decide +kernel

theorem witness_StatusRecordWritten :
    (let d := (withPerch busy).setSpan 1 { recordDue := true }; d.on = true ∧ (d.span 1).recordDue = true ∧ d.anyEntry 1 = some span1 ∧
      bit span1.flags 0 = true ∧ bit ({ span1 with flags := 0 } : SpanEntry).flags 0 = false ∧
      ((d.setSpan 1 { d.span 1 with recordDue := false }).dvaWrite (tickXq 3 1) (.hif 0xFFFF) ((tickXq 3 1).rq false true) none span1.statusDva
        (clean ((d.span 1).record 1))).1 = none) ∧
    (let d := (withPerch busy).setSpan 1 { recordDue := true };
      (({ d with tlb := [] } : Dev).dvaWrite (tickXq 3 1) (.hif 0xFFFF) ((tickXq 3 1).rq false true) none span1.statusDva (clean ((d.span 1).record 1))).1 ≠ none) := by
  decide +kernel

theorem witness_SequencerTraps :
    (let s := st (withPerch { busy with warn := 89 }); s.dev.on = true ∧ s.dev.runs? 5 = true ∧ s.dev.inTime 5 = true ∧ (s.dev.perch 5).warn ≠ 0 ∧
      (s.dev.perch 5).warn < (s.dev.perch 5).remaining ∧ (s.dev.passNs (s.dev.cyclesNs 1)).displaced 5 = false ∧ (0x7FFFFFFF#32).toNat < 2 ^ 31 ∧
      (0x7FFFFFFF#32).toNat ≠ 5 ∧ (s.dev.perch 5).mtvec ≠ 0 ∧ (s.dev.perch 5).inTrap = false ∧ s.dev.seqReady 5 = true) ∧
    (let s := st (withPerch { busy with mstatus := 8, mie := 0x10000, mip := 0x10000 }); s.dev.inTime 5 = true ∧ bit (s.dev.perch 5).mstatus 3 = true ∧
      bit (s.dev.perch 5).mie 16 = true ∧ bit (s.dev.perch 5).mip 16 = true ∧ (s.dev.perch 5).mtvec ≠ 0 ∧ (s.dev.perch 5).inTrap = false) := by decide +kernel

/-- An idle perch 5 whose span starts 100 µs after the boundary, with a gate time of 1 µs. -/
def resting : Dev :=
  let d := (withPerch { pstate := 2 }).wr 0 Reg.PWR_CTRL.GATE_US 1
  { d with charter := { d.charter with sched := { d.charter.sched with spans := [{ span1 with startNs := 100000 }] } } }

theorem witness_PerchPower :
    (let d := resting; d.on = true ∧ d.perchOk 5 = true ∧ d.perchUsed 5 = true ∧ (d.perch 5).pstate = 2 ∧
      d.rd 0 Reg.PWR_CTRL.GATE_US ≠ 0 ∧ d.perchDrained 5 = true ∧ ∀ w, d.wakeLeft 5 = some w → ((d.rd 0 Reg.PWR_CTRL.GATE_US * 1000 : Nat) : Int) < w) ∧
    ((withPerch { pstate := 1 }).perch 5).pstate = 1 ∧ (world.perch 5).pstate = 0 ∧ world.perchOk 5 = true ∧ world.perchOk 2111 = true ∧
    (let d := world.setPerch 7 { pstate := 2 }; d.perchOk 7 = true ∧ d.perchUsed 7 = false ∧ (d.perch 7).pstate = 2 ∧ d.perchDrained 7 = true) := by
  refine ⟨⟨?_, ?_, ?_, ?_, ?_, ?_, ?_⟩, ?_⟩
  iterate 6 decide +kernel
  · intro w h
    have : w = (resting.wakeLeft 5).getD 0 := by rw [← Option.some_inj, ← h]; decide +kernel
    rw [this]; decide +kernel
  · decide +kernel

/-- Perch 5 runs and its next word, which its instruction cache holds, is the one given. -/
def running5 (w : Nat) : Dev := withPerch { busy with icache := [(0, clean (List.replicate 64 0 ++ leBytes 4 w ++ List.replicate 60 0))] }

/-- Perch 5 runs and its next word, which stands in a device page, is the one given. -/
def cold5 (w : Nat) : Dev := ((withPerch busy).setOwner 0 0xFE).setRawList 0x40 (leBytes 4 w)

theorem witness_SequencerStep : Ready (st (running5 0)) 5 ∧ (running5 (2047 * 2 ^ 20 + 5 * 2 ^ 15 + 31 * 2 ^ 7 + 0x13)).seqFetch 5 =
      (.word (2047 * 2 ^ 20 + 5 * 2 ^ 15 + 31 * 2 ^ 7 + 0x13), running5 (2047 * 2 ^ 20 + 5 * 2 ^ 15 + 31 * 2 ^ 7 + 0x13)) ∧ (XOp.cop 0 63 0 31).wf = true ∧
    ((running5 (XOp.cop 0 63 0 31).encode).seqFetch 5).1 = .word (XOp.cop 0 63 0 31).encode ∧
    ((running5 0xFFFFFFFF).seqFetch 5).1 = .word 0xFFFFFFFF ∧ busy.mtvec ≠ 0 ∧ busy.inTrap = false ∧
    spadSize - 1 < spadSize ∧ (running5 0).fathomSize ≤ 2 ^ 44 ∧ 5 < (running5 0).perchCount ∧ (running5 0).imageSize 5 = 4096 ∧ ((running5 0x13).perch 5).icache.find? (fun x => x.1 = 0x40 / 128) = ((running5 0x13).perch 5).icache.head? := by
  refine ⟨⟨?_, ?_⟩, ?_, ?_, ?_, ?_, ?_⟩
  iterate 2 decide +kernel
  iterate 5 decide +kernel

theorem test_fetch_fills_icache : ((cold5 0x13).seqFetch 5).1 = .word 0x13 ∧ (((cold5 0x13).seqFetch 5).2.perch 5).icache =
    [(0, clean (List.replicate 64 0 ++ leBytes 4 0x13 ++ List.replicate 60 0))] := by decide +kernel

theorem witness_CounterInstructions : Ready (st (withPerch busy)) 5 ∧ (withPerch { busy with ctr := [(63, 64)] }).ctr 5 63 = 64 ∧
    (busy.core.gx 5 ≤ (withPerch { busy with ctr := [(63, 64)] }).ctr 5 63) ∧ ((withPerch busy).ctr 5 63 < busy.core.gx 5) ∧
    (let d := withPerch { busy with ctr := [(63, 64)], stall := .cwait 63 64 7 }; d.on = true ∧ d.runs? 5 = true ∧ d.inTime 5 = true ∧ (d.perch 5).stall = .cwait 63 64 7 ∧
      64 ≤ d.ctr 5 63) := by
  refine ⟨⟨?_, ?_⟩, ?_⟩ <;> decide +kernel

/-- Perch 5 with a context. -/
def withCtx (c : DmaCtx) : Dev := withPerch { busy with ctx := [(7, c)] }

theorem witness_PerchFence : Ready (st (withPerch busy)) 5 ∧ (withPerch busy).dmaIdle 5 = true ∧ (withCtx { state := 1, queue := [{}] }).dmaIdle 5 = false ∧
    (withPerch busy).fenceManaged 3 = true ∧
    ({ world with charter := { parts := [{}, {}, {}, { flags := 2 }] } } : Dev).fenceManaged 3 = false := by
  refine ⟨⟨?_, ?_⟩, ?_⟩ <;> decide +kernel

theorem witness_DmaInstructions : Ready (st (withPerch busy)) 5 ∧
    (let d := (withCtx { queue := [{}, {}, {}] }).drainStores 5; (64 : Nat) % 32 = 0 ∧ 64 + 64 ≤ spadSize ∧
      anyPoison (d.spadRead 5 64 (dmaSize ((d.spadByte 5 64).1.toNat))) = false ∧ (d.ctxOf 5 7).queue.length < 4) ∧
    4 ≤ ((withCtx { queue := [{}, {}, {}, {}] }).ctxOf 5 7).queue.length ∧
    (({ busy with core := { busy.core with x := [(5, 65)] } } : Perch).core.gx 5) % 32 ≠ 0 ∧ (withCtx {}).ctxOf 5 7 = {} ∧
    ((withCtx { queue := [{}] }).ctxOf 5 7).queue ≠ [] ∧ ((withCtx {}).ctxOf 5 7).queue = [] := by
  refine ⟨⟨?_, ?_⟩, ?_⟩ <;> decide +kernel

/-- A 1D descriptor that fills bytes of the own scratchpad with zeros (R101: TYPE 1, DST_LOCAL and ZFILL; CTR 9). -/
def zfillDesc (flags dst len : Nat) : List Byte :=
  fitTo 64 (leBytes 1 1 ++ leBytes 1 flags ++ leBytes 1 9 ++ leBytes 5 0 ++ leBytes 8 0 ++ leBytes 8 dst ++ leBytes 4 len ++ leBytes 4 0)

theorem witness_DescriptorStarts :
    (let d := withCtx { state := 1, queue := [{ raw := zfillDesc 0x12 (spadSize - 32) 32 }] }; let r := zfillDesc 0x12 (spadSize - 32) 32
      d.on = true ∧ d.runs? 5 = true ∧ d.inTime 5 = true ∧ 5 < d.perchCount ∧ (d.ctxOf 5 7).queue = [{ raw := r }] ∧ (d.ctxOf 5 7).state < 2 ∧
      (d.perch 5).wcb = [] ∧ d.remote.any (fun o => o.isRead && o.agent.ofCtx 5 7) = false ∧ d.dmaChecks 5 r = true ∧ dmaType r = 1 ∧ dmaZfill r = true ∧
      dmaDstLocal r = true ∧ dmaArrive r = false ∧ dmaLen r = 32 ∧ d.fathomSize ≤ 2 ^ 44 ∧ dmaCtr r = 9) ∧
    (withCtx {}).dmaChecks 5 (zfillDesc 0x12 0 0) = true ∧ dmaEmpty (zfillDesc 0x12 0 0) = true ∧
    (withCtx {}).dmaChecks 5 (zfillDesc 0x12 (spadSize - 31) 32) = false ∧ (withPerch busy).collQuiet 5 1 = true := by decide +kernel

theorem witness_DescriptorCompletes :
    (let x : DmaDesc := { raw := zfillDesc 0x12 0 32, started := true, leaves := some ([], []), pos := 32, landed := 32 }
      let d := withCtx { state := 1, queue := [x] }
      d.on = true ∧ d.powered 5 = true ∧ (d.ctxOf 5 7).queue = [x] ∧ (d.ctxOf 5 7).state < 2 ∧ d.dmaOpen 5 7 x = false ∧ x.lost = false) ∧
    (let x : DmaDesc := { raw := zfillDesc 0x12 0 32, started := true, leaves := some ([], []), pos := 32, landed := 32, lost := true }
      let d := withPerch { busy with stall := .fence 1, ctx := [(7, { state := 1, queue := [x] })] }
      d.powered 5 = true ∧ d.dmaOpen 5 7 x = false ∧ (d.perch 5).stall = .fence 1) ∧
    (withPerch { busy with arrivals := [(7, 6, 63)] }).on = true ∧ ((withPerch { busy with arrivals := [(7, 6, 63)] }).perch 5).arrivals.find? (fun a => a.1 = 7) = some (7, 6, 63) ∧
    6 < world.perchCount := by decide +kernel

/-- An endpoint's configuration word: role, peer perch and endpoint, counter, ring size and base in KiB (R114). -/
def epWord (role peer peerEp ctr kib base : Nat) : Nat := role * 2 ^ 62 + peerEp * 2 ^ 57 + peer * 2 ^ 45 + ctr * 2 ^ 39 + kib * 2 ^ 30 + base * 2 ^ 19

/-- Perch 5 sends on its endpoint 1 to endpoint 2 of perch 6, which runs too. -/
def channel (a b : Endpoint) : Dev :=
  (withPerch { busy with ep := [(1, { a with cfg := epWord 1 6 2 63 64 0 })] }).setPerch 6 { busy with ep := [(2, { b with cfg := epWord 2 5 1 62 64 1024 })] }

theorem witness_StreamChannels :
    Ready (st (channel {} {})) 5 ∧ (let e := (channel {} {}).endp 5 1; epRole e.cfg = 1 ∧ busy.core.gx 6 ≤ 65536 ∧ busy.core.gx 6 % 32 = 0 ∧
      busy.core.gx 6 ≤ epRingKib e.cfg * 1024 ∧ busy.core.gx 5 % 32 = 0 ∧ busy.core.gx 5 + busy.core.gx 6 ≤ spadSize ∧ e.pending.length < 4) ∧
    (let d := channel {} { credits := 1 }; d.seqReady 6 = true ∧ epRole (d.endp 6 2).cfg = 2 ∧ busy.core.gx 6 ≤ (d.endp 6 2).credits * 32 ∧
      d.partner 6 2 = some (5, 1) ∧ d.collQuiet 6 1 = true ∧ (withPerch { busy with ep := [(1, { cfg := epWord 2 6 2 63 64 0, credits := 1 })] }).partner 5 1 = none) ∧
    (let d := channel {} {}; epRole (d.endp 6 2).cfg = 2 ∧ (d.endp 6 2).credits * 32 < busy.core.gx 6) ∧
    (let d := channel { pending := [(64, 64, 32)], credits := 1 } {}; let e := d.endp 5 1; e.pending = [(64, 64, 32)] ∧ 64 - 32 ≤ e.credits * 32 ∧
      d.partner 5 1 = some (6, 2) ∧ d.channelCut 5 6 = false ∧ epCtr e.cfg = 63) ∧
    (let d := channel { pending := [(64, 64, 0)], credits := 1 } {}; let e := d.endp 5 1; 0 < e.credits ∧ e.credits * 32 < 64 - 0) ∧
    (let d := channel {} { transit := [(List.replicate 32 (0#8, false), false), (List.replicate 32 (0#8, false), true)] };
      (d.endp 6 2).transit = [(List.replicate 32 (0#8, false), false)] ++ (List.replicate 32 (0#8, false), true) :: [] ∧ epCtr (d.endp 6 2).cfg = 62) ∧
    (let d := channel { creditIn := 1 } {}; d.channelCut (epPeer (d.endp 5 1).cfg) 5 = false ∧ (d.endp 5 1).pending = []) ∧
    (let d := channel { pending := [(64, 64, 0)], creditIn := 1 } {}; let e := d.endp 5 1; d.partner 5 1 = some (6, 2) ∧ d.channelCut 5 6 = false ∧
      0 < e.credits + e.creditIn ∧ (e.credits + e.creditIn) * 32 < 64 - 0) := by
  refine ⟨⟨?_, ?_⟩, ?_⟩ <;> decide +kernel

/-- Perch 5 with an array. -/
def withArr (a : Arr) : Dev := withPerch { busy with arr := a }

/-- A load of format 0 from scratchpad offset 64. -/
def aLoad : ArrCmd := { isLoad := true, tileOff := 64 }

/-- A pass descriptor (R140): rows at 0, results at 128, no mask, counter 9. -/
def passDesc : List Byte := fitTo 32 (leBytes 4 0 ++ leBytes 4 8 ++ leBytes 4 128 ++ leBytes 4 128 ++ leBytes 8 0 ++ leBytes 4 0xFFFFFFFF ++ leBytes 1 9)

/-- An MXM of one row with that descriptor. -/
def aPass : ArrCmd := { rows := 1, desc := passDesc, ticket := 1 }

/-- Perch 5 with an array and the descriptor at scratchpad offset 64. -/
def issuing (a : Arr) : Dev := ((withArr a).spadWrite 5 64 (clean passDesc)).drainStores 5

/-- The MXM of the witness as it issues with an array. -/
def mxmCmd (a : Arr) : ArrCmd :=
  { word := (XOp.mxm 0 false false false 5 6 7).encode, fmt := 0, rows := 32, ticket := (a.issued + 1) % 2 ^ 32, desc := passDesc, plane := a.streamPlane }

/-- Its descriptor with a mask at scratchpad offset 256 that masks 32 rows, and one whose mask holds poison. -/
def maskDesc : List Byte := fitTo 32 (leBytes 4 0 ++ leBytes 4 8 ++ leBytes 4 128 ++ leBytes 4 128 ++ leBytes 8 0 ++ leBytes 4 256 ++ leBytes 1 9)

/-- Perch 5 with a mask word of bytes at scratchpad offset 256. -/
def masked (w : List PByte) : Dev := (withArr {}).spadWrite 5 256 w

theorem witness_ArrayIssue : Ready (st (withArr {})) 5 ∧
    (let a : Arr := {}; let desc := plain ((issuing a).spadRead 5 64 32)
      (fmtScalable 0 = true ∧ busy.core.gx 6 + fmtK 0 ≤ spadSize ∧ busy.core.gx 6 % 32 = 0 ∧ busy.core.gx 5 + fmtTileBytes 0 ≤ spadSize ∧ busy.core.gx 5 % 32 = 0) ∧
      a.queue.length < 4 ∧ a.tileFmt a.streamPlane = none ∧ busy.core.gx 6 < 2 ^ 24 ∧ busy.core.gx 5 + 32 ≤ spadSize ∧
      anyPoison ((issuing a).spadRead 5 64 32) = false ∧ desc = passDesc ∧ passOk desc 8 false (busy.core.gx 6) = true ∧ a.queue.all (·.isLoad) = true ∧
      ((issuing a).readMask 5 (mxmCmd a) 0).toOption = some (mxmCmd a) ∧ (issuing a).noRow 5 (mxmCmd a) = false ∧
      a.inflight = [] ∧ a.queue.any (·.isLoad) = false) ∧
    (let c : ArrCmd := { mxmCmd {} with desc := maskDesc }; let d := masked (clean (List.replicate 32 0xFF#8))
      passOk maskDesc 0 false 32 = true ∧ ∃ e, (d.readMask 5 c 0).toOption = some e ∧ d.noRow 5 e = true) ∧
    (let c : ArrCmd := { mxmCmd {} with desc := maskDesc }; (match (masked [(0#8, true)]).readMask 5 c 0 with | .error o => some o | .ok _ => none) = some 256) ∧
    (let a : Arr := { queue := [aLoad, aLoad, aLoad, aLoad], inflight := [aPass] }; 4 ≤ a.queue.length ∧ a.inflight ≠ [] ∧ a.queue.any (·.isLoad) = true ∧
      a.tileFmt a.streamPlane = some 0 ∧ passOk (plain ((issuing a).spadRead 5 64 32)) 0 false (busy.core.gx 6) = true ∧
      anyPoison ((issuing a).spadRead 5 64 32) = false) := by
  refine ⟨⟨?_, ?_⟩, ?_, ⟨?_, ⟨{ mxmCmd {} with desc := maskDesc, mask := List.replicate 32 0xFF#8 }, ?_, ?_⟩⟩, ?_, ?_⟩
  iterate 2 decide +kernel
  · decide +kernel
  iterate 3 decide +kernel
  · decide +kernel
  · decide +kernel

theorem witness_ArrayWork :
    (let d := withArr { queue := [aLoad, aPass] }; d.on = true ∧ d.powered 5 = true ∧ (d.perch 5).arr.queue = [aLoad, aPass] ∧ aLoad.isLoad = true ∧
      aLoad.scaled = false ∧ anyPoison (d.spadRead 5 aLoad.tileOff (fmtTileBytes aLoad.fmt)) = false) ∧
    (let d := withArr { queue := [aPass], activity := 4 }; (d.perch 5).arr.queue = [aPass] ∧ aPass.isLoad = false ∧ aPass.acc = false ∧ aPass.scaled = false ∧
      aPass.rows = 1 ∧ aPass.next = 0 ∧ aPass.fed = 0 ∧ pdMask aPass.desc = 0xFFFFFFFF ∧ 4 ≤ (d.perch 5).arr.activity ∧ (d.perch 5).arr.wrote = [] ∧
      1 ≤ (⟨0, 1, 0⟩ : PassFeed).rows ∧ anyPoison (d.spadRead 5 (pdABase aPass.desc) (fmtRowBytes aPass.fmt)) = false) ∧
    ((withArr { inflight := [aPass] }).perch 5).arr.nextDone = some aPass ∧ aPass.zfill = false := by decide +kernel

theorem witness_KeeperRamps : (withArr {}).keeper = true ∧ 2 ≤ ((withArr {}).perch 5).pstate ∧
    (let a : Arr := { window := true }; a.window = true ∧ a.inGap = true) ∧
    (let a : Arr := { ramp := true, activity := 3, queue := [aLoad, aPass] }; a.ramp = true ∧ a.window = false ∧ a.activity ≠ 0 ∧ a.inGap = true ∧ a.ready = false) ∧
    (let a : Arr := { activity := 3, queue := [aPass] }; a.activity < 4 ∧ a.ready = true) ∧ ((world.setPerch 5 { pstate := 2 }).perch 5).pstate = 2 := by decide +kernel

/-- A core with 8 elements of 32 bits. -/
def vecCore : RvCore := { vtype := 0x10, vl := 8, vill := false }

/-- Operands of a conversion: v2 into v4. -/
def vxRegs : VxFields := { fmt := 0, sat := false, sr := false, vm := true, vs2 := 2, rs1 := 0, vd := 4 }

theorem witness_VectorConversions : Ready (st (withPerch { busy with core := vecCore })) 5 ∧
    (((withPerch { busy with core := vecCore }).perch 5).core.vl ≤ 512 ∧ (∀ kind, kind < 5 → vxLegal vecCore kind vxRegs = true) ∧
      vxLegal vecCore 0 { vxRegs with fmt := 9 } = false ∧ vxLegal vecCore 0 { vxRegs with vd := 2 } = false) := by
  refine ⟨⟨?_, ?_⟩, ?_⟩ <;> decide +kernel

/-! ### Obligations of memory, caches, the tier mover, ownership and translation -/

/-- A request of partition 3 for the fathom tier. -/
def rq3 : HomeReq := { pa := 0x100000020000, part := 3, unit := 35, req := 0, noAlloc := false, exempt := false, die := 0 }

/-- An exempt request for the last bytes of a line of stacked memory. -/
def rqX : HomeReq := { pa := 0x1078, part := 16, unit := 38, req := 0, noAlloc := true, exempt := true, die := 0 }

theorem witness_HomeAccess :
    (∀ r, r ∈ [rq3, rqX] → world.hasHome r.pa = true ∧ world.accFault (world.homeRq r) r.pa = none ∧ world.admits r = true ∧
      world.recallDeferred (r.pa / 128) = false ∧ 8 ≤ 128 - r.pa % 128 ∧ r.pa % 8 = 0 ∧ (world.stewLine 0 (r.pa / 128)).dirty = false) ∧
    world.flaws = [] ∧ world.findings = [] ∧ world.region rq3.pa = .fathom ∧ (world.wcb.filter (fun e => e.die = 2 && e.channel = channelOf 0x1000)).length < 64 ∧
    (let d := world.updHart 4 (fun t => { t with resv := some (rqX.pa / 128), deferring := true }); d.recallDeferred (rqX.pa / 128) = true ∧
      d.hasHome rqX.pa = true ∧ d.accFault (d.homeRq rqX) rqX.pa = none) ∧
    (let d : Dev := { world with charge := KMap.set 0 [] (0 * 16 + 3) (100 * 4096) }; d.charged 0 3 = 100 * 4096 ∧ d.admits rq3 = false) ∧
    world.hasHome 0x800000000000 = false ∧ world.accFault (world.homeRq { rq3 with part := 4 }) rq3.pa = some 3 := by decide +kernel

theorem witness_BufferAndScrub :
    (let e : WcbEntry := { die := 2, channel := 1, line := 7, data := 0, mask := 2 ^ 128 - 2 ^ 96 }
      let rest := (List.range 55).map (fun i => ({ die := 2, channel := 1, line := 100 + i, data := 0, mask := 1 } : WcbEntry))
      let d : Dev := { world with wcb := e :: rest }; let mine := d.wcb.filter (fun x => x.die = 2 && x.channel = 1)
      d.on = true ∧ d.flaws = [] ∧ d.findings = [] ∧ d.wcbFind 2 1 7 = some e ∧ mine.head? = some e ∧ 56 ≤ mine.length ∧ rest.length < 56) ∧
    (let d : Dev := { world with charter := { world.charter with ras := { scrubH := 24 } } }; d.on = true ∧ d.charter.ras.scrubH ≠ 0 ∧ d.dies.contains 7 = true ∧
      d.dieFailed 7 = false ∧ d.scrubSectors 7 ≠ 0 ∧ d.scrubSectors 0 ≠ 0) := by decide +kernel

/-- Die 2's chain 0 may fill every way, and a fill of line 9 is in flight. -/
def filling (f : Fill) : Dev :=
  let d := (world.wr 2 (chainFld Reg.CHAIN_CTRL.EN 0) 1).wr 2 ((chainFld Reg.CHAIN_WAYMASK.MASK 0).at 8 3) 0xFFFF
  { d with chains := [(mmuChain 2 0, { fills := [f] })] }

theorem witness_CacheFillsAndWays :
    (let f : Fill := { line := 9, part := 3 }; let d := filling f; (d.chain 2 0).fills.find? (fun f => f.line = 9) = some f ∧ f.install = true ∧ f.side = false ∧
      (d.chain 2 0).holds 9 = false ∧ d.chainEn 2 0 = true ∧ d.chainElig 2 0 3 % 2 ^ 16 ≠ 0) ∧
    ({ line := 9, side := true } : Fill).side = true ∧ ({ line := 9, install := false } : Fill).install = false ∧ world.computeDies.contains 7 = true ∧
    (2 ≤ KMap.get 0 ({ uncorr := [(15, 2)], off := 7 } : Cache).uncorr 15 ∧ popcount 7 16 < 4 ∧ 64 ≤ KMap.get 0 ({ corr := [(15, 64)] } : Cache).corr 15) ∧
    bit (world.sysc 7).off 15 = false ∧ world.flaws = [] ∧ world.findings = [] ∧
    (let d : Dev := { world with sysCache := [(7, { off := 2 ^ 15 })] }; bit (d.sysc 7).off 15 = true ∧ bit (d.rd 7 Reg.MEMC_SC_WAYS.DISABLED) 15 = false) ∧
    (let d := world.setChain 7 21 { cache := { off := 2 ^ 15 } }; bit (d.chain 7 21).cache.off 15 = true ∧
      bit (d.rd 7 (chainFld Reg.CHAIN_WAYS.DISABLED 21)) 15 = false) ∧
    (let d : Dev := { world with sysCache := [(1, { off := 2 ^ 15 })] }; d.stewardDies.contains 1 = true ∧ bit (d.sysc 1).off 15 = true ∧
      bit (d.sysc 1).gone 15 = false) := by
  decide +kernel

/-- One entry of the move list in this tick, for die 0. -/
def moving (e : MoveEntry) : Dev :=
  let sched : Sched := { world.charter.sched with moves := [e], patterns := [{ spanCount := 1, moveCount := 1 }] }
  { world.wr 1 (Reg.BMC_BW_BUDGET.BUDGET.at 8 3) 100 with charter := { world.charter with sched := sched } }

/-- An entry of a kind that moves 128 bytes from DVA 0x10000 to 0x20000, due 100 µs into the tick. -/
def mEntry (kind : Nat) : MoveEntry := { kind := kind, partition := 3, startNs := 100000, deadlineNs := 200000, src := 0x10000, dst := 0x20000, amount := 128 }

/-- Whether each byte of a range is of the fathom tier, may be accessed and lies outside the owner table. -/
def fathomOk (d : Dev) (q : Rq) (pa n : Nat) : Bool :=
  (List.range n).all (fun i => d.region (pa + i) = .fathom && (d.accFault q (pa + i)).isNone && (d.ownerCell (pa + i)).isNone)

theorem inFathom_of {d : Dev} {q : Rq} {pa n : Nat} (h : fathomOk d q pa n = true) : d.inFathom q pa n := by
  intro i hi
  have := List.all_eq_true.mp h i (List.mem_range.mpr hi)
  simp only [Bool.and_eq_true, decide_eq_true_eq, Option.isNone_iff_eq_none] at this
  exact ⟨this.1.1, this.1.2, this.2⟩

/-- Whether the homes of a range have no deferred line in it and room in the budget of partition 3 for what a mover entry reads and writes there. -/
def roomOk (d : Dev) (pa n : Nat) : Bool :=
  (List.range n).all (fun i => !d.recallDeferred ((pa + i) / 128) && decide (d.charged (d.homeDie (pa + i)) 3 + 4 * n + 512 ≤ d.budget (d.homeDie (pa + i)) 3 * 4096))

/-- What the statement asks of a range of 128 bytes of the fathom tier. -/
def rangeOk (d : Dev) (q : Rq) (pa : Nat) : Bool :=
  fathomOk d q pa 128 && roomOk d pa 128 && !(d.stewLine 0 (pa / 128)).dirty && d.flaws.isEmpty && d.findings.isEmpty

/-- The copy, or the zeroing, of the test meets every hypothesis on its ranges, from the device that its start leaves. -/
def moverOk (kind : Nat) : Bool :=
  match (moving (mEntry kind)).moveStart 0 0 kind with
  | some (e, m, d) =>
    let x := Dev.moverXq 0 m.slot e.partition
    let q := x.rq (bit e.flags 1) false
    let src := d.translateRange x e.src 128 axRead
    let from_ := if kind = 1 then src.2 else d
    let dst := from_.translateRange x e.dst 128 axWrite
    decide (m.pos = 0) && decide (m.done = 0) && (match src.1, dst.1 with
      | .ok [(a, 128)], .ok [(b, 128)] => d.localOf a == some 0x100000020000 && dst.2.localOf b == some 0x100000030000
      | _, _ => false)
    && rangeOk dst.2 q 0x100000030000 && (kind = 2 || rangeOk dst.2 { q with noAlloc := false } 0x100000020000)
  | none => false

theorem witness_MoverEntries : (∀ kind, kind ∈ [1, 2, 3, 4, 5, 6] → ((moving (mEntry kind)).moveStart 0 0 kind).map (·.1) = some (mEntry kind)) ∧
    (∀ kind, kind ∈ [1, 2, 3, 4, 5, 6] → let e := { mEntry kind with amount := 0 }; ((moving e).moveStart 0 0 kind).map (·.1) = some e ∧ bit e.flags 0 = false) ∧
    moverOk 1 = true ∧ moverOk 2 = true := by
  decide +kernel

theorem witness_MoverEnds :
    (let d := (moving (mEntry 1)).setMove 0 0 { state := 1, whole := true, done := 128 }; d.on = true ∧ d.moveList[0]? = some (mEntry 1) ∧ (d.moveRun 0 0).state = 1 ∧
      max d.elapsed 150000 < d.tailGuard ∧ (d.moveRun 0 0).fail = 0 ∧ (d.moveRun 0 0).whole = true ∧ d.awaits (.mover 0 0) = false ∧ d.dispatching = true ∧
      d.stewardDies.contains 0 = true ∧ d.dieFailed 0 = false) ∧
    (let d := (moving (mEntry 1)).setMove 0 0 { state := 1, fail := 3 }; (d.moveRun 0 0).state = 1 ∧ (d.moveRun 0 0).fail = 3) := by decide +kernel

/-- The first page of the fathom tier by its index. -/
def page0 : Nat := world.stackedPages

/-- Partition 3 with page tables in its own pages: the root at page 0 of the fathom tier leads over three tables to a leaf for DVA 0. -/
def tables (last : Nat) : Dev :=
  let d := ((List.range 6).foldl (fun (d : Dev) i => d.setOwner (page0 + i) 3) world).wr 0 (Reg.MMU_ROOT.ROOT.at 8 3) (fathomBase / 4096)
  let pte := fun (page flags : Nat) => leBytes 8 ((fathomBase / 4096 + 16 * page) * 2 ^ 10 + flags)
  (((d.setRawList fathomBase (pte 1 1)).setRawList (fathomBase + 0x10000) (pte 2 1)).setRawList (fathomBase + 0x20000) (pte 3 1)).setRawList (fathomBase + 0x30000)
    (leBytes 8 ((fathomBase / 4096 + 16 * 4 + 8) * 2 ^ 10 + last))

theorem witness_OwnershipAndTranslation :
    (let d := world.wr 0 (Reg.BMC_PAGES_FATHOM.QUOTA.at 16 3) 2; d.on = true ∧ d.rd 0 Reg.BMC_OWN_STATUS.BUSY = 0 ∧ d.ownOutside page0 2 = none ∧
      d.ownerOf page0 = 0xFF ∧ d.ownerOf (page0 + 1) = 0xFF ∧ d.rd 0 (d.pagesUsed page0 3) + 2 ≤ d.rd 0 (Reg.BMC_PAGES_FATHOM.QUOTA.at 16 3) ∧ ¬page0 < d.stackedPages) ∧
    (let d := world.setOwner (page0 + 1) 4; d.ownerOf page0 = 0xFF ∧ d.ownerOf (page0 + 1) < 16) ∧ (world.setOwner page0 3).ownerOf page0 = 3 ∧
    (let c : SlowCmd := { op := 2, part := 3, count := 1, at_ := page0 }; let d : Dev := { world with ownCmd := some c }; d.ownCmd = some c ∧
      d.ownOutside c.at_ c.count = none ∧ d.rd 0 Reg.BMC_OWN_BASE.BASE = 0) ∧
    (let d := tables (2 ^ 63 + 7); let x : Xq := { mmu := mmuHif, part := 3, unit := 35, req := 0, die := 0 }; unitMmu 0 35 = some mmuHif ∧
      d.rd 0 (Reg.MMU_ROOT.VALID.at 8 3) = 1 ∧ d.tlb.find? (fun e => e.serves x 0) = none ∧ d.walkStart x 0 = none ∧
      (match (d.walkFrom x d.pkgId 0 3 (d.rd 0 (Reg.MMU_ROOT.ROOT.at 8 3) * 4096) []).1 with
        | .ok (e, _) => (d.targetFault 3 e.dva e.target e.size).isNone && needRights axWrite &&& e.rights == needRights axWrite
        | .error _ => false) = true) ∧
    (let d := tables 0; let x : Xq := { mmu := mmuHif, part := 3, unit := 35, req := 0, die := 0 }; d.rd 0 Reg.MMU_FAULT_INFO.VALID = 0 ∧
      (match (d.walkFrom x d.pkgId 0 3 (d.rd 0 (Reg.MMU_ROOT.ROOT.at 8 3) * 4096) []).1 with
        | .ok _ => false
        | .error t => t == ftNotValid) = true) ∧
    world.rd 0 Reg.MMU_INV_STATUS.BUSY = 0 ∧
    (let a := (world.wr 0 Reg.MMU_INV_ADDR.ADDR (2 ^ 31 - 1)).rd 0 Reg.MMU_INV_ADDR.ADDR * 65536; a + 1 * 65536 ≤ 2 ^ 47) ∧
    (let c : SlowCmd := { op := 2, part := 3, count := 0, at_ := 0 }; ({ world with invCmd := some c } : Dev).invWaits c = false) := by decide +kernel

theorem witness_OwnerTableAbsent (a : Nat) : world.ownerCell a = none := by
  have h : world.rd 0 Reg.BMC_OWN_BASE.BASE = 0 := by decide +kernel
  unfold Dev.ownerCell
  simp [h]

/-! ### Obligations of the collectives, the links and the league -/

/-- A barrier of partition 3 whose members 0 and 1 are perches 5 and 6 with span 1. -/
def barrier : CollDef := { collId := 9, op := 4, partition := 3, deadlineNs := 5000000, memberCount := 2 }

/-- The members: counters 1 and 2, records from DVA 0x10000 and 0x10100. -/
def member (p status : Nat) : CollMember := { readyCtr := 1, doneCtr := 63, perch := p, spanId := 1, postOff := 128, statusDva := status }

/-- Both perches run; member 0 has incremented its ready counter to 1; the coordinator holds a state of the definition. -/
def collecting (z : CollDefState) : Dev :=
  let sched : Sched := { world.charter.sched with collDefs := [barrier], collMembers := [member 5 0x10000, member 6 0x10100] }
  let d := (world.setPerch 5 { busy with ctr := [(1, 1)] }).setPerch 6 busy
  { (d.wr 1 (Reg.BMC_BW_BUDGET.BUDGET.at 8 3) 100) with charter := { d.charter with sched := sched }, colls := [(9, z)] }

/-- Invocation 1 waits for its members to complete. -/
def decided : CollInst := { k := 1, tick := 1, ready := true, phase := 2 }

/-- The coordinator with that instance, and what is outstanding. -/
def completing (i : CollInst) (ops : List RemoteOp) : Dev := { collecting { posted := [(0, 1), (1, 1)], begun := 1, insts := [i] } with remote := ops }

/-- The write of a member's result to another package. -/
def memberWrite : RemoteOp := { tag := 1, agent := .coll 2 9 1 0 2, pkg := 7, addr := 0x100000000000, len := 8, isRead := false, dest := [], plane := 1 }

theorem witness_Collectives :
    (let d := collecting { posted := [(1, 1)] }; d.on = true ∧ d.collDef 9 = some barrier ∧ d.collPick 9 0 = some (barrier, member 5 0x10000) ∧
      d.memberRuns (member 5 0x10000) = true ∧ (d.coll 9).count 0 < KMap.get 0 (d.perch 5).ctr 1 ∧ d.elapsed ≤ barrier.deadlineNs ∧ d.collPeers barrier = [] ∧
      KMap.get 0 (d.perch 5).ctr 1 = (d.coll 9).begun + 1 ∧ (d.coll 9).gone = [] ∧ (d.coll 9).missed = [] ∧ d.collLost barrier = none ∧ d.collRoom barrier = true ∧
      (∀ z ∈ d.collMine barrier, z.2 ≠ 0 → 1 ≤ (d.coll 9).count z.2) ∧ (d.coll 9).insts = [] ∧ d.collReading barrier 1 = false ∧
      (∀ a ∈ d.collDies barrier, ∀ b ∈ d.collDies barrier, d.unreached a b = false)) ∧
    (let d : Dev := { collecting {} with elapsed := 5000001 }; barrier.deadlineNs < d.elapsed ∧ d.collAllPosted barrier (d.coll 9) 1 = false ∧ (d.coll 9).insts = []) := by decide +kernel

theorem witness_Collectives_complete :
    (∀ i, i ∈ [decided, { decided with done := [1] }] → let d := completing i []
      (d.coll 9).insts.find? (fun i => i.k = 1) = some i ∧ i.ready = true ∧ i.phase = 2 ∧ i.verdict = none ∧ 0 ∉ i.wrote ∧ 0 ∉ i.done ∧ d.collLost barrier = none ∧
      (d.coll 9).insts.any (fun j => j.k < 1 && !j.done.contains 0) = false ∧ 1 ≤ (d.coll 9).begun ∧ (member 5 0x10000).doneCtr < 64 ∧
      d.collWriteHeld barrier i 0 (member 5 0x10000) = false ∧ (d.collTargets barrier i 0 (member 5 0x10000)).1 = true ∧
      ((d.collTargets barrier i 0 (member 5 0x10000)).2.dvaWrite (collXq 2 3) (.coll 2 9 1 0 2) ((collXq 2 3).rq false false) none 0 []).2.collWriting barrier 1 0 = false ∧
      (d.collMine barrier).all (fun z => z.2 = 0 || i.done.contains z.2) = (i.done == [1]) ∧ i.result = [] ∧ i.residues = []) := by decide +kernel

theorem witness_Collectives_writing :
    (let d := completing decided [memberWrite]; (d.collTargets barrier decided 0 (member 5 0x10000)).1 = true ∧ d.collLost barrier = none ∧
      ((d.collTargets barrier decided 0 (member 5 0x10000)).2.dvaWrite (collXq 2 3) (.coll 2 9 1 0 2) ((collXq 2 3).rq false false) none 0 []).2.collWriting barrier 1 0 = true) ∧
    (let i : CollInst := { decided with result := [(0#8, false)] }; let d := completing i []; d.collWriteHeld barrier i 0 (member 5 0x10000) = false ∧
      (d.collTargets barrier i 0 (member 5 0x10000)).1 = false ∧ ∀ j ∈ (d.coll 9).insts, 1 ≤ j.k ∧ j.k ≤ 1 ∧ j.verdict = none) := by decide +kernel

theorem witness_Collectives_record :
    (let d := completing decided []; d.flaws = [] ∧ d.findings = [] ∧ (match d.translate (collXq 2 3) 0x10000 axWrite with
        | (.ok t, _) => d.localOf t == some 0x100000020000
        | _ => false) = true ∧ fathomOk d ((collXq 2 3).rq false true) 0x100000020000 32 = true ∧ (d.coll 9).insts.any (fun i => i.k = 1) = true) := by decide +kernel

theorem witness_Collectives_ends :
    (let d := collecting { posted := [(1, 1)] }; d.collAnyPosted barrier (d.coll 9) 1 = true ∧ d.collAllPosted barrier (d.coll 9) 1 = false ∧
      d.rd 0 Reg.COLL_LAST_ERR.VALID = 0) ∧
    (let d := collecting { posted := [(1, 2), (0, 1)], begun := 1, insts := [decided] }; d.collAnyPosted barrier (d.coll 9) 2 = true ∧
      d.collAllPosted barrier (d.coll 9) 2 = false ∧ ∀ j ∈ (d.coll 9).insts, j.k ≤ 1 ∧ j.verdict = none) := by decide +kernel

/-- Two slots: this package is slot 0, ID 0; package 7 holds slot 1 with epoch 5. The links are on. -/
def linked (role : Nat) : Dev :=
  let d := ((((world.setStage 8).wr 0 Reg.LINK_CFG.ROLE role).wr 0 (Reg.LINK_ROUTE.VALID.at 8 7) 1).wr 0 (Reg.LINK_ROUTE.EPOCH.at 8 7) 5).wr 0 (Reg.LINK_ROUTE.SLOT.at 8 7) 1
  { d with charter := { d.charter with topo := { d.charter.topo with slots := [{ serial := 11, id := 0, role := 1 }, { serial := 12, id := 7, role := 2 }] } } }

/-- The port of plane 1 (die 0, port 1) with a state. -/
def porting (st : Nat) : Dev := ((linked 1).portWr 1 Reg.LINK_PORT_STATUS.STATE st).portWr 1 Reg.LINK_PORT_STATUS.WIDTH 2

/-- An IDENT of the switch of plane 1 that fits. -/
def identOf (digest : Nat) : Ident :=
  { kind := 2, port := 0, plane := 1, slot := 0, major := Config.protoMajor.toNat, minor := 0, cause := 0, serial := 0, fwVersion := 0, digest := digest }

/-- The IDENT passes where its digest is none or the charter's. -/
theorem identOf_passes (st dg : Nat) (h : dg = 0 ∨ dg = (porting st).digest) (h1 : (porting st).rd 0 Reg.LINK_CFG.SLOT = 0) :
    (porting st).identCause 1 (identOf dg) = none := by
  have h2 : (porting st).charter.topo.switchSerial = [] := rfl
  unfold Dev.identCause
  simp only [identOf, h1, h2]
  rcases h with rfl | rfl <;> simp

theorem witness_LinkPorts :
    ((linked 1).on = true ∧ (linked 1).planeOf 0 1 = some 1 ∧ (linked 1).planeOf 1 3 = some 7 ∧ (linked 1).linksOn = true ∧ (linked 1).portState 1 ≤ 1 ∧
      laneWidth [true, true, true, true] = 2 ∧ laneWidth [true, false, true, false] = 0) ∧
    (∀ st, st ∈ [psTraining, psConfig, psUp, psQuarantined, psFenced] → (porting st).portState 1 = st ∧ (porting st).portRd 1 Reg.LINK_PORT_STATUS.WIDTH ≠ 0) ∧
    (porting psConfig).rd 0 Reg.LINK_CFG.SLOT = 0 ∧ 7 ≠ (linked 1).pkgId ∧ (linked 1).rd 0 (Reg.LINK_ROUTE.VALID.at 8 7) = 1 ∧
    (porting psUp).identCause 1 { identOf 0 with kind := 1 } = some 6 := by decide +kernel

theorem witness_LinkPorts_ident : (porting psTraining).identCause 1 (identOf 0) = none ∧
    (let d := (porting psConfig).wr 0 (Reg.GLB_CHARTER_DIGEST.DIGEST.at 8 0) 3; d.digest = 3 ∧ d.rd 0 Reg.LINK_CFG.SLOT = 0 ∧ d.charter.topo.switchSerial = []) ∧
    (let d : Dev := { porting psFenced with league := { idents := [(1, some (identOf 3))] } }; KMap.get none d.league.idents 1 = some (identOf 3)) :=
  ⟨identOf_passes _ 0 (Or.inl rfl) (by decide +kernel), by decide +kernel, rfl⟩

/-- A packet of package 7, partition 3, to the fathom tier. -/
def pkt (type len : Nat) (payload : List Byte) : Packet :=
  { type := type, poison := false, masked := false, srcPkg := 7, dstPkg := 0, slice := 0, epoch := 5, partition := 3, tag := 1, addr := 0x100000020078, len := len,
    status := 0, mask := 0, payload := payload }

/-- The device with plane 1 UP, the page of the packets owned by partition 3. -/
def reached7 : Dev := (porting psUp).setOwner (page0 + 2) 3

/-- An access to package 7 that has not been answered. -/
def asked (a : Agent) (isRead : Bool) (n : Nat) : Dev :=
  { reached7 with remote := [{ tag := 1, agent := a, pkg := 7, addr := 0x100000000000, len := n, isRead := isRead, dest := [], plane := 1 }] }

theorem witness_LinkPackets :
    (reached7.on = true ∧ reached7.planeOf 0 1 = some 1 ∧ reached7.portState 1 = psUp ∧ reached7.packetDrop (pkt 1 8 []) = none ∧ reached7.halted = false ∧
      reached7.hasHome 0x100000020078 = true ∧ 0x100000020078 % 128 + 8 ≤ 128 ∧ reached7.ownerOf (reached7.pageIndex 0x100000020078) = 3 ∧
      reached7.accFault { part := 3, die := 0 } 0x100000020078 = none ∧ reached7.flaws = [] ∧ reached7.findings = [] ∧
      reached7.homeFull { part := 3, die := 0 } (fun _ => false) (reached7.pkgId * 2 ^ 48 + 0x100000020078) 8 = false ∧ 0x100000020078 % 8 = 0 ∧ (reached7.stewLine 0 (0x100000020078 / 128)).dirty = false) ∧
    (∀ p, p ∈ [({ pkt 2 8 [] with epoch := 4 }, Reg.LINK_DROP.STALE_EPOCH), ({ pkt 2 8 [] with epoch := 0 }, Reg.LINK_DROP.STALE_EPOCH),
        ({ pkt 2 8 [] with srcPkg := 6 }, Reg.LINK_DROP.SOURCE), ({ pkt 2 8 [] with slice := 1 }, Reg.LINK_DROP.SLICE),
        ({ pkt 2 8 [] with dstPkg := 1 }, Reg.LINK_DROP.FENCED)] → reached7.packetDrop p.1 = some p.2) ∧
    (let d : Dev := { reached7 with charge := KMap.set 0 [] (0 * 16 + 3) (100 * 4096) };
      d.homeFull { part := 3, die := 0 } (fun _ => false) (d.pkgId * 2 ^ 48 + 0x100000020078) 8 = true ∧ d.packetDrop (pkt 1 8 []) = none) ∧
    reached7.ownerOf (reached7.pageIndex 0x100000030078) ≠ 3 ∧ reached7.homeFull { part := 3, die := 0 } (fun _ => false) (reached7.pkgId * 2 ^ 48 + 0x100000030078) 8 = false ∧ reached7.opOf (pkt 0x81 8 []) true = none ∧ reached7.opOf (pkt 0x81 8 []) false = none ∧
    (let d := asked (.hif 0xFFFF) true 8; d.remote.all (fun o => o.held.isNone) = true ∧ (d.opOf (pkt 0x81 8 (List.replicate 8 1)) true).isSome = true ∧
      (d.taggedOp 1 true).isSome = true) ∧
    (let d := (asked (.hart 4) true 8).updHart 4 (fun t => { t with stall := .amo 8 31 64 }); ((d.opOf (pkt 0x83 8 (List.replicate 8 1)) true).map (·.agent)) = some (.hart 4) ∧
      (d.hart 4).stall = .amo 8 31 64) ∧
    (let d := asked (.dma 5 7 1) false 8; ((d.opOf (pkt 0x82 0 []) false).map (·.agent)) = some (.dma 5 7 1) ∧ ((d.taggedOp 1 false).map (·.agent)) = some (.dma 5 7 1)) ∧
    (let d : Dev := { reached7 with charter := (collecting {}).charter }; d.collOf { pkt 0x10 128 (List.replicate 128 0) with addr := 9 + 1024 } = some (barrier, 1) ∧
      d.packetDrop (pkt 0x11 8 []) = none ∧ fld ([2, 0, 0, 0, 8, 0, 0, 0] : List Byte) 0 1 = 2) := by decide +kernel

/-- A manager with package 7 as a member that joined. -/
def leading (k : PkgState) : Dev :=
  let d := (porting psUp).updBoot (fun b => { b with ready := true })
  { d with league := { d.league with pkgs := [(7, k)] } }

theorem witness_LeagueManager :
    (let d := leading { joined := true }; d.on = true ∧ d.isManager = true ∧ d.planeUp 1 = true ∧ d.planeOpen 1 = true ∧ d.rd 0 (Reg.LINK_ROUTE.EPOCH.at 8 7) = 5 ∧
      d.boot.ready = true ∧ d.halted = false ∧ d.charter.topo.slots[1]? = some { serial := 12, id := 7, role := 2 } ∧ d.digest = 0 ∧
      d.rd 0 Reg.LINK_CFG.FW_STRICT = 0 ∧ (d.wr 0 Reg.LINK_CFG.FW_STRICT 1).rd 0 Reg.LINK_CFG.FW_STRICT = 1 ∧ d.rd 0 Reg.LINK_EPOCH.NEXT = 0 ∧ d.sealed = true ∧ 7 ≠ d.pkgId ∧ (d.pkgState 7).joined = true ∧
      (d.pkgState 7).answered = false ∧ (d.pkgState 7).counted = false) ∧
    (let d := ((leading {}).wr 0 Reg.LINK_EPOCH.NEXT 65535).wr 0 Reg.GLB_SEAL_STATUS.SEALED 0; d.rd 0 Reg.LINK_EPOCH.NEXT ≠ 0 ∧ d.sealed = false ∧
      d.league.sealPlan = none ∧ d.league.entries.find? (fun x => x.id = 7 && x.valid && x.slot ≠ 1) = none ∧ d.rd 0 (Reg.LINK_ROUTE.SLOT.at 8 7) = 1 ∧ d.digest = 0 ∧ d.rd 0 Reg.LINK_CFG.FW_STRICT = 0) ∧
    ((leading { joined := true, counted := true }).pkgState 7).counted = true ∧
    (2 ≤ ((leading { joined := true, missed := 2 }).pkgState 7).missed ∧ (∀ p ∈ (leading {}).charter.plans, p.adopt = [])) ∧
    ((leading {}).wr 0 Reg.HIF_RELAY_CMD.GO_BUSY 1).rd 0 Reg.HIF_RELAY_CMD.GO_BUSY = 1 := by decide +kernel

/-- A worker in service whose plane 1 is UP. -/
def follower : Dev := ((linked 2).portWr 1 Reg.LINK_PORT_STATUS.STATE psUp).wr 0 Reg.LINK_STATE.LEAGUE 2

theorem witness_LeagueFollower :
    (follower.on = true ∧ follower.isFollower = true ∧ follower.isManager = false ∧ follower.planeUp 1 = true ∧ follower.planeOpen 1 = true ∧
      follower.halted = false ∧ follower.sealed = true ∧ follower.rd 0 Reg.LINK_STATE.LEAGUE = 2 ∧ follower.league.seen = false ∧
      follower.league.missCounted = false ∧ (follower.wr 0 Reg.RAS_PKG.HALTED 1).halted = true) ∧
    ({ follower with league := { joining := true } } : Dev).league.joining = true ∧ 7 ≠ follower.pkgId ∧ follower.rd 0 (Reg.LINK_ROUTE.VALID.at 8 7) = 1 ∧
    follower.rd 0 (Reg.LINK_ROUTE.SLOT.at 8 7) = 1 ∧ follower.rd 0 Reg.LINK_CFG.SLOT = 0 ∧
    (let e : RouteEntry := { id := 63, valid := false, slice := 0, slot := 1, epoch := 0, effective := 0 }; [e].all (fun e => !e.valid) = true) ∧
    follower.tick = 1 ∧ (follower.viewRead 0 0).isSome = true := by decide +kernel

/-! ### Obligations of the stream I/O engine and the SSDs -/

/-- An ingress flow on port 0: payload type 96, 8 slots of one cell at DVA 0x10000, closing two ticks after the media tick. -/
def inFlow : FlowEntry :=
  { kind := 1, partition := 3, pt := 96, jitter := 2, ssrc := 0xABCD, localUdp := 5004, localIp := [10, 0, 0, 1], tsPerTick := 80, tsPerCell := 80,
    ringDva := 0x10000, slotBytes := 256, slotCount := 8, cellBytes := 128 }

/-- An egress flow toward it, whose producer is span 1. -/
def outFlow : FlowEntry :=
  { kind := 2, partition := 3, pt := 96, ssrc := 0xABCD, localUdp := 5004, remoteUdp := 5004, localIp := [10, 0, 0, 2], remoteIp := [10, 0, 0, 1],
    nextHopMac := [2, 0, 0, 0, 0, 1], tsPerTick := 80, tsPerCell := 80, ringDva := 0x10000, slotBytes := 256, slotCount := 8, cellBytes := 128, producer := 1,
    earliestNs := 1000 }

/-- A frame toward the ingress flow: Ethernet, IPv4, UDP, RTP with sequence number 7 and timestamp 160, 6 bytes of payload, FCS. Its checksums and FCS were
computed outside the model. -/
def rtpFrame : List Byte :=
  [2, 0, 0, 0, 0, 1, 0, 0, 0, 0, 0, 0, 8, 0] ++ [69, 0, 0, 46, 0, 0, 0, 0, 0, 17, 166, 189, 10, 0, 0, 2, 10, 0, 0, 1] ++ [19, 140, 19, 140, 0, 26, 151, 202] ++ [128, 96, 0, 7, 0, 0, 0, 160, 0, 0, 171, 205] ++ List.replicate 6 0x55 ++ [223, 235, 79, 110]

/-- A frame with the body and a right FCS. -/
def framed (b : List Byte) : List Byte := b ++ leBytes 4 (crc32 b)

/-- An ARP frame (EtherType 0x0806). -/
def arpFrame : List Byte := framed (List.replicate 12 0 ++ [8, 6] ++ List.replicate 46 0)

/-- The engine with its ports up and flow 3. -/
def streaming (f : Flow) : Dev :=
  let d := (((world.wr 1 (Reg.SIO_PORT_STATUS.LINK.at 8 0) 1).wr 1 (Reg.MMU_ROOT.VALID.at 8 3) 1).wr 1 (Reg.BMC_BW_BUDGET.BUDGET.at 8 3) 100).wr 1 Reg.SIO_CTRL.FLOW_COUNT 4
  { d with sio := { d.sio with flows := [(3, f)] }, charter := { d.charter with flows := [{}, {}, {}, f.entry] } }

/-- The ingress flow, on, with its anchor at media tick 1. -/
def rxFlow : Flow := { on := true, entry := inFlow, anchor := some (1, 160) }

theorem witness_SioFlows :
    (let d := streaming rxFlow; d.on = true ∧ d.ethUp 0 = true ∧ d.sio.ring.length < 4096 ∧ d.sio.accepted < d.rd 0 Reg.TICK_PERIOD.PERIOD ∧
      (match readFrame (arpFrame.take 63) with
        | .mac => true
        | _ => false) = true ∧
      (match readFrame arpFrame with
        | .ring => true
        | _ => false) = true ∧
      (match readFrame rtpFrame with
        | .udp u => !d.sio.flows.any (fun e => e.2.on && e.2.entry.rtcpFor u) &&
            (d.sio.flows.find? (fun e => e.2.matching && e.2.entry.port = 0 && e.2.entry.isFor u)).map (·.1) == some 3 && rtpHeaderLen u.data == some 12 &&
            !bit (fld u.data 0 1) 5 && fld u.data 1 1 % 128 == 96 && inFlow.mediaOf (1, 160) (fldBE u.data 4 4) == ((1 : Int), 0) && (u.data.drop 12).length + 16 ≤ 128
        | _ => false) = true ∧
      (1 : Int) + inFlow.jitter + 2 ≤ d.tick + inFlow.slotCount ∧ (d.tick : Int) < 1 + inFlow.jitter + 1 ∧ 64 + inFlow.cellBytes ≤ inFlow.slotBytes ∧
      bit ((rxFlow.slots.find? (fun z => z.tick = 1)).getD { tick := 1 }).present 0 = false ∧ d.flaws = [] ∧ d.findings = [] ∧
      (match ((d.toTime 0).flowStat 3 stRx 1).translateRange (d.flowXq 3 inFlow) (inFlow.slotDva 1) 256 axWrite with
        | (.ok [(t, 256)], _) => d.localOf t == some 0x100000020100
        | _ => false) = true ∧ fathomOk d ((d.flowXq 3 inFlow).rq false true) 0x100000020100 256 = true) ∧
    (let d := streaming { rxFlow with closing := [{ tick := 1, present := 1, expected := 1 }] }; (d.flow 3).closing.find? (fun z => z.tick = 1) =
        some { tick := 1, present := 1, expected := 1 } ∧ (d.flow 3).stats = [] ∧ 64 ≤ (d.flow 3).entry.slotBytes) ∧
    (let d := streaming rxFlow; d.rd d.sioDie Reg.SIO_FLOW_STATUS.BUSY = 0 ∧ d.flowStruct 3 = some inFlow ∧ d.flowStruct 4 = none ∧ d.flowStruct 2 = none) := by
  decide +kernel

theorem witness_SioFlows_ring : 4096 ≤ ({ world.sio with ring := List.replicate 4096 (0, []) } : Sio).ring.length ∧
    (let d := streaming { rxFlow with entry := outFlow }; d.flowStruct 3 = some outFlow ∧ outFlow.kind ≠ 1) := by
  refine ⟨?_, by decide +kernel⟩
  simp only [List.length_replicate, Nat.le_refl]

/-- A slot with one cell of 20 bytes at DVA 0x10100: count 1, due 2,000 ns into the tick. -/
def slotBytes : List Byte := leBytes 2 1 ++ leBytes 62 0 ++ leBytes 2 20 ++ leBytes 2 0x8000 ++ leBytes 4 160 ++ leBytes 4 2000 ++ leBytes 4 0 ++ List.replicate 20 0x55

/-- The egress flow on, its producer in a state of dispatch. -/
def sending (i : SpanInfo) (f : Flow) : Dev := ((streaming { f with on := true, entry := outFlow }).setRawList 0x100000020100 slotBytes).setSpan 1 i

/-- A job whose next packet is cell 0 at 2,000 ns. -/
def job0 : EgressJob := { tick := 1, cells := [(some 0, 2000)] }

/-- Die 1's unit with one entry that reads 4 KiB from an SSD on port 4. -/
def storing (e : MoveEntry) (m : MoveRun) (v : NvmePort) : Dev :=
  let d := (streaming rxFlow).wr 1 (Reg.SIO_NVME_STATUS.STATE.at 8 4) 1
  let sched : Sched := { d.charter.sched with moves := [e], patterns := [{ spanCount := 1, moveCount := 1 }] }
  { (d.setMove 1 0 m) with charter := { d.charter with sched := sched }, nvme := [(4, v)] }

/-- The entry. -/
def ssdRead : MoveEntry := { kind := 5, partition := 3, execDie := 1, src := 100, dst := 0x10000, amount := 4096, port := 4, nsid := 1 }

theorem witness_EgressAndStorage :
    (let d := sending {} {}; d.on = true ∧ (d.flow 3).on = true ∧ (d.flow 3).entry.kind = 2 ∧ ((d.flow 3).job.map (·.tick)) ≠ some d.tick ∧
      (d.entryOf (d.flow 3).entry.producer).isSome = true ∧ (d.span 1).dispatched = false ∧ d.dispatching = true ∧ d.elapsed < 1000) ∧
    (let d := sending { dispatched := true, tick := 1, outcome := ocCompleted } {}; ((d.span 1).dispatched && (d.span 1).tick = d.tick && (d.span 1).outcome ≠ 0xFF) = true ∧
      (d.span 1).outcome = ocCompleted ∧ (match d.egressRead (d.flowXq 3 outFlow) (outFlow.slotDva 1) 64 with
        | (some b, _) => !anyPoison b && fld (plain b) 0 2 == 1
        | _ => false) = true) ∧
    (ocBudget ≠ ocCompleted ∧ ocBudget ≠ 0xFF) ∧
    (let d := sending {} { job := some job0 }; (d.flow 3).job = some job0 ∧ 2000 + 100 < d.rd 0 Reg.TICK_PERIOD.PERIOD * 1000 ∧ d.paceBehind 3 0 2000 = false ∧
      d.rd d.sioDie (Reg.SIO_PORT_STATUS.LINK.at 8 0) ≠ 0 ∧ outFlow.srtp = false ∧
      (match (d.toTime 2100).egressRead (d.flowXq 3 outFlow) (outFlow.slotDva 1 + 64) 16 with
        | (some hb, d2) => fld (plain hb) 0 2 == 20 && (match d2.egressRead (d.flowXq 3 outFlow) (outFlow.slotDva 1 + 64) 36 with
          | (some b, _) => !anyPoison b && outFlow.overhead + ((plain b).drop 16).length ≤ 9216
          | _ => false)
        | _ => false) = true) ∧
    (arpFrame.length ≤ 9216) ∧
    (let d := storing ssdRead { state := 1 } {}; d.moveList[0]? = some ssdRead ∧ portDie 4 = 1 ∧ portDie 3 = 0 ∧ (d.moveRun 1 0).state = 1 ∧ (d.moveRun 1 0).fail = 0 ∧
      d.rd d.sioDie (Reg.SIO_NVME_STATUS.STATE.at 8 4) = 1 ∧ 4096 = min 0x100000 (ssdRead.amount - 0) ∧ (d.nvPort 4).cmds = [] ∧
      (match d.translateRange (d.nvmeXq 4 3) 0x10000 4096 axWrite with
        | (.ok _, _) => true
        | _ => false) = true) ∧
    (let c : NvmeCmd := { cid := 0, die := 1, bytes := 64, part := 3, targets := [(0x100000020000, 64)] }; let d := storing ssdRead { state := 1, issued := 4096 } { cmds := [c], nextCid := 1 }
      (d.nvPort 4).cmds.find? (fun c => c.cid = 0) = some c ∧ c.orphan = false ∧ d.localOf 0x100000020000 = some 0x100000020000 ∧
      fathomOk d ((d.nvmeXq 4 3).rq false true) 0x100000020000 64 = true ∧ c.aborted = false ∧ d.flaws = [] ∧ d.findings = [] ∧ d.deferredAt (fun _ => false) 0x100000020000 64 = false ∧
      ({ c with write := true } : NvmeCmd).write = true ∧ ([{ c with aborted := true }] : List NvmeCmd).any (fun c => c.aborted) = true) := by decide +kernel

/-! ### Obligations of the steward cores -/

/-- A core: x5 = 0x2000, x6 = 4 (its own number), x17 and x16 as given to a service; machine timer and tick interrupts enabled in mie as given. -/
def core4 (priv mie : Nat) : Hart :=
  { running := true, priv := priv, csr := [(0x304, mie), (0x7C0, 2 ^ 63 + 3)], core := { pc := 0x1000, x := [(5, 0x2000), (6, 4), (7, 0)] } }

/-- Core 4 of a device in which partition 3 owns pages with tables. -/
def coring (t : Hart) : Dev := (tables (2 ^ 63 + 7)).updHart 4 (fun _ => t)

theorem witness_StewardCore :
    (let d := coring (core4 3 128); d.on = true ∧ d.hartAlive 4 = true ∧ d.irqWakes (d.hart 4) = true ∧ d.hartReady 4 = true) ∧
    (let d := coring (core4 1 128); (d.hart 4).stall = .none ∧ d.irqTake (d.hart 4) = some (7, false) ∧ (d.hart 4).priv ≤ 3 ∧ (d.hart 4).c 0x302 = 0) ∧
    (let d := (coring (core4 3 0)).setRawList 0x1000 (leBytes 4 (2047 * 2 ^ 20 + 5 * 2 ^ 15 + 31 * 2 ^ 7 + 0x13)); d.irqWakes (d.hart 4) = false ∧ d.irqTake (d.hart 4) = none ∧
      (match ({ d := d.updHart 4 (fun t => { t with stall := .none }), ext := ⟨[], false⟩ } : HartSt).read 4 0x1000 2 axFetch 1 with
        | .ok (b, s1) => (match s1.read 4 0x1002 2 axFetch 1 with
          | .ok (b2, s2) => b.length == 2 && decide (s2.d.hart 4 = d.hart 4) && leNat b + 65536 * leNat b2 == 2047 * 2 ^ 20 + 5 * 2 ^ 15 + 31 * 2 ^ 7 + 0x13
          | .error _ => false)
        | .error _ => false) = true) ∧
    ((coring (core4 3 0)).rd 0 Reg.TICK_STATUS.STATE ≠ 0 ∧ (up.rd 0 Reg.TICK_STATUS.STATE = 0) ∧ (core4 3 0).core.gx 7 ≤ (coring (core4 3 0)).tick ∧
      (coring (core4 3 0)).tick < (core4 3 0).core.gx 5 ∧ (core4 3 0).remote = []) ∧
    ((core4 3 0).core.gx 7 % 65536 = 0 ∧ (core4 3 0).core.gx 6 = 4 ∧ (coring (core4 3 0)).hartOk 4 = true ∧ (32 : Nat) ≤ 32 ∧ (255 : Nat) ≤ 255 ∧
      (core4 1 0).priv = 1 ∧ (core4 1 0).partValid = true) ∧
    (core4 3 0).c 0x7C1 * 10 - (coring (core4 3 0)).timeNs ≤ (coring (core4 3 0)).rd 0 Reg.TICK_PERIOD.PERIOD * 1000 ∧ (core4 3 0).c 0x7C4 % 4 ≠ 3 ∧
    (let d := coring { core4 3 0 with resv := some 1, deferring := true }; (d.hart 4).deferring = true ∧ d.held = []) := by decide +kernel

/-- Core 4 calls a service: x10 to x13, the number of the service; one PMP entry allows everything. -/
def calling (fid x10 x11 x12 x13 : Nat) : Dev :=
  let t := core4 1 0
  let d := (coring { t with core := { t.core with x := [(10, x10), (11, x11), (12, x12), (13, x13), (16, fid), (17, 0x09000001)] },
                            csr := [(0x180, fathomBase / 4096), (0x3A0, 0x1F), (0x3B0, 2 ^ 54 - 1), (0x7C0, 2 ^ 63 + 3)] }).wr 0 (Reg.BMC_PAGES_FATHOM.QUOTA.at 16 3) 10
  let d := d.wr 1 Reg.SIO_CTRL.FLOW_COUNT 4
  { d with charter := { d.charter with flows := [{}, {}, {}, inFlow] } }

theorem witness_StewardMemory :
    (let d := coring (core4 3 0); d.hartReady 4 = true ∧ (d.hart 4).priv = 3 ∧
      (match d.hartTranslate 4 (alignDown 0x2000 128) axRead 7 with
        | (.ok t, _) => d.localOf t == some 0x2000
        | _ => false) = true ∧ d.region 0x2000 = .stacked ∧ d.dieFailed (d.homeDie 0x2000) = false ∧
      (match d.amoTarget 4 0x2000 8 7 with
        | (.ok t, d1) => (match d1.amoLocal 4 t 7 with
          | .ok pa => pa == 0x2000 && !anyPoison (d1.homeAmo (d1.hartRq 4 axAtomic) pa 8 .add 1 0).1 && !(d1.stewLine 0 64).dirty && !d1.storeWaits 4 t 8 && !d1.amoWaits 4 t 8
          | .error _ => false)
        | _ => false) = true ∧
      (match d.amoTarget 4 0x2000 4 5 with
        | (.ok t, d1) => (match d1.amoLocal 4 t 5 with
          | .ok pa => pa == 0x2000 && !d1.recallDefers 4 pa 4 && !d1.hartHeld 4 (d1.hartRq 4 axAtomic) t 4 &&
            !anyPoison (d1.stewRead 4 1 (d1.hartRq 4 axAtomic) pa 4).1 && !(d1.stewLine 0 64).dirty
          | .error _ => false)
        | _ => false) = true ∧ ((coring { core4 3 0 with resv := some 64 }).hart 4).resv = some (0x2000 / 128) ∧ (d.hart 4).resv ≠ some 64 ∧ d.flaws = [] ∧ d.findings = []) ∧
    (let d := calling 0 1 1 0x10000 3; d.hartReady 4 = true ∧ d.sealed = true ∧ (d.hart 4).priv = 1 ∧ (d.hart 4).partValid = true ∧ d.ownCmd = none ∧ d.invCmd = none ∧
      d.rd 0 Reg.BMC_OWN_STATUS.BUSY = 0 ∧ d.rd 0 Reg.MMU_INV_STATUS.BUSY = 0 ∧ 0x10000 + 65536 ≤ hostBase ∧ page0 + 6 < 2 ^ 64 ∧
      d.leafAt d.pkgId 3 (d.hartRoot 4) 0x10000 = none ∧ d.findFree (d.tierPages 1).1 (d.tierPages 1).2 1 1 = some (page0 + 6) ∧
      (let d1 := d.ownCommand 1 3 1 (page0 + 6);
        d1.rd 0 Reg.BMC_OWN_STATUS.RESULT = 0 ∧ (d1.mapLeaf 3 (d.hartRoot 4) 0x10000 0 (d1.leagueAddr (d1.pageBase (page0 + 6))) 3
          { lo := 0, hi := d.stackedPages, own := d.pkgId }).isSome = true) ∧
      ((d.wr 0 (Reg.BMC_PAGES_FATHOM.QUOTA.at 16 3) 0).ownCommand 1 3 1 (page0 + 6)).rd 0 Reg.BMC_OWN_STATUS.RESULT ≠ 0) := by decide +kernel

theorem witness_StewardMemory_services :
    (let d := calling 1 0 1 0 0; (d.leafAt d.pkgId 3 (d.hartRoot 4) 0).map (fun e => (e.size, e.target)) = some (16, fathomBase + 0x40000) ∧
      (fathomBase + 0x40000) / 2 ^ 48 = d.pkgId ∧ d.hasHome (fathomBase + 0x40000) = true ∧ d.ownerOf (d.pageIndex (fathomBase + 0x40000)) = 3 ∧
      (d.setOwner (page0 + 4) 4).ownerOf (d.pageIndex (fathomBase + 0x40000)) ≠ 3 ∧
      (let u := ((d.unmapLeaf 3 (d.hartRoot 4) 0).wr 0 Reg.MMU_INV_ADDR.ADDR 0).invCommand 1 3 1;
        u.invCmd.map (fun c => u.invWaits c) = some false ∧
        u.invCmd.map (fun c => ({ u with nvme := [(4, { cmds := [{ cid := 0, part := 3, leaves := [(0, 65536)] }] })] } : Dev).invWaits c) = some true)) ∧
    (let d := calling 2 3 1 0 0; d.flowStruct 3 = some inFlow ∧ inFlow.partition = 3 ∧ ({ inFlow with partition := 2 } : FlowEntry).partition ≠ 3) ∧
    (let d := (calling 3 9 0x20000 16 0); let d : Dev := { d with tlb := [{ leafOf (mmuHart 4) 2 with rights := 0x6F }] }
      (match ({ d := d, ext := ⟨[], false⟩ } : HartSt).read 4 0x20000 48 axRead 5 with
        | .ok (b, s1) => (match s1.write 4 0x20000 (List.replicate 48 0) with
          | .ok s2 => b.length == 48 && decide (s2.d.hart 4 = d.hart 4)
          | .error _ => false)
        | .error _ => false) = true) := by decide +kernel

/-! ### Obligations of the host interface and of RAS -/

/-- A host span of partition 3 that opens at 2,000 ns; its run group is 5. -/
def hostSpan : SpanEntry := { span1 with spanId := 2, kind := 2, contId := 5 }

/-- Queue 9 of partition 3 and run group 5 with a host attached; the state of the queue is given. -/
def hosting (v : HQueue) : Dev :=
  let d := (((world.wr 0 (Reg.HIF_Q_BIND.VALID.at 8 9) 1).wr 0 (Reg.HIF_Q_BIND.PART.at 8 9) 3).wr 0 (Reg.HIF_Q_BIND.GROUP.at 8 9) 5).wr 0 (Reg.HIF_Q_BIND.MAX_DEPTH.at 8 9) 64
  let sched : Sched := { d.charter.sched with spans := [hostSpan] }
  { (d.wr 0 Reg.HIF_ATTACH.STATE 1) with
    charter := { d.charter with sched := sched },
    hif := { d.hif with linkUp := true, bme := true, msixEnable := true, msix := [(17, 0xFEE00000 + 5 * 2 ^ 64)], queues := [(9, v)] } }

/-- A slot of 128 bytes (R498): OPCODE, TAG 7, SEQ, LEN, ADDR_A, ADDR_B and the opcode's own bytes, with its CRC. -/
def slotOf (op seq len a b : Nat) (more : List Byte) : List Byte :=
  let raw := fitTo 128 (leBytes 1 op ++ leBytes 1 0 ++ leBytes 1 1 ++ leBytes 1 0 ++ leBytes 2 7 ++ leBytes 2 0 ++ leBytes 4 seq ++ leBytes 4 len ++ leBytes 8 a ++
    leBytes 8 b ++ more)
  raw.take 6 ++ leBytes 2 (crc16 raw) ++ raw.drop 8

/-- An enabled queue of 16 slots. -/
def liveQueue : HQueue := { state := 2, depthReg := 16, depth := 16, sqBase := 0x1000, cqBase := 0x2000 }

/-- A WRITE of four bytes to DVA 0x10010; its CRC was computed outside the model. -/
def writeSlot : List Byte :=
  [2, 0, 1, 0, 7, 0, 0xEF, 0xCC] ++ List.replicate 4 0 ++ [4, 0, 0, 0, 0x10, 0, 1, 0, 0, 0, 0, 0] ++ List.replicate 8 0 ++ [1, 2, 3, 4] ++ List.replicate 92 0

/-- CRC-16/CCITT-FALSE of a slot of zeros after its first 36 bytes, in three pieces (the remainders after 36 and 82 bytes). -/
theorem test_crc16_slot : crc16 (writeSlot.take 6 ++ [0, 0] ++ writeSlot.drop 8) = 0xCCEF := by
  let step := fun (c : BitVec 16) (b : Byte) => crc16Step (c ^^^ BitVec.shiftLeft (b.zeroExtend 16) 8) 8
  have h : writeSlot.take 6 ++ [0, 0] ++ writeSlot.drop 8 =
      ([2, 0, 1, 0, 7, 0, 0, 0] ++ List.replicate 4 0 ++ [4, 0, 0, 0, 0x10, 0, 1, 0, 0, 0, 0, 0] ++ List.replicate 8 0 ++ [1, 2, 3, 4]) ++ List.replicate 46 0 ++
        List.replicate 46 0 := by decide +kernel
  have h1 : ([2, 0, 1, 0, 7, 0, 0, 0] ++ List.replicate 4 0 ++ [4, 0, 0, 0, 0x10, 0, 1, 0, 0, 0, 0, 0] ++ List.replicate 8 0 ++ [1, 2, 3, 4] : List Byte).foldl step
      0xFFFF = 0x9B0C := by decide +kernel
  have h2 : (List.replicate 46 (0 : Byte)).foldl step 0x9B0C = 0x175D := by decide +kernel
  have h3 : (List.replicate 46 (0 : Byte)).foldl step 0x175D = 0xCCEF := by decide +kernel
  rw [h]
  show ((_ ++ _ ++ _ : List Byte).foldl step 0xFFFF).toNat = _
  rw [List.foldl_append, List.foldl_append, h1, h2, h3]
  rfl

theorem witness_HostQueues_fetch :
    (let d := hosting liveQueue; d.on = true ∧ d.hqLive 9 = true ∧ (d.hq 9).state = 2 ∧ (d.hq 9).depth ≤ 4096 ∧ (d.hq 9).bell.map (·.1) ≠ some 15) ∧
    (let v := { liveQueue with bell := some (0, crc16 writeSlot) }; let d := hosting v; d.hifFetches 9 = true ∧
      (v.accepted.filter (fun c => !c.torn)).length < 64 ∧ d.hifAccepted < 16384 ∧ writeSlot.length = 128 ∧ fld writeSlot 2 1 = 1 ∧ fld writeSlot 8 4 = v.nextSeq ∧
      fld writeSlot 6 2 = 0xCCEF ∧ (v.nextSeq + 1 - 1) % 2 ^ 32 = 0 ∧ v.check 0 (crc16 writeSlot) [List.replicate 128 0] = none ∧
      v.retries < 4 ∧ ({ v with retries := 4 } : HQueue).retries = 4) := by decide +kernel

theorem witness_HostQueues_full : 64 ≤ ((({ liveQueue with accepted := List.replicate 64 {} } : HQueue).accepted.filter (fun c => !c.torn)).length) := by decide +kernel

theorem witness_HostQueues :
    (let d := hosting {}; (d.hq 9).state = 1 ∧ (∃ i, i ≤ 8 ∧ 16 = 2 ^ (i + 4)) ∧ (∃ i, i ≤ 8 ∧ 4096 = 2 ^ (i + 4)) ∧ 64 ≤ d.rd 0 (Reg.HIF_Q_BIND.MAX_DEPTH.at 8 9)) ∧
    (0x1000 % 4096 = 0 ∧ 0x1000 < 0x400000000000 ∧ 0x1000 < 0x300000000000) ∧ ¬((0x3FFFFFFFF000 : Nat) < 0x300000000000) ∧ 0x3000FFFFFFFF < 0x3FFFFFFFF000 ∧
    ((liveQueue.state = 2 ∨ liveQueue.state = 3) ∧ liveQueue.accepted = [] ∧ liveQueue.compl = []) ∧
    ((hosting { liveQueue with state := 5 }).hostOk = true) ∧ (1 ≤ ({ liveQueue with written := 1 } : HQueue).written - 0) ∧
    (liveQueue.accepted.head?.map (·.handed)) ≠ some true ∧ (({ liveQueue with state := 4 } : HQueue).state = 4 ∧ liveQueue.compl = []) ∧
    (let v := { liveQueue with compl := [{ tag := 7 }] }; let d := hosting v; v.compl = [{ tag := 7 }] ∧ d.hqLive 9 = true ∧ d.hostOk = true ∧
      v.written - v.cqHead < v.depth ∧ d.hif.msixEnable = true ∧ d.hostReach = true ∧ bit (d.msixEntry 17) 96 = false ∧ bit (d.msixEntry 18) 96 = true) ∧
    (16 ≤ ({ liveQueue with written := 16, compl := [{}] } : HQueue).written - 0) ∧ ({ liveQueue with holding := true, irqDue := true } : HQueue).holding = true ∧
    (let c : HCmd := { slots := writeSlot.take 3 ++ [1] ++ writeSlot.drop 4 }; c.namesIova = true ∧ c.torn = false ∧ c.handed = false) ∧
    (let d := ((hosting liveQueue).wr 0 Reg.LINK_CFG.ROLE 1).wr 0 (Reg.LINK_ROUTE.VALID.at 8 63) 1; d.rd 0 Reg.LINK_CFG.ROLE = 1 ∧ d.rd 0 Reg.HIF_RELAY_CMD.GO_BUSY = 0 ∧
      63 ≠ d.pkgId ∧ d.rd 0 (Reg.LINK_ROUTE.VALID.at 8 63) ≠ 0 ∧ d.rd 0 (Reg.LINK_ROUTE.VALID.at 8 62) = 0) ∧
    (world.wr 0 Reg.HIF_RELAY_CMD.GO_BUSY 1).rd 0 Reg.HIF_RELAY_CMD.GO_BUSY = 1 := by
  refine ⟨⟨by decide +kernel, ⟨0, by decide⟩, ⟨8, by decide⟩, by decide +kernel⟩, ?_⟩
  decide +kernel

/-- A command accepted in the tick before. -/
def cmdOf (slot : List Byte) : HCmd := { slots := slot }

/-- The queue with that command, its window open, 2,500 ns into the tick. -/
def serving (c : HCmd) : Dev :=
  let d := hosting { liveQueue with accepted := [c] }
  { d with elapsed := 2500, hif := { d.hif with windows := [3] } }

theorem witness_HostCommands :
    (∀ s, s ∈ [writeSlot, slotOf 0 0 0 0 0 [], slotOf 1 0 0 0 0 [], slotOf 3 0 4 0x20000 0x10000 [], slotOf 4 0 4 0x10010 0 [], slotOf 5 0 8 0x10010 0 [1]] →
      let d := serving (cmdOf s); (cmdOf s).valid = true ∧ d.hqPart 9 = 3 ∧ d.hifEligible 9 = true ∧ d.hifTurn 3 = some 9 ∧ d.hif.windows.contains 3 = true ∧
        (match d.windowEnd 3 d.elapsed with
          | some e => decide (8 ≤ (e - d.elapsed) * 100)
          | none => false) = true) ∧
    (∀ s, s ∈ [slotOf 2 0 97 0x10010 0 [], slotOf 0 0 1 0 0 [], slotOf 1 0 0 8 0 [], slotOf 3 0 0x40000001 0 0 [], slotOf 4 0 0 0 8 [], slotOf 5 0 8 0x10011 0 [1],
      slotOf 7 0 0 0 0 []] → (cmdOf s).valid = false) := by decide +kernel

/-- The device when the command of the queue has been taken up. -/
def taken (c : HCmd) : Dev := (serving c).updHif (fun h => { h with last := KMap.set 0 h.last 3 10, worked := 9 :: h.worked.filter (· ≠ 9) })

theorem witness_HostCommands_data :
    (let c := cmdOf writeSlot; let d := serving c; d.on = true ∧ c.started = false ∧ c.done = 0 ∧ c.lost = 0 ∧ c.handed = false ∧ c.result = 0 ∧ c.len = 4 ∧
      d.flaws = [] ∧ d.findings = [] ∧ (cmdOf (slotOf 4 0 0 0 0 [])).len = 0 ∧
      (match (taken c).translateRange (hifXq 3 9) (c.dva 0) 4 axWrite with
        | (.ok [(t, 4)], d2) => d.localOf t == some 0x100000020010 && roomOk d2 0x100000020010 4
        | _ => false) = true ∧ fathomOk d ((hifXq 3 9).rq false false) 0x100000020010 8 = true) ∧
    (let c := cmdOf (slotOf 4 0 4 0x50000 0 []); (match (taken c).translateRange (hifXq 3 9) (c.dva 0) 4 axWrite with
        | (.error _, _) => true
        | _ => false) = true) ∧
    (let c := cmdOf (slotOf 3 0 4 0x20000 0x10000 []); let d := serving c; let s := (taken c).translateRange (hifXq 3 9) (c.dva 1) 4 axRead
      (match s.1, s.2.translateRange (hifXq 3 9) (c.dva 0) 4 axWrite with
        | .ok [(a, 4)], (.ok [(b, 4)], d3) => d.localOf a == some 0x100000020000 && d.localOf b == some 0x100000030000 && roomOk d3 0x100000020000 4 && roomOk d3 0x100000030000 4
        | _, _ => false) = true ∧ fathomOk d ((hifXq 3 9).rq false false) 0x100000020000 4 = true ∧ fathomOk d ((hifXq 3 9).rq false false) 0x100000030000 4 = true ∧
      (d.stewLine 0 (0x100000020000 / 128)).dirty = false) ∧
    (let c := cmdOf (slotOf 5 0 8 0x10010 0 [1]); (match (taken c).translate (hifXq 3 9) (c.dva 0) axAtomic with
        | (.ok t, d2) => (serving c).localOf t == some 0x100000020010 && !d2.homeFull ((hifXq 3 9).rq false false) (fun _ => false) t 8
        | _ => false) = true) := by decide +kernel

/-- The entry of group 5 with its arguments where RESULT and KSTATUS stand at DVA 0x10000. -/
def ranSpan : SpanEntry := { hostSpan with argDva := 0x10000 - 512 }

/-- A command whose run has ended, the group's record taken. -/
def ran (outcome : Nat) : Dev :=
  let d := serving { cmdOf (slotOf 6 0 0 0 0 []) with handed := true }
  { d with runs := [(5, { queue := some 9, outcome := outcome })], charter := { d.charter with sched := { d.charter.sched with spans := [ranSpan] } } }

theorem witness_HostCommands_run :
    (∀ o, o ∈ [ocCompleted, ocFault] → (ran o).hqGroup 9 = 5 ∧ (KMap.get {} (ran o).runs 5).queue = some 9 ∧ (KMap.get {} (ran o).runs 5).outcome ≠ 0xFF ∧
      ((ran o).hq 9).accepted.map (fun c => (c.handed, c.torn)) = [(true, false)]) ∧
    (ran ocCompleted).groupEntry 5 = some ranSpan ∧
    (let d1 : Dev := { ran ocCompleted with runs := KMap.set {} (ran ocCompleted).runs 5 {} }; let x := hifXq 3 9
      (match d1.translateRange x 0x10000 12 axRead with
        | (.ok [(t, 12)], _) => !d1.homeFull (x.rq false false) (fun _ => false) t 12 &&
            ({ d1 with charge := KMap.set 0 [] (0 * 16 + 3) (100 * 4096) } : Dev).homeFull (x.rq false false) (fun _ => false) t 12
        | _ => false) = true ∧ (d1.dvaRead x (x.rq false false) none ⟨[], false⟩ 0x10000 12).2.1 = none) := by decide +kernel

theorem witness_HostCommands_windows :
    (let d := hosting liveQueue; d.dispatching = true ∧ d.hifTurn 3 = none ∧ d.hostSpans 3 = [hostSpan] ∧ d.elapsed ≤ hostSpan.startNs ∧ d.hif.windows.contains 3 = false) ∧
    (let d := (hosting liveQueue).wr 0 (Reg.HIF_BAR4_WIN.EN.at 8 3) 1; d.hif.linkUp = true ∧ d.sealed = true ∧ (3 * 2 ^ 32 + 0x10000) / 2 ^ 32 = 3 ∧
      d.rd 0 (Reg.HIF_BAR4_WIN.EN.at 8 3) = 1 ∧ d.rd 0 (Reg.HIF_BAR4_WIN.EN.at 8 15) = 0 ∧
      (match d.translateRange (hifXq 3 0xFFFF) (d.rd 0 (Reg.HIF_BAR4_WIN.BASE.at 8 3) * 2 ^ 32 + 0x10000) 64 axRead with
        | (.ok [(t, 64)], _) => d.localOf t == some 0x100000020000 && !d.deferredAt (fun _ => false) t 64
        | _ => false) = true ∧ fathomOk d ((hifXq 3 0xFFFF).rq false true) 0x100000020000 64 = true ∧ d.flaws = [] ∧ d.findings = [] ∧
      (match d.translateRange (hifXq 3 0xFFFF) (d.rd 0 (Reg.HIF_BAR4_WIN.BASE.at 8 3) * 2 ^ 32 + 0x50000) 64 axRead with
        | (.error _, _) => true
        | _ => false) = true) ∧ up.sealed = false := by decide +kernel

/-- A core of die 0 as a requester of the control space. -/
def coreReq : Requester := { unit := 38, req := 4, part := 3, die := 0 }

theorem witness_WriteRejected : world.on = true ∧ world.sealed = true ∧ world.dies.contains 7 = true ∧ world.ctlRefused coreReq 0 = none ∧
    (world.regAt 0 Reg.RAS_DUMP_BASE.BASE.off).map (fun r => (r.1.contains Reg.RAS_DUMP_BASE.BASE, r.2)) = some (true, false) ∧
    Reg.RAS_DUMP_BASE.BASE.acc = .rs ∧ Reg.RAS_DUMP_BASE.BASE.lo < 8 * (Reg.RAS_DUMP_BASE.BASE.off % 8) + 8 * 4 := by decide +kernel

/-- A failed die is refused on the requester's own die. -/
theorem witness_RegisterWrites_refused : (world.wr 0 Reg.RAS_PKG.DIE_FAILED 128).ctlRefused coreReq 7 = some 4 ∧ world.ctlRefused coreReq 8 = some 3 := by
  decide +kernel

theorem witness_RegisterWrites : world.ctlRefused coreReq 0 = none ∧ world.ctlRefused coreReq 2 = none ∧ ¬((3 : Nat) = 8 ∨ (3 : Nat) = 4) ∧ (4 : Nat) % 4 = 0 ∧
    world.reg64 0 0x4000000 = none ∧ (world.regAt 0 0x30000).map (·.2) = some false ∧ chainOfCtrl 0x30000 = none ∧
    (world.regAt 2 Reg.TICK_COUNT.COUNT.off).map (fun r => (r.2, r.1.any (fun f => f.acc = .rs))) = some (true, false) ∧
    (hosting {}).hif.linkUp = true ∧ (hosting {}).hqLive 9 = true ∧ (hosting {}).hqLive 8 = false ∧ world.dieFailed 7 = false ∧
    (world.wr 0 Reg.RAS_PKG.DIE_FAILED 128).dieFailed 7 = true ∧
    (world.regAt 2 Reg.TICK_STATUS.SRC_LOST.off).map (fun r => (r.2, r.1.any (fun f => f.acc = .w1c))) = some (true, true) ∧
    (world.regAt 2 Reg.RAS_ERR.CLASS.off).map (fun r => (r.2, r.1.any (fun f => f.acc = .w1c))) = some (false, true) := by
  decide +kernel

theorem witness_DumpAndFlash : world.on = true ∧ world.sealed = true ∧ up.sealed = false ∧ world.rd 0 Reg.RAS_DUMP_STATUS.BUSY = 0 ∧ world.boot.stopped = [] ∧
    world.boot.dumping = none ∧
    (let d := world.wr 0 Reg.GLB_DIE_ID.PLACED 1; let d := d.updBoot (fun b => { b with dumping := some (0, 4096), stopped := [0] })
      (d.dumpUnits.drop 0).head?.map (fun u => (u.die, d.silent u, d.placed u.die)) = some (0, true, true)) ∧
    (world.wr 0 Reg.RAS_DUMP_READ.READY 1).rd 0 Reg.RAS_DUMP_READ.READY = 1 ∧
    (let d := (world.wr 0 Reg.RAS_LOG_PTR.PROD 3).wr 0 Reg.RAS_LOG_PTR.CONS 8190; (3 + 8192 - 8190) % 8192 = 5 ∧ d.rd 0 Reg.RAS_LOG_PTR.CONS = 8190 ∧ 3 % 8192 = (8190 + 5) % 8192) ∧
    (let d := world.wr 0 Reg.BOOT_FLASH_ADDR.OFFSET 0x900000; d.rd 0 Reg.BOOT_FLASH_CMD.BUSY = 0 ∧ d.rd 0 Reg.BOOT_FLASH_ADDR.OFFSET % 65536 = 0 ∧
      d.flashProtected 0x900000 = false ∧ d.flashProtected 0xFFFFF = true ∧ d.flashProtected 0x100000 = decide (d.boot.fwUsed = 1) ∧ d.flashProtected 0x1000000 = decide (d.boot.copyUsed = 1) ∧ (0x900001 : Nat) % 256 ≠ 0) ∧
    (let d := world.updBoot (fun b => { b with flashOp := some (false, 0x900000, List.replicate 256 0) }); d.boot.flashOp = some (false, 0x900000, List.replicate 256 0) ∧
      (List.replicate 256 (0 : Byte)).length = 256) := by decide +kernel

theorem witness_XperchRoundTrip : (XOp.mxm 8 true true true 31 31 31).wf = true ∧ (XOp.vx 4 { vxRegs with fmt := 15, sat := true, sr := true, vs2 := 31, rs1 := 31, vd := 31 }).wf = true ∧
    (XOp.fenceSc 4).wf = true := by decide +kernel

/-! ### Ill-formed commands -/

/-- A start on a perch that brings nothing from outside the package. -/
def startOn (p : Nat) : PerchStart := ⟨p, ⟨[], false⟩, ⟨[], false⟩⟩

/-- One command for each check that refuses it: a unit or operand that no part of the family has. -/
def illFormed : List Instr :=
  [.coldStart { board0 with strapAddr := 4 }, .coldStart { board0 with edges := [⟨11, flit true 0 0, flit false 0 0⟩] }, .coldStart { board0 with isolated := [(8, 0)] },
   .coldStart { board0 with fathomGib := List.replicate 17 0 }, .sbReset 256 board0, .edgeTrained ⟨0, flit true 0 4, flit false 0 0⟩, .edgeTrainTimeout 8 0,
   .edgeTrainTimeout 0 4, .bootStepTimeout 4, .avsConfirm 8, .thermalTrip 0 0, .thermalTrip 4 0, .spanStart 0 (startOn 0), .spanStart 65536 (startOn 0), .spanLateStart 1 (startOn 2112), .spanStatusRecord 0] ++
  [.spanend 2112, .perchFenceSc 0 8, .cwait 0 64 0 0, .cread 0 0 32 0, .cset 0 0 32 0 0, .cadd 0 0 0 0 32, .dmaq 0 8 0 0, .dmactlAbort 0 0 32,
   .dmaDescriptorStart 0 8 ⟨[], false⟩ ⟨[], []⟩, .scopSend 0 32 0 0 0, .channelCreditArrival 0 32, .mld 0 16 false 0 0, .mxm 0 0 false false false 0 0 32, .mwaitLoads 0 32,
   .vxncvt 0 { vxRegs with fmt := 16 }, .vxwcvt 0 { vxRegs with vs2 := 32 }] ++
  [.homeWrite { rq3 with part := 16 } [] false, .homeRead { rq3 with pa := 2 ^ 48 } 8 ⟨[], []⟩, .homeRead rq3 129 ⟨[], []⟩, .homeAtomic rq3 .add 2 0 0,
   .wcbEntryIssue 0 128 0, .chainCacheFill 0 22 0, .wayDisable (.chain 0 22) 0, .wayDisable (.system 0) 16, .moveZero 2 0, .moveTailAbort 2, .ownClaim 16 1 0,
   .ownRelease 0 65536 0, .ownClaim 0 1 (2 ^ 26), .pageWalkDone 0 64 0 0 0 0, .mmuInvPartition 16, .collPost 0 0, .collDeadline 1024 0] ++
  [.linkPortTrain 2 0 [true, true, true, true] 0, .linkPortTrain 0 0 [] 0, .identResend 0 4, .portDown 8 0, .portDown 0 64, .remoteWriteLost 65536, .packageLost 64,
   .ethFrameRx 2 0 [], .slotClose 65536 0, .flowRekey 0 65536, .keyLoad 65536 false, .nvmeAbortTimeout 8 0, .wfi 48, .wfi 128, .tread 0 4096 0, .setipi 0 32 0 false,
   .stewardAmo 0 .add 2 0 0 0, .loadReserved 0 8 32 0, .registerWrite coreReq (.control 8) 0 8 0, .registerWrite coreReq (.control 0) 0 9 0,
   .registerWrite coreReq (.queue 2048) 0 8 0, .registerWrite { coreReq with die := 8 } (.control 0) 0 8 0, .bar0DieViewWrite 0 0 0, .runComplete ⟨2040, ⟨[], false⟩⟩, .nop 2040,
   .queueEnable 0 256 16 0 0, .queueEnable 0 0 8192 0 0, .relayRead 64 0 0, .logConsWrite 8192, .sbAlert 256, .edgeRetrain 11 true, .msixVectorUnmask 2048]

theorem test_wellFormed_refuses : illFormed.all (fun i => !i.wf) = true := by decide +kernel

theorem test_wellFormed_accepts : [Instr.seal, .spanStart 65535 (startOn 2111), .cadd 2111 63 31 31 31, .wfi 111, .nop 2039, .homeRead rq3 128 ⟨[], []⟩, .edgeRetrain 10 false].all
    Instr.wf = true := by decide +kernel

/-! ### Words of the Xperch instructions, written out from their layouts (R90, R139, R181) -/

/-- CWAIT on counter 5 with the threshold in x12, DMAQ on context 3 (x10, ticket to x11) and SPANEND: the example after R90. -/
theorem test_decode_custom0 : xDecode 0x0056200B = some (.cwait 5 12 0) ∧ xDecode 0x0035458B = some (.dmaq 3 10 11) ∧ xDecode 0x0000000B = some .spanend ∧
    xDecode 0b000000000100_00000_001_00000_0001011 = some (.fenceSc 4) ∧ xDecode 0b000010_111111_00101_011_00110_0001011 = some (.cop 2 63 5 6) ∧
    xDecode 0b000000_10_0111_00000_101_00001_0001011 = some (.dmactl 2 7 1) ∧ xDecode 0b01_11111_00010_00001_110_00011_0001011 = some (.scop 1 31 1 2 3) := by
  decide +kernel

/-- MXM with ACC and SCALED, MLD with column scales, MWAIT on passes: the example after R139. -/
theorem test_decode_custom1_2 : xDecode 0x0AC505DB = some (.mxm 0 true false true 10 12 11) ∧ xDecode 0x08B5002B = some (.mld 0 true 10 11) ∧
    xDecode 0x0000105B = some (.mwait false 0) := by decide +kernel

/-- VXNCVTS to E4M3 with SAT and VXNCVT to E2M1 with SAT and SR: the examples of 05. -/
theorem test_decode_custom3 : xDecode 0x0A80127B = some (.vx 1 { fmt := 0, sat := true, sr := false, vm := true, vs2 := 8, rs1 := 0, vd := 4 }) ∧
    xDecode 0x4F05017B = some (.vx 0 { fmt := 4, sat := true, sr := true, vm := true, vs2 := 16, rs1 := 10, vd := 2 }) := by decide +kernel

/-- Words that no table defines: SPANEND with a register, FENCE.SC scope 5, COP op 3, SCOP op 3, MLD with rd, MWAIT with rs1, funct3 5 of custom-3. -/
theorem test_decode_undefined : ([0x0000008B, 0x0050100B, 0x0C00300B, 0xC000600B, 0x000000AB, 0x000090DB, 0x0000507B] : List Nat).all (fun w => (xDecode w).isNone) = true := by
  decide +kernel

/-! ### Worked examples of the spec -/

/-- Perch 1,623: die 6, chain 13, position 7 (after R17), and its scratchpad (after R24). -/
theorem test_perch_1623 : perchDie 1623 = 6 ∧ perchChain 1623 = 13 ∧ perchPos 1623 = 7 ∧ spadBase 1623 = 0x2000CAE00000 := by decide +kernel

/-- The address 0x0001_8004_2F40 with band 1 interleaved over the package and local to its die (after R200). -/
theorem test_stacked_place : (up.wr 2 Reg.MEMC_BAND_MODE.MODE 2).stackedPlace 0x180042F40 = (3, 0x4000B240) ∧ up.stackedPlace 0x180042F40 = (0, 0x40042F40) ∧
    channelOf 0x4000B240 = 49 := by decide +kernel

/-- 1.0 and −0.3 by round to nearest even in each narrow format (the table of 05). -/
theorem test_narrow_table :
    ([(7, 0x3F80, 0xBE9A), (8, 0x3C00, 0xB4CD), (0, 0x38, 0xAA), (1, 0x3C, 0xB5), (2, 0b001100, 0b100101), (3, 0b001000, 0b100010), (4, 0b0010, 0b1001)] :
      List (Nat × Nat × Nat)).all (fun r => (narrowElem r.1 true false 0 0 (fmtF32.decode 0x3F800000)).1 == r.2.1 &&
        (narrowElem r.1 true false 0 0 (fmtF32.decode 0xBE99999A)).1 == r.2.2) = true := by decide +kernel

/-- A block whose largest magnitude is 500.0: the scale is 127; with SAT the code is 0x7E and without it 0x7F, with OF and NX; E5M2 gives 0x60 (05). -/
theorem test_scale_500 : maxScale 0 (0x43FA0000 :: List.replicate 31 0x3F800000) = 127 ∧ narrowElem 0 true false 0 0 (fmtF32.decode 0x43FA0000) = (0x7E, flOF + flNX) ∧
    narrowElem 0 false false 0 0 (fmtF32.decode 0x43FA0000) = (0x7F, flOF + flNX) ∧ (narrowElem 1 true false 0 0 (fmtF32.decode 0x43FA0000)).1 = 0x60 := by decide +kernel

/-- 1.0, 2⁻¹⁴⁹ and −1.0 add exactly (05). -/
theorem test_tun_exact : (tunSum [Tun.ofF32 0x3F800000, Tun.ofF32 1, Tun.ofF32 0xBF800000]).toF32 = 1 := by decide +kernel

/-- The compact values of 10: header and bytes of 1.5, −1.5, −1.0 and 2⁻¹⁴⁹. -/
theorem test_tun_compact :
    (Tun.ofF32 0x3FC00000).compact = (0x24, [0x00, 0x00, 0x00, 0x80, 0x01, 0x00, 0x00, 0x00]) ∧
    (Tun.ofF32 0xBFC00000).compact = (0x24, [0x00, 0x00, 0x00, 0x80, 0xFE, 0xFF, 0xFF, 0xFF]) ∧
    (Tun.ofF32 0xBF800000).compact = (0x15, [0xFF, 0xFF, 0xFF, 0xFF]) ∧ (Tun.ofF32 1).compact = (0x10, [0x00, 0x08, 0x00, 0x00]) := by decide +kernel

/-- The last bucket of the example of 10: 0.5, −0.25, 0.125 and 1.0 with zero residues travel as 00 00 F0 3E 02; the residues are 0.03125, 0.21875, −0.34375
and 0.53125. -/
theorem test_sign_bucket :
    let b := makeBucket ([0x3F000000, 0xBE800000, 0x3E000000, 0x3F800000].map (fun c => (c, false))) (List.replicate 4 (0, false))
    b.1.wire.map (·.1) = [0x00, 0x00, 0xF0, 0x3E, 0x02] ∧ b.2 = [0x3D000000, 0x3E600000, 0xBEB00000, 0x3F080000] := by decide +kernel

/-- The page-table entry of the host buffer of 09 leads to the equal address with rights to read and write. -/
theorem test_pte_host : readPte 0 0x800010048D0020C7 = .leaf 0x401234000000 16 (1 + 2 + 32 + 64) := by decide +kernel

/-- The Opus packet of 12: delta 9,600 gives media tick 5,000,020, in slot 4. -/
theorem test_media_tick : let e : FlowEntry := { tsPerTick := 480, tsPerCell := 960, slotCount := 8, slotBytes := 1, jitter := 2 }
    e.mediaOf (5000000, 3000000) 3009600 = (5000020, 0) ∧ e.slotDva 5000020 = 4 := by decide +kernel

/-- The sideband reads BOOT_STATE of the example of 18: STAGE 6, HALT 0, COPY 1, FW_COPY 1, 42,500 ms. -/
theorem test_sideband_read :
    let d := { ((((up.setStage 6).wr 0 Reg.GLB_DIE_ID.PLACED 1).wr 0 Reg.BOOT_STATE.COPY 1).wr 0 Reg.BOOT_STATE.FW_COPY 1) with timeNs := 42500000000 }
    (nxt (.sbRead 0 0x2700000) (st d)).dev.out = [.sideband [0x00, 0x04, 0xA6, 0x00, 0x50, 0x00, 0x00, 0x00, 0x06]] := by decide +kernel

/-! ### One step -/

/-- CADD clamps at zero (R90) and the counter's earlier value goes to rd. -/
theorem test_cadd_clamps :
    let d := (nxt (.cadd 5 9 5 7 0) (st (withPerch { busy with ctr := [(9, 3)], core := { busy.core with x := [(5, 0xFFFFFFFB)] } }))).dev
    d.ctr 5 9 = 0 ∧ (d.perch 5).core.gx 7 = 3 := by decide +kernel

/-- A write through the die view to a register without a W1C field counts in BAR0_WREJ (R489). -/
theorem test_bar0_write_rejected :
    let d := (nxt (.bar0DieViewWrite 0x10000000 8 5) (st { world with hif := { world.hif with linkUp := true } })).dev
    d.rd 0 Reg.HIF_ERR.BAR0_WREJ = 1 := by decide +kernel

/-- TWAIT answers all ones while the tick generator is off (R466). -/
theorem test_twait_off : ((nxt (.twait 4 true 0 10) (st (up.updHart 4 (fun _ => core4 3 0)))).dev.hart 4).core.gx 10 = 0xFFFFFFFFFFFFFFFF := by decide +kernel

/-- A WRITE of the host interface leaves its four bytes at the translated address and completes with STATUS 0 and DONE 4. -/
theorem test_host_write : let d := (nxt (.write 9) (st (serving (cmdOf writeSlot)))).dev
    (List.range 5).map (fun i => d.cohByte (0x100000020010 + i)) = [1, 2, 3, 4, 0] ∧ (d.hq 9).compl.map (fun e => (e.tag, e.status, e.done)) = [(7, 0, 4)] := by
  decide +kernel

/-- The RTP frame's payload stands behind its cell header (R440). -/
theorem test_rtp_placed : let d := (nxt (.ethFrameRx 0 500 rtpFrame) (st (streaming rxFlow))).dev
    (List.range 7).map (fun i => d.cohByte (0x100000020100 + 64 + 16 + i)) = [0x55, 0x55, 0x55, 0x55, 0x55, 0x55, 0] ∧
    ((d.flow 3).slots.map (fun z => (z.tick, z.present, z.late))) = [(1, 1, 0)] := by decide +kernel

end Sys2Proof.Tests
end

