-- ==== Sys2Proof/Proofs/Reset.lean ====
section
/-! The reset state (R12, R39, R88, R535) and the register store (R7, R8, R28). -/

namespace Sys2Proof.Machine

/-- A register store that lists nothing reads the Reset value of every field (R12). -/
theorem Dev.rd_of_regs_nil {d : Dev} (hregs : d.regs = []) (hst : d.regsSt = []) (die : Nat) (f : Fld) : d.rd die f = f.reset % 2 ^ f.width := by
  unfold Dev.rd
  cases hf : f.st with
  | true => simp [hst]
  | false => simp [hregs]

/-- Settles O4: the stores of the reset state list nothing and the other fields stand in its definition. -/
theorem resetState : Obligations.ResetState := by
  unfold Obligations.ResetState
  have hread : ∀ die f, State.reset.dev.rd die f = f.reset % 2 ^ f.width := Dev.rd_of_regs_nil rfl rfl
  exact ⟨hread, rfl, rfl, fun _ => rfl, fun _ => rfl, rfl, rfl, rfl⟩

/-- Settles O5: the empty store is canonical. -/
theorem resetInv : Obligations.ResetInv := ⟨Memory.wf_reset, rfl, rfl, rfl⟩

/-- A register write changes registers alone. -/
theorem onlyRegs_wr (d : Dev) (die : Nat) (f : Fld) (v : Nat) : OnlyRegs d (d.wr die f v) := by
  unfold OnlyRegs Dev.wr
  cases hf : f.st with
  | true => rfl
  | false => rfl

/-- Settles O7: the store reads what was set at a key, and as before at every other key. -/
theorem registerFieldWrite : Obligations.RegisterFieldWrite := by
  unfold Obligations.RegisterFieldWrite
  intro d die f v
  exact ⟨Dev.rd_wr_same d die f v, regsKept_wr v (List.mem_singleton_self _) (regsKept_refl d _), onlyRegs_wr d die f v⟩

end Sys2Proof.Machine
end

