-- ==== Sys2Proof/Proofs/Canon.lean ====
section
/-! What it is for a device to keep its stores canonical (R12, R26, R261), and the rules of the shapes that operations are built of: branches, folds,
iterations, and results that may be absent or an error. The stores change through few writers; each of them keeps the canonical form, and the rest of
a device has no part in it (`Dev.canon_iff`). -/

namespace Sys2Proof.Machine

/-- Memory, registers and flash of the device are in canonical form: what `State.Inv` says of a state. -/
def Dev.Canon (d : Dev) : Prop := Memory.wf d = true ∧ KMap.wf 0 d.regs = true ∧ KMap.wf 0 d.regsSt = true ∧ KMap.wf 0xFF#8 d.nv.flash = true

/-- Where a command answers a state, its stores are in canonical form. -/
def NextInv (o : Host.Outcome State Fault Refusal) : Prop := ∀ t, o = .next t → t.Inv

/-- Seven stores are in canonical form: memory, poison, scratchpad poison, page owners, registers, sticky registers and flash. -/
def StoresCanon (mem : KMap Byte) (poison spadPoison : KMap Nat) (owner : KMap Byte) (regs regsSt : KMap Nat) (flash : KMap Byte) : Prop :=
  (KMap.wf 0#8 mem && KMap.wf 0 poison && KMap.wf 0 spadPoison && KMap.wf 0xFF#8 owner) = true ∧ KMap.wf 0 regs = true ∧ KMap.wf 0 regsSt = true ∧
    KMap.wf 0xFF#8 flash = true

/-- The canonical form of a device speaks of its stores alone: a change of any other field keeps it. -/
theorem Dev.canon_iff (d : Dev) : d.Canon ↔ StoresCanon d.mem d.poison d.spadPoison d.owner d.regs d.regsSt d.nv.flash := Iff.rfl

theorem Dev.Canon.regs {d : Dev} (h : d.Canon) : KMap.wf 0 d.regs = true := h.2.1

theorem Dev.Canon.flash {d : Dev} (h : d.Canon) : KMap.wf 0xFF#8 d.nv.flash = true := h.2.2.2

/-- What an optional result holds has the property. -/
structure OnSome {α : Type} (P : α → Prop) (o : Option α) : Prop where
  holds : ∀ x, o = some x → P x

/-- What a result that is no error holds has the property. -/
structure OnOk {ε α : Type} (P : α → Prop) (r : Except ε α) : Prop where
  holds : ∀ x, r = .ok x → P x

theorem State.onDev_inv {s : State} (h : s.Inv) {f : Dev → Dev} (hf : ∀ d, d.Canon → (f d).Canon) : NextInv (s.onDev f) := by
  rintro t ⟨⟩
  dsimp only [State.Inv]
  split
  · exact hf _ h
  · exact h

theorem State.onPower_inv {s : State} (h : s.Inv) {f : Dev → Dev} (hf : ∀ d, d.Canon → (f d).Canon) : NextInv (s.onPower f) := by
  rintro t ⟨⟩
  exact hf _ h

theorem onSome_some {α : Type} {P : α → Prop} {x : α} : OnSome P (some x) ↔ P x :=
  ⟨fun h => h.holds x rfl, fun h => ⟨fun _ e => Option.some.inj e ▸ h⟩⟩

theorem onSome_none {α : Type} {P : α → Prop} : OnSome P none := ⟨nofun⟩

theorem onOk_ok {ε α : Type} {P : α → Prop} {x : α} : OnOk P (.ok x : Except ε α) ↔ P x :=
  ⟨fun h => h.holds x rfl, fun h => ⟨fun _ e => Except.ok.inj e ▸ h⟩⟩

theorem onOk_error {ε α : Type} {P : α → Prop} {e : ε} : OnOk P (.error e : Except ε α) := ⟨nofun⟩

/-- A fold whose steps keep the canonical form keeps it. -/
theorem foldl_canon {β : Type} {f : Dev → β → Dev} {d : Dev} {l : List β} (hf : ∀ d b, d.Canon → (f d b).Canon) (h : d.Canon) :
    (l.foldl f d).Canon := List.foldlRecOn l f h fun d hd b _ => hf d b hd

/-- The same for a fold that carries a result beside the device. -/
theorem foldl_snd_canon {α β : Type} {f : α × Dev → β → α × Dev} {r : α × Dev} {l : List β} (hf : ∀ r b, r.2.Canon → (f r b).2.Canon)
    (h : r.2.Canon) : (l.foldl f r).2.Canon := List.foldlRecOn (motive := fun r => r.2.Canon) l f h fun r hr b _ => hf r b hr

/-- The same for a fold that carries two results beside the device. -/
theorem foldl_snd_snd_canon {α γ β : Type} {f : α × γ × Dev → β → α × γ × Dev} {r : α × γ × Dev} {l : List β}
    (hf : ∀ r b, r.2.2.Canon → (f r b).2.2.Canon) (h : r.2.2.Canon) : (l.foldl f r).2.2.Canon :=
  List.foldlRecOn (motive := fun r => r.2.2.Canon) l f h fun r hr b _ => hf r b hr

/-- The same for a fold that carries two results before the device and one after it. -/
theorem foldl_snd_snd_fst_canon {α γ δ β : Type} {f : α × γ × Dev × δ → β → α × γ × Dev × δ} {r : α × γ × Dev × δ} {l : List β}
    (hf : ∀ r b, r.2.2.1.Canon → (f r b).2.2.1.Canon) (h : r.2.2.1.Canon) : (l.foldl f r).2.2.1.Canon :=
  List.foldlRecOn (motive := fun r => r.2.2.1.Canon) l f h fun r hr b _ => hf r b hr

/-- The same for a fold over a state that may already have failed. -/
theorem foldl_onSome_canon {β : Type} {f : Option Dev → β → Option Dev} {o : Option Dev} {l : List β}
    (hf : ∀ o b, OnSome Dev.Canon o → OnSome Dev.Canon (f o b)) (h : OnSome Dev.Canon o) : OnSome Dev.Canon (l.foldl f o) :=
  List.foldlRecOn (motive := OnSome Dev.Canon) l f h fun o ho b _ => hf o b ho

/-- The device of a pair that an operation answers. -/
theorem canon_of_eq {α : Type} {r : α × Dev} {a : α} {d : Dev} (h : r.2.Canon) (e : r = (a, d)) : d.Canon := by
  rw [e] at h
  exact h

/-- The device of a triple that an operation answers. -/
theorem canon_of_eq_triple {α β : Type} {r : α × β × Dev} {a : α} {b : β} {d : Dev} (h : r.2.2.Canon) (e : r = (a, b, d)) : d.Canon := by
  rw [e] at h
  exact h

/-- Both branches keep the canonical form. -/
theorem ite_canon {p : Prop} [Decidable p] {a b : Dev} (ha : a.Canon) (hb : b.Canon) : (if p then a else b).Canon := by
  split
  · exact ha
  · exact hb

theorem ite_onSome {α : Type} {P : α → Prop} {p : Prop} [Decidable p] {a b : Option α} (ha : OnSome P a) (hb : OnSome P b) :
    OnSome P (if p then a else b) := by
  split
  · exact ha
  · exact hb

/-- Iterating a step that keeps the canonical form keeps it. -/
theorem iterWhile_canon {f : Dev → Option Dev} (hf : ∀ d, d.Canon → OnSome Dev.Canon (f d)) : ∀ (n : Nat) {d : Dev}, d.Canon → (iterWhile f n d).Canon
  | 0, _, h => h
  | n + 1, d, h => by
    unfold iterWhile
    split
    case h_1 t ht => exact iterWhile_canon hf n ((hf d h).holds t ht)
    case h_2 => exact h

theorem onSome_map {α β : Type} {P : α → Prop} {Q : β → Prop} {f : α → β} {o : Option α} (hf : ∀ x, P x → Q (f x)) (h : OnSome P o) :
    OnSome Q (o.map f) := by
  cases o with
  | none => exact onSome_none
  | some x => exact onSome_some.2 (hf x (onSome_some.1 h))

theorem onSome_map_of_forall {α β : Type} {Q : β → Prop} {f : α → β} (hf : ∀ x, Q (f x)) (o : Option α) : OnSome Q (o.map f) :=
  onSome_map (P := fun _ => True) (fun x _ => hf x) ⟨fun _ _ => trivial⟩

theorem onSome_bind {α β : Type} {P : α → Prop} {Q : β → Prop} {f : α → Option β} {o : Option α} (hf : ∀ x, P x → OnSome Q (f x)) (h : OnSome P o) :
    OnSome Q (o.bind f) := by
  cases o with
  | none => exact onSome_none
  | some x => exact hf x (onSome_some.1 h)

theorem onSome_foldlM {α β : Type} {P : α → Prop} {f : α → β → Option α} (hf : ∀ x b, P x → OnSome P (f x b)) :
    ∀ (l : List β) {x : α}, P x → OnSome P (l.foldlM f x)
  | [], _, h => onSome_some.2 h
  | b :: t, x, h => by
    rw [List.foldlM_cons]
    exact onSome_bind (fun y hy => onSome_foldlM hf t hy) (hf x b h)

theorem onOk_bind {ε α β : Type} {P : α → Prop} {Q : β → Prop} {f : α → Except ε β} {r : Except ε α} (hf : ∀ x, P x → OnOk Q (f x)) (h : OnOk P r) :
    OnOk Q (r >>= f) := by
  cases r with
  | error e => exact onOk_error
  | ok x => exact hf x (onOk_ok.1 h)

theorem onOk_foldlM {ε α β : Type} {P : α → Prop} {f : α → β → Except ε α} (hf : ∀ x b, P x → OnOk P (f x b)) :
    ∀ (l : List β) {x : α}, P x → OnOk P (l.foldlM f x)
  | [], _, h => onOk_ok.2 h
  | b :: t, x, h => by
    rw [List.foldlM_cons]
    exact onOk_bind (fun y hy => onOk_foldlM hf t hy) (hf x b h)

theorem onOk_orHalt {α : Type} {P : α → Prop} (e : Halt) {o : Option α} (h : OnSome P o) : OnOk P (orHalt e o) := by
  cases o with
  | none => exact onOk_error
  | some x => exact onOk_ok.2 (onSome_some.1 h)

/-- A register write keeps the canonical form. -/
theorem Dev.wr_canon {d : Dev} (h : d.Canon) (die : Nat) (f : Fld) (v : Nat) : (d.wr die f v).Canon := by
  obtain ⟨hmem, hregs, hst, hflash⟩ := h
  unfold Dev.wr
  dsimp only
  split
  · exact ⟨hmem, hregs, KMap.wf_set _ _ _ _ hst, hflash⟩
  · exact ⟨hmem, KMap.wf_set _ _ _ _ hregs, hst, hflash⟩

theorem Dev.setRaw_canon {d : Dev} (h : d.Canon) (a : Nat) (b : Byte) : (d.setRaw a b).Canon := by
  refine ⟨Dev.setRaw_wf a b h.1, ?_⟩
  unfold Dev.setRaw
  split <;> exact h.2

theorem Dev.setRawList_canon : ∀ {d : Dev} (_ : d.Canon) (a : Nat) (l : List Byte), (d.setRawList a l).Canon
  | _, h, _, [] => h
  | _, h, a, b :: t => Dev.setRawList_canon (Dev.setRaw_canon h a b) (a + 1) t

theorem Dev.setPoison_canon {d : Dev} (h : d.Canon) (sector : Nat) (b : Bool) : (d.setPoison sector b).Canon := ⟨Dev.setPoison_wf sector b h.1, h.2⟩

theorem Dev.setOwner_canon {d : Dev} (h : d.Canon) (i v : Nat) : (d.setOwner i v).Canon := ⟨Dev.setOwner_wf i v h.1, h.2⟩

theorem Dev.spadWrite_canon {d : Dev} (h : d.Canon) (p off : Nat) (v : List PByte) : (d.spadWrite p off v).Canon := ⟨Dev.spadWrite_wf p off v h.1, h.2⟩

theorem Dev.clearSpad_canon {d : Dev} (h : d.Canon) (p : Nat) : (d.clearSpad p).Canon := ⟨Dev.clearSpad_wf p h.1, h.2⟩

end Sys2Proof.Machine
end

