-- ==== Sys2Proof/Proofs/CanonRv.lean ====
section
/-! The instructions that the perch sequencer and the steward cores share: they reach the device through the interface of the processor alone, so
whatever the interface keeps, each instruction keeps. -/

namespace Sys2Proof.Machine

/-- Every state that an instruction's answer holds has the property. -/
def RvRes.Sat {σ : Type} (P : σ → Prop) : RvRes σ → Prop
  | .ok s => P s
  | .trap s _ _ => P s

/-- What an interface to a processor does with its state keeps a property. -/
structure RvBus.Keeps {σ : Type} (b : RvBus σ) (P : σ → Prop) : Prop where
  put : ∀ s k, P s → P (b.put s k)
  load : ∀ s a n, P s → OnOk (fun r => P r.2) (b.load s a n)
  store : ∀ s a n v, P s → OnOk P (b.store s a n v)
  vload : ∀ s a n, P s → OnOk (fun r => P r.2) (b.vload s a n)
  vstore : ∀ s a n v, P s → OnOk P (b.vstore s a n v)
  csrWrite : ∀ s n x, P s → OnSome P (b.csrWrite s n x)

section
variable {σ : Type} {b : RvBus σ} {P : σ → Prop} (hb : b.Keeps P) {s : σ} (hs : P s)
include hb hs

theorem RvBus.retire_sat (len : Nat) (k : RvCore) : (b.retire s len k).Sat P := hb.put _ _ hs

theorem RvBus.wr_sat (len rd v : Nat) : (b.wr s len rd v).Sat P := hb.put _ _ hs

omit hb in
theorem RvBus.illegal_sat (word : Nat) : (b.illegal s word).Sat P := hs

theorem RvBus.csrInst_sat (word len f3 rd rs1 num : Nat) : (b.csrInst s word len f3 rd rs1 num).Sat P := by
  unfold RvBus.csrInst
  extract_lets src writes
  split
  · exact RvBus.illegal_sat hs word
  · split
    · exact RvBus.illegal_sat hs word
    · extract_lets new
      split
      · split
        · exact RvBus.illegal_sat hs word
        · rename_i e
          exact RvBus.wr_sat hb ((hb.csrWrite s num new hs).holds _ e) ..
      · exact RvBus.wr_sat hb hs ..

theorem RvBus.fopInst_sat (word len f5 : Nat) (dbl : Bool) (rd rs1 rs2 f3 : Nat) : (b.fopInst s word len f5 dbl rd rs1 rs2 f3).Sat P := by
  unfold RvBus.fopInst
  grind only [RvBus.illegal_sat, RvBus.retire_sat]

theorem RvBus.fmaInst_sat (word len op : Nat) (dbl : Bool) (rd rs1 rs2 rs3 f3 : Nat) : (b.fmaInst s word len op dbl rd rs1 rs2 rs3 f3).Sat P := by
  unfold RvBus.fmaInst
  grind only [RvBus.illegal_sat, RvBus.retire_sat]

theorem vMemLoop_sat (fof : Bool) (fields : Nat) (act : Nat → Bool) {acc : σ → Nat → Nat → Except (Nat × Nat) σ}
    (hacc : ∀ s i j, P s → OnOk P (acc s i j)) (start stop : Nat) : (vMemLoop b fof fields act acc start stop s).Sat P := by
  refine List.foldlRecOn (motive := RvRes.Sat P) _ _ hs fun r hr i _ => ?_
  split
  · exact hr
  · rename_i s
    split
    · exact hr
    · refine List.foldlRecOn (motive := RvRes.Sat P) _ _ hr fun r hr j _ => ?_
      split
      · exact hr
      · rename_i s
        split
        · exact hr
        · split
          · rename_i e
            exact (hacc s i j hr).holds _ e
          · split
            · exact hb.put _ _ hr
            · exact hb.put _ _ hr

omit hs in
theorem RvBus.vEnd_sat (len : Nat) {r : RvRes σ} (hr : r.Sat P) : (b.vEnd len r).Sat P := by
  unfold RvBus.vEnd
  split
  · exact RvBus.retire_sat hb hr ..
  · exact hr

theorem RvBus.vMem_sat (word len : Nat) (st : Bool) (nf mew mop : Nat) (vm : Bool) (rs2 rs1 f3 vd : Nat) :
    (b.vMem s word len st nf mew mop vm rs2 rs1 f3 vd).Sat P := by
  have bad : (b.illegal s word).Sat P := RvBus.illegal_sat hs word
  unfold RvBus.vMem
  extract_lets k wd base fields indexed eew eb whole mask fof g8 regs illegal illegalNormal access
  have hacc (w : Nat) (addrOf : Nat → Nat → Nat) (regOf : Nat → Nat) (s : σ) (i j : Nat) (hs : P s) : OnOk P (access w addrOf regOf s i j) := by
    unfold access
    extract_lets a
    split
    · exact hb.vstore _ _ _ _ hs
    · split
      · rename_i e
        exact onOk_ok.2 (hb.put _ _ ((hb.vload _ _ _ hs).holds _ e))
      · exact onOk_error
  have elements (fof : Bool) (fields : Nat) (act : Nat → Bool) (w : Nat) (addrOf : Nat → Nat → Nat) (regOf : Nat → Nat) (start stop : Nat) :
      (b.vEnd len (vMemLoop b fof fields act (access w addrOf regOf) start stop s)).Sat P :=
    RvBus.vEnd_sat hb len (vMemLoop_sat hb hs fof fields act (hacc w addrOf regOf) start stop)
  have gate {c : Prop} [Decidable c] {r : RvRes σ} (hr : r.Sat P) : (if c then b.illegal s word else r).Sat P := by
    split
    · exact bad
    · exact hr
  refine gate ?_
  split
  case isTrue => exact gate (elements ..)
  case isFalse =>
    split
    case isTrue => exact gate (elements ..)
    case isFalse => exact gate (elements ..)

theorem RvBus.vArith_sat (word len f6 : Nat) (vm : Bool) (vs2 rs1 f3 vd : Nat) : (b.vArith s word len f6 vm vs2 rs1 f3 vd).Sat P := by
  unfold RvBus.vArith
  grind only [RvBus.illegal_sat, RvBus.retire_sat]

theorem RvBus.vSet_sat (len kind rd rs1 rs2 zimm : Nat) : (b.vSet s len kind rd rs1 rs2 zimm).Sat P := hb.put _ _ hs

/-- The shared instructions keep what their interface keeps. -/
theorem RvBus.exec_keeps (word len : Nat) (i : RvInst) : OnSome (RvRes.Sat P) (b.exec s word len i) := by
  have gate {c : Prop} [Decidable c] {r : RvRes σ} (hr : r.Sat P) : OnSome (RvRes.Sat P) (some (if c then r else b.illegal s word)) := by
    refine onSome_some.2 ?_
    split
    · exact hr
    · exact RvBus.illegal_sat hs word
  cases i with
  | fop => exact gate (RvBus.fopInst_sat hb hs ..)
  | fma => exact gate (RvBus.fmaInst_sat hb hs ..)
  | vset => exact gate (RvBus.vSet_sat hb hs ..)
  | vload => exact gate (RvBus.vMem_sat hb hs ..)
  | vstore => exact gate (RvBus.vMem_sat hb hs ..)
  | varith => exact gate (RvBus.vArith_sat hb hs ..)
  | csr => exact onSome_some.2 (RvBus.csrInst_sat hb hs ..)
  | fload size rd rs1 imm =>
    refine gate ?_
    split
    · rename_i e
      exact RvBus.retire_sat hb ((hb.load _ _ _ hs).holds _ e) ..
    · exact hs
  | fstore size rs1 rs2 imm =>
    refine gate ?_
    split
    · rename_i e
      exact RvBus.retire_sat hb ((hb.store _ _ _ _ hs).holds _ e) ..
    · exact hs
  | load f3 rd rs1 imm =>
    refine onSome_some.2 ?_
    split
    · rename_i e
      exact RvBus.wr_sat hb ((hb.load _ _ _ hs).holds _ e) ..
    · exact hs
  | store f3 rs1 rs2 imm =>
    refine onSome_some.2 ?_
    split
    · rename_i e
      exact RvBus.retire_sat hb ((hb.store _ _ _ _ hs).holds _ e) ..
    · exact hs
  | branch f3 rs1 rs2 imm =>
    refine onSome_some.2 ?_
    split
    · exact hb.put _ _ hs
    · exact RvBus.retire_sat hb hs ..
  | opImm op word rd rs1 imm =>
    refine onSome_some.2 ?_
    split
    · exact RvBus.wr_sat hb hs ..
    · exact RvBus.wr_sat hb hs ..
  | op op word rd rs1 rs2 =>
    refine onSome_some.2 ?_
    split
    · exact RvBus.wr_sat hb hs ..
    · exact RvBus.wr_sat hb hs ..
  | lui => exact onSome_some.2 (RvBus.wr_sat hb hs ..)
  | auipc => exact onSome_some.2 (RvBus.wr_sat hb hs ..)
  | jal => exact onSome_some.2 (hb.put _ _ hs)
  | jalr => exact onSome_some.2 (hb.put _ _ hs)
  | fence | fenceI | cbo | ecall | ebreak | mret | sret | wfi | sfenceVma | amo | custom => exact onSome_none

end

end Sys2Proof.Machine
end

