-- ==== Sys2Proof/Proofs/CanonOps.lean ====
section
/-! One rule for each operation of the model that answers a device, in the order of the model's files: from a canonical device it answers a canonical
one. A rule cites the rules of the operations that its own is built of; an operation that writes no store keeps the canonical form as it is. -/

namespace Sys2Proof.Machine

/-! ### Machine/Ops -/

theorem Dev.emit_canon {d : Dev} (h : d.Canon) (o : Out) : (d.emit o).Canon := h

theorem Dev.inc_canon {d : Dev} (h : d.Canon) (die : Nat) (f : Fld) (n : Nat) : (d.inc die f n).Canon :=
  Dev.wr_canon h ..

theorem Dev.incMod_canon {d : Dev} (h : d.Canon) (die : Nat) (f : Fld) (n : Nat) : (d.incMod die f n).Canon :=
  Dev.wr_canon h ..

theorem Dev.raiseMax_canon {d : Dev} (h : d.Canon) (die : Nat) (f : Fld) (n : Nat) : (d.raiseMax die f n).Canon :=
  Dev.wr_canon h ..

theorem Dev.free_canon {d : Dev} (h : d.Canon) : d.free.2.Canon := by
  unfold Dev.free
  grind only [Dev.canon_iff]

theorem Dev.freeBytes_canon {d : Dev} (h : d.Canon) (n : Nat) : (d.freeBytes n).2.Canon := by
  unfold Dev.freeBytes
  grind only [Dev.canon_iff]

theorem Dev.setPerch_canon {d : Dev} (h : d.Canon) (p : Nat) (v : Perch) : (d.setPerch p v).Canon := h

theorem Dev.updPerch_canon {d : Dev} (h : d.Canon) (p : Nat) (f : Perch → Perch) : (d.updPerch p f).Canon :=
  Dev.setPerch_canon h ..

theorem Dev.updHart_canon {d : Dev} (h : d.Canon) (hart : Nat) (f : Hart → Hart) : (d.updHart hart f).Canon := h

theorem Dev.raiseErr_canon {d : Dev} (h : d.Canon) (die cls : Nat) : (d.raiseErr die cls).Canon :=
  ite_canon h (Dev.wr_canon h ..)

theorem Dev.accErr_canon {d : Dev} (h : d.Canon) (die kind : Nat) (q : Rq) (addr : Nat) : (d.accErr die kind q addr).Canon :=
  ite_canon (Dev.raiseErr_canon h ..) (Dev.wr_canon (Dev.wr_canon (Dev.wr_canon (Dev.wr_canon (Dev.wr_canon (Dev.wr_canon (Dev.wr_canon
    (Dev.raiseErr_canon h ..) ..) ..) ..) ..) ..) ..) ..)

/-! ### Machine/Home -/

theorem Dev.meetFlaw_canon {d : Dev} (h : d.Canon) (key : Nat) : (d.meetFlaw key).Canon := by
  unfold Dev.meetFlaw
  grind only [Dev.setPoison_canon, Dev.canon_iff]

theorem Dev.dramRead_canon {d : Dev} (h : d.Canon) (line sectors : Nat) : (d.dramRead line sectors).Canon := by
  unfold Dev.dramRead
  grind only [Dev.incMod_canon, Dev.meetFlaw_canon, foldl_canon]

theorem Dev.setFlaw_canon {d : Dev} (h : d.Canon) (uncorr : Bool) (pa : Nat) : (d.setFlaw uncorr pa).Canon := h

theorem Dev.dramWrite_canon {d : Dev} (h : d.Canon) (line sectors : Nat) (v : List PByte) : (d.dramWrite line sectors v).Canon :=
  foldl_canon (fun _ _ h => ite_canon (ite_canon (Dev.setPoison_canon (Dev.setRawList_canon h ..) ..) (Dev.setPoison_canon (Dev.setRawList_canon
    h ..) ..)) h) h

theorem Dev.setSysc_canon {d : Dev} (h : d.Canon) (die : Nat) (c : Cache) : (d.setSysc die c).Canon := h

theorem Dev.wcbIssue_canon {d : Dev} (h : d.Canon) (e : WcbEntry) : (d.wcbIssue e).Canon := by
  unfold Dev.wcbIssue
  grind only [Dev.dramRead_canon, Dev.dramWrite_canon, Dev.inc_canon, Dev.incMod_canon, Dev.canon_iff]

theorem Dev.wcbPut_canon {d : Dev} (h : d.Canon) (die channel line : Nat) (p : List (Option PByte)) : (d.wcbPut die channel line p).Canon := by
  unfold Dev.wcbPut
  grind only [Dev.wcbIssue_canon, Dev.inc_canon, Dev.raiseMax_canon, Dev.canon_iff]

theorem Dev.syscFill_canon {d : Dev} (h : d.Canon) (die set elig : Nat) (l : CLine) : (d.syscFill die set elig l).Canon := by
  unfold Dev.syscFill
  grind only [Dev.setSysc_canon, Dev.wcbPut_canon]

theorem Dev.homeMerge_canon {d : Dev} (h : d.Canon) (part : Nat) (noAlloc : Bool) (line : Nat) (p : List (Option PByte)) :
    (d.homeMerge part noAlloc line p).Canon := by
  unfold Dev.homeMerge
  grind only [Dev.setSysc_canon, Dev.syscFill_canon, Dev.wcbPut_canon, Dev.dramRead_canon, Dev.dramWrite_canon]

theorem Dev.chargeBytes_canon {d : Dev} (h : d.Canon) (die part n pa : Nat) : (d.chargeBytes die part n pa).Canon := by
  unfold Dev.chargeBytes
  grind only [Dev.wr_canon, Dev.canon_iff]

theorem Dev.stewBack_canon {d : Dev} (h : d.Canon) (line : Nat) (l : StewardLine) : (d.stewBack line l).Canon :=
  Dev.homeMerge_canon (Dev.chargeBytes_canon h ..) ..

theorem Dev.recallClean_canon {d : Dev} (h : d.Canon) (line : Nat) : (d.recallClean line).Canon :=
  foldl_canon (fun _ _ h => ite_canon (Dev.stewBack_canon h ..) h) h

theorem Dev.setCore_canon {d : Dev} (h : d.Canon) (hart kind : Nat) (c : Cache) : (d.setCore hart kind c).Canon := h

theorem Dev.coreDrop_canon {d : Dev} (h : d.Canon) (p : Nat → Bool) (line : Nat) : (d.coreDrop p line).Canon :=
  ite_canon h h

theorem Dev.stewDrop_canon {d : Dev} (h : d.Canon) (die line : Nat) : (d.stewDrop die line).Canon := by
  unfold Dev.stewDrop
  grind only [Dev.coreDrop_canon, Dev.setSysc_canon, Dev.canon_iff]

theorem Dev.recallDrop_canon {d : Dev} (h : d.Canon) (line : Nat) : (d.recallDrop line).Canon :=
  ite_canon (Dev.stewDrop_canon (Dev.stewDrop_canon (Dev.recallClean_canon h ..) ..) ..) h

theorem Dev.clearResv_canon {d : Dev} (h : d.Canon) (line : Nat) : (d.clearResv line).Canon := h

/-! ### Machine/Repair -/

theorem Dev.devWrite_canon {d : Dev} (h : d.Canon) (pa : Nat) (b : List Byte) : (d.devWrite pa b).Canon := by
  unfold Dev.devWrite
  grind only [Dev.clearResv_canon, Dev.recallDrop_canon, Dev.homeMerge_canon, foldl_canon]

theorem Dev.logRecord_canon {d : Dev} (h : d.Canon) (b : List Byte) : (d.logRecord b).Canon :=
  ite_canon (Dev.inc_canon h ..) (Dev.wr_canon (Dev.devWrite_canon h ..) ..)

theorem Dev.retirePage_canon {d : Dev} (h : d.Canon) (die page : Nat) : (d.retirePage die page).Canon := by
  unfold Dev.retirePage
  grind only [Dev.setOwner_canon, Dev.wr_canon, Dev.logRecord_canon, Dev.raiseErr_canon, Dev.canon_iff]

theorem Dev.rowFail_canon {d : Dev} (h : d.Canon) (die channel bank row : Nat) : (d.rowFail die channel bank row).Canon := by
  unfold Dev.rowFail
  grind only [Dev.raiseErr_canon, Dev.inc_canon, Dev.logRecord_canon, Dev.retirePage_canon, Dev.canon_iff, foldl_canon]

theorem Dev.eccCorrected_canon {d : Dev} (h : d.Canon) (pa : Nat) : (d.eccCorrected pa).Canon := by
  unfold Dev.eccCorrected
  grind only [Dev.inc_canon, Dev.rowFail_canon, Dev.retirePage_canon, Dev.canon_iff]

theorem Dev.eccUncorrectable_canon {d : Dev} (h : d.Canon) (pa : Nat) : (d.eccUncorrectable pa).Canon := by
  unfold Dev.eccUncorrectable
  grind only [Dev.raiseErr_canon, Dev.inc_canon, Dev.setPoison_canon, Dev.wr_canon, Dev.rowFail_canon, Dev.retirePage_canon]

theorem Dev.settleUpTo_canon : ∀ (n : Nat) {d : Dev} (_ : d.Canon), (Dev.settleUpTo n d).Canon
  | 0, _, h => h
  | n + 1, d, h => by
    unfold Dev.settleUpTo
    split
    · exact h
    · refine Dev.settleUpTo_canon n ?_
      grind only [Dev.canon_iff, Dev.eccUncorrectable_canon, Dev.eccCorrected_canon]

theorem Dev.settle_canon {d : Dev} (h : d.Canon) : d.settle.Canon := by
  unfold Dev.settle
  grind only [Dev.settleUpTo_canon]

/-! ### Machine/HomeAcc -/

theorem Dev.homeReadSeg_canon {d : Dev} (h : d.Canon) (q : Rq) (line off k : Nat) : (d.homeReadSeg q line off k).2.Canon := by
  unfold Dev.homeReadSeg
  grind only [Dev.recallClean_canon, Dev.chargeBytes_canon, Dev.setSysc_canon, Dev.raiseErr_canon, Dev.settle_canon, Dev.dramRead_canon,
    Dev.syscFill_canon]

theorem Dev.homeWriteSeg_canon {d : Dev} (h : d.Canon) (q : Rq) (line off : Nat) (v : List PByte) : (d.homeWriteSeg q line off v).Canon :=
  Dev.settle_canon (Dev.homeMerge_canon (Dev.chargeBytes_canon (Dev.clearResv_canon (Dev.recallDrop_canon h ..) ..) ..) ..)

theorem Dev.homeWritePatch_canon {d : Dev} (h : d.Canon) (q : Rq) (line : Nat) (p : List (Option PByte)) : (d.homeWritePatch q line p).Canon :=
  Dev.settle_canon (Dev.homeMerge_canon (Dev.chargeBytes_canon (Dev.clearResv_canon (Dev.recallDrop_canon h ..) ..) ..) ..)

theorem Dev.poisonBytes_canon {d : Dev} (h : d.Canon) (n : Nat) : (d.poisonBytes n).2.Canon := by
  unfold Dev.poisonBytes
  grind only [Dev.freeBytes_canon]

theorem Dev.readSeg_canon {d : Dev} (h : d.Canon) (q : Rq) (line off k : Nat) : (d.readSeg q line off k).2.2.Canon := by
  unfold Dev.readSeg
  grind only [Dev.poisonBytes_canon, Dev.accErr_canon, Dev.homeReadSeg_canon]

theorem Dev.writeSeg_canon {d : Dev} (h : d.Canon) (q : Rq) (line off : Nat) (v : List PByte) : (d.writeSeg q line off v).2.Canon := by
  unfold Dev.writeSeg
  grind only [Dev.accErr_canon, Dev.spadWrite_canon, Dev.homeWriteSeg_canon]

theorem Dev.readPa_canon {d : Dev} (h : d.Canon) (q : Rq) (pa n : Nat) : (d.readPa q pa n).2.2.Canon := by
  unfold Dev.readPa
  grind only [Dev.readSeg_canon, foldl_snd_snd_canon]

theorem Dev.writePa_canon {d : Dev} (h : d.Canon) (q : Rq) (pa : Nat) (v : List PByte) : (d.writePa q pa v).2.Canon := by
  unfold Dev.writePa
  grind only [Dev.writeSeg_canon, foldl_snd_canon]

/-! ### Machine/Mmu -/

theorem Dev.mmuFault_canon {d : Dev} (h : d.Canon) (x : Xq) (type access dva : Nat) : (d.mmuFault x type access dva).Canon :=
  ite_canon (Dev.inc_canon (Dev.raiseErr_canon h ..) ..) (Dev.wr_canon (Dev.wr_canon (Dev.wr_canon (Dev.wr_canon (Dev.wr_canon (Dev.wr_canon
    (Dev.wr_canon (Dev.wr_canon (Dev.inc_canon (Dev.raiseErr_canon h ..) ..) ..) ..) ..) ..) ..) ..) ..) ..)

theorem Dev.walkFrom_canon (x : Xq) (own dva : Nat) : ∀ (level table : Nat) (acc : List WalkEntry) {d : Dev} (_ : d.Canon),
    (d.walkFrom x own dva level table acc).2.Canon
  | 0, table, acc, d, h => by
    unfold Dev.walkFrom
    grind only [Dev.readSeg_canon]
  | level + 1, table, acc, d, h => by
    have ih := Dev.walkFrom_canon x own dva level
    unfold Dev.walkFrom
    grind only [Dev.readSeg_canon]

theorem Dev.tlbTouch_canon {d : Dev} (h : d.Canon) (e : TlbEntry) : (d.tlbTouch e).Canon := h

theorem Dev.tlbFill_canon {d : Dev} (h : d.Canon) (e : TlbEntry) : (d.tlbFill e).Canon := by
  unfold Dev.tlbFill
  grind only [Dev.tlbTouch_canon, Dev.canon_iff]

theorem Dev.walkTouch_canon {d : Dev} (h : d.Canon) (e : WalkEntry) : (d.walkTouch e).Canon := h

theorem Dev.walkFill_canon {d : Dev} (h : d.Canon) (e : WalkEntry) : (d.walkFill e).Canon := by
  unfold Dev.walkFill
  grind only [Dev.walkTouch_canon, Dev.canon_iff]

theorem Dev.useLeaf_canon {d : Dev} (h : d.Canon) (e : TlbEntry) : (d.useLeaf e).2.Canon := by
  unfold Dev.useLeaf
  grind only [Dev.canon_iff]

theorem Dev.lookup_canon {d : Dev} (h : d.Canon) (x : Xq) (root dva : Nat) : (d.lookup x root dva).2.Canon := by
  unfold Dev.lookup
  split
  · exact Dev.useLeaf_canon (Dev.tlbTouch_canon h ..) ..
  · split
    rename_i w d1 e1
    have hd1 : d1.Canon := canon_of_eq (Dev.free_canon h) e1
    extract_lets d2 start d3
    have hd2 : d2.Canon := Dev.raiseMax_canon (Dev.incMod_canon hd1 ..) ..
    have hd3 : d3.Canon := by
      unfold d3
      cases d2.walkHit x dva with
      | none => exact hd2
      | some e => exact Dev.walkTouch_canon hd2 e
    grind only [Dev.walkFrom_canon, Dev.walkFill_canon, Dev.tlbFill_canon, foldl_canon]

theorem Dev.leafFor_canon {d : Dev} (h : d.Canon) (x : Xq) (dva access : Nat) : (d.leafFor x dva access).2.Canon := by
  unfold Dev.leafFor
  grind only [Dev.mmuFault_canon, Dev.lookup_canon]

theorem Dev.translate_canon {d : Dev} (h : d.Canon) (x : Xq) (dva access : Nat) : (d.translate x dva access).2.Canon := by
  unfold Dev.translate
  grind only [Dev.leafFor_canon]

theorem Dev.translatePage_canon {d : Dev} (h : d.Canon) (x : Xq) (access dva n : Nat) : (d.translatePage x access dva n).2.Canon := by
  unfold Dev.translatePage
  grind only [Dev.leafFor_canon, Dev.translate_canon, foldl_snd_canon]

theorem Dev.translateRange_canon {d : Dev} (h : d.Canon) (x : Xq) (dva n access : Nat) : (d.translateRange x dva n access).2.Canon := by
  unfold Dev.translateRange
  grind only [Dev.translatePage_canon, foldl_snd_canon]

theorem Dev.readPieces_canon {d : Dev} (h : d.Canon) (q : Rq) (ext : Ext) (ps : List (Nat × Nat)) : (d.readPieces q ext ps).2.2.Canon := by
  unfold Dev.readPieces
  grind only [Dev.readPa_canon, foldl_snd_snd_fst_canon]

theorem Dev.invalidate_canon {d : Dev} (h : d.Canon) (part : Nat) (p : TlbEntry → Bool) : (d.invalidate part p).Canon := h

/-! ### Machine/ChainOps -/

theorem Dev.setChain_canon {d : Dev} (h : d.Canon) (die chain : Nat) (c : ChainCache) : (d.setChain die chain c).Canon := h

theorem Dev.chainFlaws_canon {d : Dev} (h : d.Canon) (die chain set way off k : Nat) : (d.chainFlaws die chain set way off k).Canon :=
  foldl_canon (fun _ _ h => ite_canon (Dev.raiseErr_canon (Dev.wr_canon (Dev.wr_canon (Dev.inc_canon (Dev.setChain_canon h ..) ..) ..) ..) ..)
    (Dev.inc_canon (Dev.setChain_canon h ..) ..)) h

theorem Dev.chainInstall_canon {d : Dev} (h : d.Canon) (die chain part : Nat) (l : CLine) : (d.chainInstall die chain part l).Canon := by
  unfold Dev.chainInstall
  grind only [Dev.setChain_canon]

theorem Dev.startFill_canon {d : Dev} (h : d.Canon) (q : Rq) (die chain line : Nat) (side : Bool) : (d.startFill q die chain line side).Canon := by
  unfold Dev.startFill
  grind only [Dev.readSeg_canon, Dev.setChain_canon, Dev.incMod_canon]

theorem Dev.countRead_canon {d : Dev} (h : d.Canon) (q : Rq) (die : Nat) (f : Fld) : (d.countRead q die f).Canon :=
  ite_canon h (Dev.incMod_canon h ..)

theorem Dev.prefetch_canon {d : Dev} (h : d.Canon) (q : Rq) (die chain ctxKey line : Nat) : (d.prefetch q die chain ctxKey line).Canon := by
  unfold Dev.prefetch
  grind only [Dev.setChain_canon, Dev.startFill_canon, foldl_canon]

theorem Dev.chainReadSeg_canon {d : Dev} (h : d.Canon) (q : Rq) (die chain ctxKey line off k : Nat) :
    (d.chainReadSeg q die chain ctxKey line off k).2.2.Canon := by
  unfold Dev.chainReadSeg
  grind only [Dev.readSeg_canon, Dev.chainFlaws_canon, Dev.countRead_canon, Dev.setChain_canon, Dev.incMod_canon, Dev.prefetch_canon,
    Dev.chainInstall_canon]

theorem Dev.chainRead_canon {d : Dev} (h : d.Canon) (q : Rq) (die chain ctxKey pa n : Nat) : (d.chainRead q die chain ctxKey pa n).2.2.Canon := by
  unfold Dev.chainRead
  grind only [Dev.chainReadSeg_canon, foldl_snd_snd_canon]

theorem Dev.chainWriteLine_canon {d : Dev} (h : d.Canon) (q : Rq) (die chain line : Nat) (p : List (Option PByte)) :
    (d.chainWriteLine q die chain line p).2.Canon := by
  unfold Dev.chainWriteLine
  grind only [Dev.accErr_canon, Dev.homeWritePatch_canon, Dev.setChain_canon, Dev.chainInstall_canon]

theorem Dev.chainDrop_canon {d : Dev} (h : d.Canon) (die chain : Nat) (p : Nat → Nat → Bool) (visited : Fill → Bool) :
    (d.chainDrop die chain p visited).Canon :=
  Dev.setChain_canon h ..

theorem Dev.chainClear_canon {d : Dev} (h : d.Canon) (die chain : Nat) : (d.chainClear die chain).Canon :=
  Dev.setChain_canon h ..

theorem Dev.chainFill_canon {d : Dev} (h : d.Canon) (die chain line : Nat) : (d.chainFill die chain line).Canon := by
  unfold Dev.chainFill
  grind only [Dev.setChain_canon, Dev.chainInstall_canon]

/-! ### Machine/Target -/

theorem Dev.dropWrite_canon {d : Dev} (h : d.Canon) (die pkg : Nat) : (d.dropWrite die pkg).Canon :=
  ite_canon (Dev.raiseErr_canon (Dev.inc_canon (Dev.inc_canon h ..) ..) ..) (Dev.inc_canon h ..)

theorem Dev.dropRead_canon {d : Dev} (h : d.Canon) (target n : Nat) : (d.dropRead target n).2.Canon :=
  Dev.poisonBytes_canon (Dev.inc_canon h ..) ..

theorem Dev.takeTag_canon {d : Dev} (h : d.Canon) : d.takeTag.2.Canon := by
  unfold Dev.takeTag
  grind only [Dev.canon_iff]

theorem Dev.sendPlane_canon {d : Dev} (h : d.Canon) (plane : Nat) (p : Packet) : (d.sendPlane plane p).Canon :=
  ite_canon h (Dev.emit_canon h ..)

theorem Dev.issueRemote_canon {d : Dev} (h : d.Canon) (agent : Agent) (p : Packet) (len : Nat) (isRead : Bool) (dest : List (Nat × Nat)) :
    (d.issueRemote agent p len isRead dest).Canon := by
  unfold Dev.issueRemote
  grind only [Dev.sendPlane_canon, Dev.canon_iff]

theorem Dev.releaseHeld_canon {d : Dev} (h : d.Canon) (pkg : Nat) : (d.releaseHeld pkg).Canon := by
  unfold Dev.releaseHeld
  grind only [Dev.sendPlane_canon, Dev.canon_iff, foldl_canon]

theorem Dev.remoteWriteOne_canon {d : Dev} (h : d.Canon) (agent : Agent) (part target : Nat) (v : List PByte) :
    (d.remoteWriteOne agent part target v).Canon := by
  unfold Dev.remoteWriteOne
  grind only [Dev.takeTag_canon, Dev.issueRemote_canon]

theorem Dev.remoteWrite_canon {d : Dev} (h : d.Canon) (agent : Agent) (part target : Nat) (v : List PByte) :
    (d.remoteWrite agent part target v).2.Canon := by
  unfold Dev.remoteWrite
  grind only [Dev.remoteWriteOne_canon, Dev.dropWrite_canon, foldl_snd_canon]

theorem Dev.remoteReadOne_canon {d : Dev} (h : d.Canon) (agent : Agent) (part target len : Nat) (dest : List (Nat × Nat)) :
    (d.remoteReadOne agent part target len dest).Canon := by
  unfold Dev.remoteReadOne
  grind only [Dev.takeTag_canon, Dev.issueRemote_canon]

theorem Dev.writeLocal_canon {d : Dev} (h : d.Canon) (q : Rq) (chain : Option (Nat × Nat)) (pa : Nat) (v : List PByte) :
    (d.writeLocal q chain pa v).2.Canon := by
  unfold Dev.writeLocal
  grind only [Dev.emit_canon, Dev.accErr_canon, Dev.chainWriteLine_canon, Dev.writePa_canon, foldl_snd_canon]

theorem Dev.writeTarget_canon {d : Dev} (h : d.Canon) (agent : Agent) (q : Rq) (chain : Option (Nat × Nat)) (target : Nat) (v : List PByte) :
    (d.writeTarget agent q chain target v).2.2.Canon := by
  unfold Dev.writeTarget
  grind only [Dev.writeLocal_canon, Dev.remoteWrite_canon]

theorem Dev.readLocal_canon {d : Dev} (h : d.Canon) (q : Rq) (chain : Option (Nat × Nat × Nat)) (ext : Ext) (pa n : Nat) :
    (d.readLocal q chain ext pa n).2.2.Canon := by
  unfold Dev.readLocal
  grind only [Dev.poisonBytes_canon, Dev.accErr_canon, Dev.chainRead_canon, Dev.readPa_canon]

theorem Dev.writePlaces_canon {d : Dev} (h : d.Canon) (agent : Agent) (q : Rq) (chain : Option (Nat × Nat)) (ps : List (Nat × Nat)) (v : List PByte) :
    (d.writePlaces agent q chain ps v).2.Canon := by
  unfold Dev.writePlaces
  grind only [Dev.writeTarget_canon, foldl_snd_snd_canon]

theorem Dev.dvaWrite_canon {d : Dev} (h : d.Canon) (x : Xq) (agent : Agent) (q : Rq) (chain : Option (Nat × Nat)) (dva : Nat) (v : List PByte) :
    (d.dvaWrite x agent q chain dva v).2.Canon := by
  unfold Dev.dvaWrite
  grind only [Dev.translatePage_canon, Dev.writePlaces_canon, foldl_snd_canon]

theorem Dev.fetchRemote_canon {d : Dev} (h : d.Canon) (part target n : Nat) (v : List PByte) : (d.fetchRemote part target n v).2.Canon := by
  unfold Dev.fetchRemote
  grind only [Dev.takeTag_canon, Dev.sendPlane_canon, Dev.dropRead_canon, foldl_canon]

theorem Dev.readPlaces_canon {d : Dev} (h : d.Canon) (q : Rq) (chain : Option (Nat × Nat × Nat)) (ext : Ext) (ps : List (Nat × Nat)) :
    (d.readPlaces q chain ext ps).2.2.Canon := by
  unfold Dev.readPlaces
  grind only [Dev.fetchRemote_canon, Dev.readLocal_canon, foldl_snd_snd_canon]

theorem Dev.dvaRead_canon {d : Dev} (h : d.Canon) (x : Xq) (q : Rq) (chain : Option (Nat × Nat × Nat)) (ext : Ext) (dva n : Nat) :
    (d.dvaRead x q chain ext dva n).2.2.Canon := by
  unfold Dev.dvaRead
  grind only [Dev.translatePage_canon, Dev.readPlaces_canon, foldl_snd_snd_canon]

/-! ### Machine/RasOps -/

theorem Dev.spadEcc_canon {d : Dev} (h : d.Canon) (p off : Nat) (uncorr : Bool) : (d.spadEcc p off uncorr).Canon := by
  obtain ⟨hmem, hrest⟩ := h
  unfold Dev.spadEcc
  extract_lets e
  split
  · apply Dev.raiseErr_canon
    refine ⟨?_, hrest⟩
    rw [Memory.wf_iff] at hmem ⊢
    obtain ⟨hbytes, hpoison, hspad, howner⟩ := hmem
    exact ⟨hbytes, hpoison, KMap.wf_set 0 d.spadPoison ((spadBase p + off) / 8) 1 hspad, howner⟩
  · exact ⟨hmem, hrest⟩

theorem Dev.foundAt_canon {d : Dev} (h : d.Canon) (chain : Option (Nat × Nat)) (uncorr : Bool) (pa : Nat) : (d.foundAt chain uncorr pa).Canon := by
  unfold Dev.foundAt
  grind only [Dev.spadEcc_canon, Dev.setChain_canon, Dev.setSysc_canon, Dev.setFlaw_canon]

theorem Dev.found_canon {d : Dev} (h : d.Canon) (chain : Option (Nat × Nat)) (e : Ecc) : (d.found chain e).Canon :=
  foldl_canon (fun _ _ h => Dev.foundAt_canon h ..) (foldl_canon (fun _ _ h => Dev.foundAt_canon h ..) h)

theorem Dev.homeAmo_canon {d : Dev} (h : d.Canon) (q : Rq) (pa n : Nat) (op : AmoOp) (operand compare : Nat) :
    (d.homeAmo q pa n op operand compare).2.Canon := by
  unfold Dev.homeAmo
  grind only [Dev.homeReadSeg_canon, Dev.clearResv_canon, Dev.recallDrop_canon, Dev.settle_canon, Dev.homeMerge_canon]

/-! ### Machine/HartCore -/

theorem Dev.hartTrap_canon {d : Dev} (h : d.Canon) (hart cause tval : Nat) : (d.hartTrap hart cause tval).Canon :=
  Dev.updHart_canon h ..

theorem Dev.writeMpart_canon {d : Dev} (h : d.Canon) (hart v : Nat) : (d.writeMpart hart v).Canon :=
  ite_canon h (Dev.updHart_canon h ..)

theorem Dev.writeMlive_canon {d : Dev} (h : d.Canon) (hart v : Nat) : (d.writeMlive hart v).Canon :=
  Dev.updHart_canon h ..

theorem Dev.writeMlosterr_canon {d : Dev} (h : d.Canon) (hart : Nat) : (d.writeMlosterr hart).Canon :=
  Dev.updHart_canon h ..

theorem Dev.hartCsrWrite_canon {d : Dev} (h : d.Canon) (hart n x : Nat) : OnSome Dev.Canon (d.hartCsrWrite hart n x) := by
  have same : OnSome Dev.Canon (some d) := onSome_some.2 h
  have changed (f : Hart → Hart) : OnSome Dev.Canon (some (d.updHart hart f)) := onSome_some.2 (Dev.updHart_canon h hart f)
  have absent : OnSome Dev.Canon none := onSome_none
  unfold Dev.hartCsrWrite
  extract_lets t k core put held
  refine ite_onSome absent <| ite_onSome (ite_onSome absent (ite_onSome (changed _) same)) <| ite_onSome (ite_onSome (changed _) same) <|
    ite_onSome (ite_onSome (changed _) (ite_onSome same absent)) <| ite_onSome (ite_onSome (changed _) same) ?_
  split <;> grind only [onSome_some, onSome_map_of_forall, Dev.updHart_canon, Dev.writeMpart_canon, Dev.writeMlive_canon, Dev.writeMlosterr_canon]

/-! ### Machine/Clock -/

theorem Dev.passNs_canon {d : Dev} (h : d.Canon) (ns : Nat) : (d.passNs ns).Canon := h

theorem Dev.toTime_canon {d : Dev} (h : d.Canon) (ns : Nat) : (d.toTime ns).Canon :=
  ite_canon h (Dev.passNs_canon h ..)

/-! ### Machine/PerchOps -/

theorem Dev.ctrInc_canon {d : Dev} (h : d.Canon) (p n : Nat) : (d.ctrInc p n).Canon :=
  ite_canon (Dev.updPerch_canon h ..) h

theorem Dev.drainStores_canon {d : Dev} (h : d.Canon) (p : Nat) : (d.drainStores p).Canon :=
  Dev.updPerch_canon (foldl_canon (fun _ _ h => Dev.spadWrite_canon h ..) h) ..

theorem Dev.imageRead_canon {d : Dev} (h : d.Canon) (p o n : Nat) : (d.imageRead p o n).2.2.Canon :=
  Dev.chainRead_canon h ..

theorem Dev.seqLoad_canon {d : Dev} (h : d.Canon) (p a n : Nat) : OnOk (fun t => t.2.Canon) (d.seqLoad p a n) := by
  unfold Dev.seqLoad
  grind only [Dev.imageRead_canon, onOk_ok, onOk_error]

theorem Dev.loadFault_canon {d : Dev} (h : d.Canon) (p a n : Nat) : (d.loadFault p a n).Canon := by
  unfold Dev.loadFault
  grind only [Dev.accErr_canon, Dev.imageRead_canon]

theorem Dev.seqStore_canon {d : Dev} (h : d.Canon) (p a n v : Nat) : OnOk Dev.Canon (d.seqStore p a n v) := by
  unfold Dev.seqStore
  grind only [Dev.updPerch_canon, Dev.spadWrite_canon, onOk_ok, onOk_error]

theorem Dev.seqVStore_canon {d : Dev} (h : d.Canon) (p a n v : Nat) : OnOk Dev.Canon (d.seqVStore p a n v) := by
  unfold Dev.seqVStore
  grind only [Dev.spadWrite_canon, Dev.drainStores_canon, onOk_ok, onOk_error]

theorem Dev.seqCsrWrite_canon {d : Dev} (h : d.Canon) (p num x : Nat) : OnSome Dev.Canon (d.seqCsrWrite p num x) := by
  unfold Dev.seqCsrWrite
  grind only [Dev.updPerch_canon, onSome_some, onSome_none]

/-- What the interface of a perch's sequencer does keeps the canonical form. -/
theorem perchBus_keeps (p : Nat) : (perchBus p).Keeps Dev.Canon where
  put _ _ h := Dev.updPerch_canon h ..
  load _ _ _ h := by
    unfold perchBus
    dsimp only
    split
    · exact onOk_error
    · exact Dev.seqLoad_canon h ..
  store _ _ _ _ h := Dev.seqStore_canon h ..
  vload _ _ _ h := Dev.seqLoad_canon h ..
  vstore _ _ _ _ h := Dev.seqVStore_canon h ..
  csrWrite _ _ _ h := Dev.seqCsrWrite_canon h ..

/-! ### Machine/ArrayCore -/

theorem Dev.updArr_canon {d : Dev} (h : d.Canon) (p : Nat) (f : Arr → Arr) : (d.updArr p f).Canon :=
  Dev.updPerch_canon h ..

theorem Dev.passWrite_canon {d : Dev} (h : d.Canon) (p off : Nat) (v : List Byte) : (d.passWrite p off v).Canon :=
  Dev.updPerch_canon (Dev.spadWrite_canon h ..) ..

theorem Dev.readEither_canon {d : Dev} (h : d.Canon) (p off n : Nat) : (d.readEither p off n).2.Canon := by
  unfold Dev.readEither
  grind only [Dev.freeBytes_canon]

theorem Dev.zeroRows_canon (p : Nat) : ∀ (fuel n : Nat) (c : ArrCmd) {d : Dev} (_ : d.Canon), (Dev.zeroRows p fuel n c d).2.Canon
  | 0, _, _, _, h => h
  | fuel + 1, n, c, d, h => by
    have ih := Dev.zeroRows_canon p fuel
    unfold Dev.zeroRows
    grind only [Dev.passWrite_canon]

theorem Dev.zeroRest_canon {d : Dev} (h : d.Canon) (p : Nat) (c : ArrCmd) : OnOk (fun t => t.2.Canon) (d.zeroRest p c) := by
  unfold Dev.zeroRest
  grind only [Dev.zeroRows_canon, onOk_ok, onOk_error]

theorem Dev.finishPass_canon {d : Dev} (h : d.Canon) (p : Nat) (c : ArrCmd) : OnOk Dev.Canon (d.finishPass p c) := by
  unfold Dev.finishPass
  grind only [Dev.zeroRest_canon, Dev.ctrInc_canon, Dev.updArr_canon, onOk_ok, onOk_error]

theorem Dev.arrayDrain_canon (p : Nat) : ∀ (fuel : Nat) {d : Dev} (_ : d.Canon), (Dev.arrayDrain p fuel d).Canon
  | 0, _, h => h
  | fuel + 1, d, h => by
    have ih := @Dev.arrayDrain_canon p fuel
    unfold Dev.arrayDrain
    grind only [Dev.finishPass_canon, onOk_ok]

/-! ### Machine/CollOps -/

theorem Dev.updColl_canon {d : Dev} (h : d.Canon) (coll : Nat) (f : CollDefState → CollDefState) : (d.updColl coll f).Canon := h

theorem Dev.collShow_canon {d : Dev} (h : d.Canon) (c : CollDef) : (d.collShow c).Canon :=
  foldl_canon (fun _ _ h => Dev.raiseMax_canon (Dev.wr_canon h ..) ..) h

theorem Dev.collStatus_canon {d : Dev} (h : d.Canon) (c : CollDef) (m : CollMember) (k : Nat) (bytes : List Byte) :
    (d.collStatus c m k bytes).Canon :=
  Dev.dvaWrite_canon h ..

theorem Dev.collCount_canon {d : Dev} (h : d.Canon) (c : CollDef) (tick status flags member : Nat) :
    (d.collCount c tick status flags member).Canon := by
  unfold Dev.collCount
  grind only [Dev.inc_canon, Dev.raiseErr_canon, Dev.wr_canon, foldl_canon]

theorem Dev.collTell_canon {d : Dev} (h : d.Canon) (c : CollDef) (k what status member value more : Nat) :
    (d.collTell c k what status member value more).Canon :=
  foldl_canon (fun _ _ h => ite_canon h (Dev.sendPlane_canon h ..)) h

theorem Dev.updInst_canon {d : Dev} (h : d.Canon) (c : CollDef) (k : Nat) (f : CollInst → CollInst) : (d.updInst c k f).Canon :=
  Dev.updColl_canon h ..

theorem Dev.collDetach_canon {d : Dev} (h : d.Canon) (p : Agent → Bool) : (d.collDetach p).Canon := h

theorem Dev.collEnd_canon {d : Dev} (h : d.Canon) (c : CollDef) (i : CollInst) (v : CollVerdict) : (d.collEnd c i v).Canon :=
  Dev.collShow_canon (Dev.collCount_canon (Dev.collDetach_canon (Dev.updColl_canon (foldl_canon (fun _ _ h => ite_canon h (ite_canon
    (Dev.ctrInc_canon (Dev.collStatus_canon h ..) ..) (Dev.collStatus_canon h ..))) h) ..) ..) ..) ..

theorem Dev.collEnds_canon (c : CollDef) : ∀ (fuel : Nat) {d : Dev} (_ : d.Canon), (Dev.collEnds c fuel d).Canon
  | 0, _, h => h
  | fuel + 1, d, h => by
    have ih := @Dev.collEnds_canon c fuel
    unfold Dev.collEnds
    grind only [Dev.collEnd_canon]

theorem Dev.collSettle_canon {d : Dev} (h : d.Canon) (c : CollDef) : (d.collSettle c).Canon := by
  unfold Dev.collSettle
  grind only [Dev.collEnds_canon]

theorem Dev.collDecide_canon {d : Dev} (h : d.Canon) (c : CollDef) (k : Nat) (v : CollVerdict) : (d.collDecide c k v).Canon :=
  Dev.collSettle_canon (ite_canon (Dev.updInst_canon h ..) (Dev.updColl_canon h ..)) ..

theorem Dev.collFail_canon {d : Dev} (h : d.Canon) (c : CollDef) (k status member : Nat) (counted : Bool) :
    (d.collFail c k status member counted).Canon :=
  ite_canon (Dev.collDecide_canon h ..) (Dev.collTell_canon (Dev.collDecide_canon h ..) ..)

theorem Dev.rangeAccess_canon {d : Dev} (h : d.Canon) (q : Rq) (ps : List (Nat × Nat)) : (d.rangeAccess q ps).2.Canon := by
  unfold Dev.rangeAccess
  grind only [Dev.accErr_canon]

theorem Dev.collBuffer_canon {d : Dev} (h : d.Canon) (x : Xq) (dva n access : Nat) : (d.collBuffer x dva n access).2.Canon := by
  unfold Dev.collBuffer
  grind only [Dev.translateRange_canon, Dev.rangeAccess_canon]

theorem Dev.collBuffers_canon {d : Dev} (h : d.Canon) (c : CollDef) (m : CollMember) (idx count srcOff dstOff : Nat) :
    (d.collBuffers c m idx count srcOff dstOff).2.Canon := by
  unfold Dev.collBuffers
  grind only [Dev.collBuffer_canon]

theorem Dev.collRead_canon {d : Dev} (h : d.Canon) (c : CollDef) (k : Nat) (m : CollMember) (idx part dva n : Nat) :
    (d.collRead c k m idx part dva n).2.Canon := by
  unfold Dev.collRead
  grind only [Dev.translateRange_canon, Dev.poisonBytes_canon, Dev.freeBytes_canon, Dev.readLocal_canon, Dev.remoteReadOne_canon, Dev.dropRead_canon,
    Dev.canon_iff, foldl_snd_canon, foldl_canon]

theorem Dev.collSend_canon {d : Dev} (h : d.Canon) (c : CollDef) (k : Nat) (i : CollInst) (p : CollPeer) : (d.collSend c k i p).Canon :=
  ite_canon h (Dev.updColl_canon (Dev.incMod_canon (foldl_canon (fun _ _ h => Dev.sendPlane_canon h ..) h) ..) ..)

theorem Dev.collSendAll_canon {d : Dev} (h : d.Canon) (c : CollDef) (k : Nat) : (d.collSendAll c k).Canon := by
  unfold Dev.collSendAll
  grind only [Dev.collSend_canon, foldl_canon]

theorem Dev.collFinish_canon {d : Dev} (h : d.Canon) (c : CollDef) (k : Nat) : (d.collFinish c k).Canon := by
  unfold Dev.collFinish
  grind only [Dev.collFail_canon, Dev.updInst_canon, Dev.free_canon, Dev.incMod_canon, foldl_canon]

theorem Dev.collLoaded_canon {d : Dev} (h : d.Canon) (c : CollDef) (k : Nat) : (d.collLoaded c k).Canon := by
  unfold Dev.collLoaded
  grind only [Dev.collShow_canon, Dev.updInst_canon, Dev.free_canon, Dev.collTell_canon, Dev.collFinish_canon, Dev.collSendAll_canon]

theorem Dev.collLoad_canon {d : Dev} (h : d.Canon) (c : CollDef) (k : Nat) : (d.collLoad c k).Canon := by
  unfold Dev.collLoad
  grind only [Dev.collShow_canon, Dev.collRead_canon, Dev.updInst_canon, Dev.collLoaded_canon, foldl_snd_canon]

theorem Dev.collArrive_canon {d : Dev} (h : d.Canon) (id k member part pos : Nat) (v : List PByte) : (d.collArrive id k member part pos v).Canon := by
  unfold Dev.collArrive
  grind only [Dev.updInst_canon, Dev.collLoaded_canon]

theorem Dev.collStart_canon {d : Dev} (h : d.Canon) (c : CollDef) (k : Nat) : (d.collStart c k).Canon := by
  unfold Dev.collStart
  grind only [Dev.collFail_canon, Dev.collBuffers_canon, Dev.updColl_canon, Dev.collFinish_canon, Dev.collShow_canon, Dev.collTell_canon,
    Dev.collLoad_canon, foldl_snd_canon]

theorem Dev.collNext_canon {d : Dev} (h : d.Canon) (c : CollDef) : OnSome Dev.Canon (d.collNext c) := by
  unfold Dev.collNext
  grind only [Dev.collFail_canon, Dev.collStart_canon, onSome_some, onSome_none]

theorem Dev.collAdvance_canon {d : Dev} (h : d.Canon) (c : CollDef) : (d.collAdvance c).Canon :=
  iterWhile_canon (fun _ h => Dev.collNext_canon h c) _ h

theorem Dev.collAdvanceAll_canon {d : Dev} (h : d.Canon) : d.collAdvanceAll.Canon :=
  foldl_canon (fun _ _ h => Dev.collAdvance_canon h ..) h

theorem Dev.collMiss_canon {d : Dev} (h : d.Canon) (c : CollDef) (before : CollDefState) (ks : List Nat) : (d.collMiss c before ks).Canon :=
  ite_canon (Dev.updColl_canon h ..) (foldl_canon (fun _ _ h => Dev.collFail_canon h ..) h)

theorem Dev.collSpanEnd_canon {d : Dev} (h : d.Canon) (p span : Nat) : (d.collSpanEnd p span).Canon := by
  unfold Dev.collSpanEnd
  grind only [Dev.collFail_canon, Dev.collAdvance_canon, Dev.updColl_canon, foldl_canon]

theorem Dev.perchIdle_canon {d : Dev} (h : d.Canon) (p : Nat) : (d.perchIdle p).Canon :=
  Dev.collSpanEnd_canon (Dev.updPerch_canon h ..) ..

theorem Dev.collTold_canon {d : Dev} (h : d.Canon) (c : CollDef) : (d.collTold c).Canon :=
  Dev.updColl_canon (foldl_canon (fun _ _ h => Dev.collTell_canon h ..) h) ..

theorem Dev.collPost_canon {d : Dev} (h : d.Canon) (c : CollDef) (idx : Nat) (m : CollMember) : (d.collPost c idx m).Canon := by
  unfold Dev.collPost
  grind only [Dev.accErr_canon, Dev.updColl_canon, Dev.collMiss_canon, Dev.collAdvance_canon, Dev.collTold_canon]

theorem Dev.collLanded_canon {d : Dev} (h : d.Canon) (c : CollDef) (i : CollInst) (idx : Nat) (m : CollMember) : (d.collLanded c i idx m).Canon :=
  ite_canon (Dev.collAdvanceAll_canon (Dev.collSettle_canon (Dev.collShow_canon (Dev.collCount_canon (Dev.updColl_canon (ite_canon (Dev.ctrInc_canon
    (Dev.collStatus_canon h ..) ..) (Dev.collStatus_canon h ..)) ..) ..) ..) ..)) (Dev.updInst_canon (ite_canon (Dev.ctrInc_canon
    (Dev.collStatus_canon h ..) ..) (Dev.collStatus_canon h ..)) ..)

theorem Dev.collWritten_canon {d : Dev} (h : d.Canon) (id k idx : Nat) : (d.collWritten id k idx).Canon := by
  unfold Dev.collWritten
  grind only [Dev.collLanded_canon]

theorem Dev.collTargets_canon {d : Dev} (h : d.Canon) (c : CollDef) (i : CollInst) (idx : Nat) (m : CollMember) :
    (d.collTargets c i idx m).2.Canon := by
  unfold Dev.collTargets
  grind only [Dev.collBuffer_canon]

theorem Dev.collComplete_canon {d : Dev} (h : d.Canon) (c : CollDef) (i : CollInst) (idx : Nat) (m : CollMember) :
    (d.collComplete c i idx m).Canon := by
  unfold Dev.collComplete
  grind only [Dev.collTargets_canon, Dev.collFail_canon, Dev.dvaWrite_canon, Dev.updInst_canon, Dev.collLanded_canon]

theorem Dev.collBoundary_canon {d : Dev} (h : d.Canon) : d.collBoundary.Canon := by
  unfold Dev.collBoundary
  grind only [Dev.collDecide_canon, Dev.collDetach_canon, Dev.collShow_canon, Dev.canon_iff, foldl_canon]

/-! ### Machine/DmaBuf -/

theorem Dev.updCtx_canon {d : Dev} (h : d.Canon) (p c : Nat) (f : DmaCtx → DmaCtx) : (d.updCtx p c f).Canon :=
  Dev.updPerch_canon h ..

theorem Dev.updDesc_canon {d : Dev} (h : d.Canon) (p c ticket : Nat) (f : DmaDesc → DmaDesc) : (d.updDesc p c ticket f).Canon :=
  Dev.updCtx_canon h ..

theorem Dev.descLost_canon {d : Dev} (h : d.Canon) (p c t' lines : Nat) : (d.descLost p c t' lines).Canon :=
  ite_canon h (Dev.updDesc_canon (Dev.updPerch_canon h ..) ..)

theorem Dev.remoteLine_canon {d : Dev} (h : d.Canon) (agent : Agent) (part line : Nat) (l : List (Option PByte)) :
    (d.remoteLine agent part line l).2.Canon := by
  unfold Dev.remoteLine
  grind only [Dev.dropWrite_canon, Dev.takeTag_canon, Dev.issueRemote_canon]

theorem Dev.dmaIssue_canon {d : Dev} (h : d.Canon) (p : Nat) (l : DmaLine) : (d.dmaIssue p l).2.Canon := by
  unfold Dev.dmaIssue
  grind only [Dev.updPerch_canon, Dev.updDesc_canon, Dev.remoteLine_canon, Dev.descLost_canon, Dev.emit_canon, Dev.accErr_canon,
    Dev.chainWriteLine_canon, foldl_canon]

theorem Dev.dmaGather_canon {d : Dev} (h : d.Canon) (p c t' line off : Nat) (v : List PByte) : (d.dmaGather p c t' line off v).Canon :=
  Dev.updPerch_canon h ..

theorem Dev.disown_canon {d : Dev} (h : d.Canon) (mine : Agent → Bool) : (d.disown mine).Canon := h

theorem Dev.dmaStop_canon {d : Dev} (h : d.Canon) (p c : Nat) : (d.dmaStop p c).Canon := by
  unfold Dev.dmaStop
  grind only [Dev.updCtx_canon, Dev.canon_iff]

theorem Dev.dmaWriteOut_canon {d : Dev} (h : d.Canon) (p : Nat) : (d.dmaWriteOut p).2.Canon := by
  unfold Dev.dmaWriteOut
  grind only [Dev.dmaIssue_canon, foldl_snd_canon]

/-! ### Machine/PerchSpan -/

theorem Dev.updEndp_canon {d : Dev} (h : d.Canon) (p e : Nat) (f : Endpoint → Endpoint) : (d.updEndp p e f).Canon :=
  Dev.updPerch_canon h ..

theorem Dev.ringWrite_canon {d : Dev} (h : d.Canon) (p cfg pos : Nat) (v : List PByte) : (d.ringWrite p cfg pos v).Canon :=
  Dev.spadWrite_canon (Dev.spadWrite_canon h ..) ..

theorem Dev.messageArrive_canon {d : Dev} (h : d.Canon) (p e : Nat) : (d.messageArrive p e).Canon :=
  ite_canon h (ite_canon (Dev.ctrInc_canon (Dev.updEndp_canon (Dev.ringWrite_canon h ..) ..) ..) (Dev.updEndp_canon (Dev.ringWrite_canon h ..) ..))

theorem Dev.deliverAll_canon {d : Dev} (h : d.Canon) (p : Nat) : (d.deliverAll p).Canon :=
  foldl_canon (fun _ _ h => foldl_canon (fun _ _ h => Dev.messageArrive_canon h ..) h) h

theorem Dev.returnCredit_canon {d : Dev} (h : d.Canon) (p e units : Nat) : (d.returnCredit p e units).Canon := by
  unfold Dev.returnCredit
  grind only [Dev.updEndp_canon]

theorem Dev.grantCredit_canon {d : Dev} (h : d.Canon) (p : Nat) : (d.grantCredit p).Canon := by
  unfold Dev.grantCredit
  grind only [Dev.updEndp_canon, foldl_canon]

theorem Dev.endpointsEnd_canon {d : Dev} (h : d.Canon) (p : Nat) : (d.endpointsEnd p).Canon :=
  foldl_canon (fun _ _ h => Dev.updEndp_canon (ite_canon (Dev.returnCredit_canon h ..) h) ..) h

theorem Dev.dmaAbort_canon {d : Dev} (h : d.Canon) (p c cause : Nat) : (d.dmaAbort p c cause).Canon := by
  unfold Dev.dmaAbort
  grind only [Dev.updCtx_canon, Dev.updPerch_canon, Dev.canon_iff]

theorem Dev.dmaAbortAll_canon {d : Dev} (h : d.Canon) (p cause : Nat) : (d.dmaAbortAll p cause).Canon :=
  foldl_canon (fun _ _ h => Dev.dmaAbort_canon h ..) h

theorem Dev.setSpan_canon {d : Dev} (h : d.Canon) (id : Nat) (i : SpanInfo) : (d.setSpan id i).Canon := h

theorem Dev.updCont_canon {d : Dev} (h : d.Canon) (id : Nat) (f : Cont → Cont) : (d.updCont id f).Canon := h

theorem Dev.report_canon {d : Dev} (h : d.Canon) (p outcome : Nat) : (d.report p outcome).Canon := by
  unfold Dev.report
  grind only [Dev.setSpan_canon, Dev.updCont_canon, Dev.canon_iff]

theorem Dev.countShed_canon {d : Dev} (h : d.Canon) (p outcome : Nat) : (d.countShed p outcome).Canon := by
  unfold Dev.countShed
  grind only [Dev.inc_canon, Dev.wr_canon, Dev.canon_iff]

theorem Dev.arrayClear_canon {d : Dev} (h : d.Canon) (p : Nat) : (d.arrayClear p).Canon :=
  Dev.updArr_canon h ..

theorem Dev.shed_canon {d : Dev} (h : d.Canon) (p outcome logCause : Nat) : (d.shed p outcome logCause).Canon :=
  Dev.perchIdle_canon (Dev.report_canon (Dev.countShed_canon (Dev.updPerch_canon (Dev.endpointsEnd_canon (Dev.drainStores_canon
    (Dev.dmaAbortAll_canon (Dev.arrayClear_canon h ..) ..) ..) ..) ..) ..) ..) ..

theorem Dev.setFault_canon {d : Dev} (h : d.Canon) (p cause detail ctx addr : Nat) : (d.setFault p cause detail ctx addr).Canon :=
  Dev.updPerch_canon h ..

theorem Dev.perchFault_canon {d : Dev} (h : d.Canon) (p cause detail ctx addr : Nat) : (d.perchFault p cause detail ctx addr).Canon :=
  Dev.shed_canon (Dev.setFault_canon h ..) ..

theorem Dev.engineFault_canon {d : Dev} (h : d.Canon) (p cause ctx addr : Nat) : (d.engineFault p cause ctx addr).Canon :=
  ite_canon (Dev.perchFault_canon h ..) (Dev.dmaAbortAll_canon (Dev.arrayClear_canon (Dev.setFault_canon h ..) ..) ..)

theorem Dev.suspendRemote_canon {d : Dev} (h : d.Canon) (cont p : Nat) : (d.suspendRemote cont p).Canon := h

theorem Dev.resumeRemote_canon {d : Dev} (h : d.Canon) (cont p : Nat) : (d.resumeRemote cont p).Canon := by
  unfold Dev.resumeRemote
  grind only [Dev.updDesc_canon, Dev.updCont_canon, Dev.canon_iff, foldl_canon]

theorem Dev.suspend_canon {d : Dev} (h : d.Canon) (p : Nat) (e : SpanEntry) : (d.suspend p e).Canon := by
  unfold Dev.suspend
  extract_lets d1 d2 trail d3
  have h3 : d3.Canon := Dev.updArr_canon (Dev.arrayDrain_canon p _ (Dev.deliverAll_canon (Dev.drainStores_canon h _) _)) ..
  split
  case h_1 e4 => exact Dev.perchFault_canon (canon_of_eq (Dev.dmaWriteOut_canon h3 _) e4) ..
  case h_2 d4 e4 =>
    have h4 : d4.Canon := canon_of_eq (Dev.dmaWriteOut_canon h3 _) e4
    extract_lets d5 v x image
    have h5 : d5.Canon := foldl_canon (fun _ _ h => Dev.dmaStop_canon h ..) h4
    split
    case h_1 e6 => exact Dev.perchFault_canon (canon_of_eq (Dev.dvaWrite_canon h5 ..) e6) ..
    case h_2 d6 e6 =>
      have h6 : d6.Canon := canon_of_eq (Dev.dvaWrite_canon h5 ..) e6
      exact Dev.perchIdle_canon (Dev.report_canon (Dev.inc_canon (Dev.updCont_canon (Dev.suspendRemote_canon
        (foldl_canon (fun _ _ h => Dev.updCtx_canon h ..) h6) ..) ..) ..) ..) _

theorem Dev.spanOut_canon {d : Dev} (h : d.Canon) (p outcome : Nat) : (d.spanOut p outcome).Canon := by
  unfold Dev.spanOut
  grind only [Dev.inc_canon, Dev.shed_canon, Dev.suspend_canon, Dev.canon_iff]

theorem Dev.spanEnds_canon {d : Dev} (h : d.Canon) (p : Nat) : (d.spanEnds p).Canon := by
  unfold Dev.spanEnds
  grind only [Dev.spanOut_canon, Dev.updPerch_canon, Dev.toTime_canon]

theorem Dev.complete_canon {d : Dev} (h : d.Canon) (p : Nat) : (d.complete p).Canon :=
  Dev.perchIdle_canon (Dev.report_canon (Dev.drainStores_canon h ..) ..) ..

theorem Dev.resume_canon {d : Dev} (h : d.Canon) (p : Nat) (e : SpanEntry) (ordinal : Nat) (src : PerchStart) : (d.resume p e ordinal src).Canon := by
  unfold Dev.resume
  extract_lets x at_ q
  split
  rename_i image bad d1 e1
  have h1 : d1.Canon := canon_of_eq_triple (Dev.dvaRead_canon h ..) e1
  split
  · exact Dev.perchFault_canon h1 ..
  · extract_lets d2
    split
    rename_i ctx bad2 d3 e3
    have h3 : d3.Canon := canon_of_eq_triple (Dev.dvaRead_canon (Dev.spadWrite_canon h1 p 0 image) ..) e3
    split
    · exact Dev.perchFault_canon h3 ..
    · exact Dev.perchFault_canon h3 ..
    · extract_lets d4 d5 code trail d6 a load
      have h6 : d6.Canon := Dev.updArr_canon (Dev.resumeRemote_canon (Dev.updPerch_canon h3 ..) ..) ..
      split
      · exact Dev.grantCredit_canon (Dev.updArr_canon h6 ..) ..
      · exact Dev.perchFault_canon h6 ..
      · exact Dev.perchFault_canon h6 ..

theorem Dev.beginDispatch_canon {d : Dev} (h : d.Canon) (e : SpanEntry) (g : Nat) : (d.beginDispatch e g).Canon :=
  ite_canon h (Dev.setSpan_canon (ite_canon (ite_canon (Dev.updCont_canon (Dev.disown_canon (ite_canon (Dev.updCont_canon h ..) h) ..) ..) (ite_canon
    (Dev.updCont_canon h ..) h)) (Dev.updCont_canon (ite_canon (Dev.updCont_canon (Dev.disown_canon (ite_canon (Dev.updCont_canon h ..) h) ..) ..)
    (ite_canon (Dev.updCont_canon h ..) h)) ..)) ..)

theorem Dev.startSpan_canon {d : Dev} (h : d.Canon) (p : Nat) (e : SpanEntry) (g : Nat) (src : PerchStart) : (d.startSpan p e g src).Canon :=
  ite_canon (Dev.resume_canon (Dev.updPerch_canon (Dev.updPerch_canon (Dev.disown_canon (Dev.updPerch_canon (Dev.setSpan_canon
    (Dev.beginDispatch_canon h ..) ..) ..) ..) ..) ..) ..) (Dev.grantCredit_canon (Dev.updPerch_canon (Dev.disown_canon (Dev.updPerch_canon
    (Dev.setSpan_canon (Dev.beginDispatch_canon h ..) ..) ..) ..) ..) ..)

theorem Dev.writeStatus_canon {d : Dev} (h : d.Canon) (e : SpanEntry) (bytes : List Byte) : (d.writeStatus e bytes).Canon := by
  unfold Dev.writeStatus
  grind only [Dev.dvaWrite_canon, Dev.inc_canon]

theorem Dev.discardCont_canon {d : Dev} (h : d.Canon) (id : Nat) : (d.discardCont id).Canon := by
  unfold Dev.discardCont
  grind only [Dev.updCont_canon, Dev.writeStatus_canon, Dev.canon_iff]

theorem Dev.statusRecord_canon {d : Dev} (h : d.Canon) (span : Nat) : (d.statusRecord span).Canon := by
  unfold Dev.statusRecord
  grind only [Dev.setSpan_canon, Dev.updCont_canon, Dev.writeStatus_canon]

/-! ### Machine/DmaOps -/

theorem Dev.translateSide_canon {d : Dev} (h : d.Canon) (x : Xq) (access : Nat) (rows : List Nat) (n : Nat) :
    (d.translateSide x access rows n).2.Canon := by
  refine foldl_snd_canon (fun r pg hr => ?_) h
  split
  · exact hr
  · rename_i ls d
    extract_lets parts
    split
    · exact hr
    · split
      · exact Dev.mmuFault_canon hr ..
      · split
        case h_1 e => exact canon_of_eq (Dev.leafFor_canon hr ..) e
        case h_2 d1 e =>
          have hl : d1.Canon := canon_of_eq (Dev.leafFor_canon hr ..) e
          split
          · exact hl
          · refine foldl_snd_canon (fun r a hr => ?_) hl
            grind only [Dev.translate_canon]

theorem Dev.dmaHalt_canon {d : Dev} (h : d.Canon) (p c cause addr : Nat) : (d.dmaHalt p c cause addr).Canon :=
  Dev.engineFault_canon (Dev.updCtx_canon h ..) ..

theorem Dev.maint_canon {d : Dev} (h : d.Canon) (p op : Nat) (pieces : List (Nat × Nat)) : (d.maint p op pieces).Canon :=
  ite_canon h (Dev.chainDrop_canon h ..)

theorem Dev.dmaDrain_canon {d : Dev} (h : d.Canon) (p : Nat) : (d.dmaDrain p).Canon := by
  unfold Dev.dmaDrain
  grind only [Dev.dmaIssue_canon, Dev.dmaHalt_canon, foldl_canon]

theorem Dev.dmaPut_canon {d : Dev} (h : d.Canon) (p c ticket : Nat) (force : Bool) (target : Nat) (v : List PByte) :
    (d.dmaPut p c ticket force target v).2.Canon := by
  unfold Dev.dmaPut
  grind only [Dev.remoteLine_canon, Dev.descLost_canon, Dev.writeLocal_canon, Dev.dmaHalt_canon, Dev.updDesc_canon, Dev.dmaGather_canon,
    Dev.dmaIssue_canon]

theorem Dev.dmaFetch_canon {d : Dev} (h : d.Canon) (p c t' pos target n : Nat) (dest : List (Nat × Nat)) :
    (d.dmaFetch p c t' pos target n dest).Canon :=
  Dev.remoteReadOne_canon h ..

theorem Dev.dmaStep_canon {d : Dev} (h : d.Canon) (p c : Nat) (x : DmaDesc) (ls : List Leaf × List Leaf) (ext : Option Ext) (used : Nat) :
    OnSome (fun t => t.2.Canon) (d.dmaStep p c x ls ext used) := by
  unfold Dev.dmaStep
  grind only [Dev.updDesc_canon, Dev.dmaFetch_canon, Dev.poisonBytes_canon, Dev.updPerch_canon, Dev.inc_canon, Dev.readLocal_canon,
    Dev.dmaHalt_canon, Dev.freeBytes_canon, Dev.dmaPut_canon, onSome_some, onSome_none]

theorem Dev.dmaLoop_canon (p c : Nat) (ext : Option Ext) : ∀ (fuel used : Nat) {d : Dev} (_ : d.Canon), (Dev.dmaLoop p c ext fuel used d).Canon
  | 0, _, _, h => h
  | fuel + 1, used, d, h => by
    unfold Dev.dmaLoop
    split
    case h_1 => exact h
    case h_2 u t ht =>
      obtain ⟨x, -, hx⟩ := Option.bind_eq_some_iff.1 ht
      obtain ⟨ls, -, hls⟩ := Option.bind_eq_some_iff.1 hx
      exact Dev.dmaLoop_canon p c ext fuel u (Dev.dmaDrain_canon ((Dev.dmaStep_canon h p c x ls ext used).holds _ hls) p)

theorem Dev.dmaAdvance_canon {d : Dev} (h : d.Canon) (p c : Nat) (ext : Option Ext) : (d.dmaAdvance p c ext).Canon := by
  unfold Dev.dmaAdvance
  grind only [Dev.dmaLoop_canon, Dev.dmaDrain_canon]

theorem Dev.dmaAdmit_canon {d : Dev} (h : d.Canon) (p c : Nat) (z : DmaDesc) : (d.dmaAdmit p c z).Canon := by
  unfold Dev.dmaAdmit
  grind only [Dev.updDesc_canon, Dev.dmaHalt_canon, Dev.translateSide_canon, Dev.maint_canon]

theorem Dev.descriptorStart_canon {d : Dev} (h : d.Canon) (p c : Nat) (ext : Ext) : (d.descriptorStart p c ext).Canon := by
  unfold Dev.descriptorStart
  grind only [Dev.dmaAdvance_canon, Dev.dmaAdmit_canon]

theorem Dev.descriptorComplete_canon {d : Dev} (h : d.Canon) (p c : Nat) : (d.descriptorComplete p c).Canon := by
  unfold Dev.descriptorComplete
  grind only [Dev.updCtx_canon, Dev.updPerch_canon, Dev.ctrInc_canon]

theorem Dev.dmaBoundary_canon {d : Dev} (h : d.Canon) : d.dmaBoundary.Canon :=
  foldl_canon (fun _ _ h => foldl_canon (fun _ _ h => ite_canon (Dev.dmaAdvance_canon h ..) h) h) h

theorem Dev.arrivalIncrement_canon {d : Dev} (h : d.Canon) (p c : Nat) : (d.arrivalIncrement p c).Canon := by
  unfold Dev.arrivalIncrement
  grind only [Dev.updPerch_canon, Dev.ctrInc_canon]

/-! ### Machine/ArrayOps -/

theorem Dev.arrayLoad_canon {d : Dev} (h : d.Canon) (p : Nat) : (d.arrayLoad p).Canon := by
  unfold Dev.arrayLoad
  grind only [Dev.engineFault_canon, Dev.updPerch_canon]

theorem Dev.passStep_canon {d : Dev} (h : d.Canon) (p : Nat) (c : ArrCmd) : (d.passStep p c).2.Canon := by
  unfold Dev.passStep
  grind only [Dev.readEither_canon, Dev.updArr_canon, Dev.passWrite_canon]

theorem Dev.feedRows_canon (p : Nat) : ∀ (fuel n : Nat) (c : ArrCmd) {d : Dev} (_ : d.Canon), (Dev.feedRows p fuel n c d).2.2.Canon
  | 0, _, _, _, h => h
  | fuel + 1, n, c, d, h => by
    have ih := Dev.feedRows_canon p fuel
    unfold Dev.feedRows
    grind only [Dev.passStep_canon]

theorem Dev.passFeed_canon {d : Dev} (h : d.Canon) (p : Nat) (feed : PassFeed) : (d.passFeed p feed).Canon := by
  unfold Dev.passFeed
  grind only [Dev.feedRows_canon, Dev.engineFault_canon, Dev.zeroRows_canon, Dev.updArr_canon]

theorem Dev.arrayPass_canon {d : Dev} (h : d.Canon) (p : Nat) (feed : PassFeed) : (d.arrayPass p feed).Canon :=
  ite_canon (Dev.passFeed_canon h ..) h

theorem Dev.passComplete_canon {d : Dev} (h : d.Canon) (p : Nat) : (d.passComplete p).Canon := by
  unfold Dev.passComplete
  grind only [Dev.passFeed_canon, Dev.finishPass_canon, Dev.engineFault_canon, onOk_ok, onOk_error]

/-! ### Machine/SeqOps -/

theorem Dev.seqTrap_canon {d : Dev} (h : d.Canon) (p cause tval : Nat) : (d.seqTrap p cause tval).Canon :=
  ite_canon (Dev.perchFault_canon (ite_canon (Dev.loadFault_canon h ..) h) ..) (Dev.updPerch_canon (ite_canon (Dev.loadFault_canon h ..) h) ..)

theorem Dev.seqRetire_canon {d : Dev} (h : d.Canon) (p rd x : Nat) : (d.seqRetire p rd x).Canon :=
  Dev.updPerch_canon h ..

theorem Dev.seqStall_canon {d : Dev} (h : d.Canon) (p : Nat) (s : Stall) : (d.seqStall p s).Canon :=
  Dev.updPerch_canon h ..

theorem Dev.xFence_canon {d : Dev} (h : d.Canon) (p scope : Nat) : (d.xFence p scope).Canon :=
  ite_canon (Dev.seqStall_canon (Dev.drainStores_canon h ..) ..) (Dev.seqRetire_canon (ite_canon (Dev.chainDrop_canon (Dev.drainStores_canon
    h ..) ..) (Dev.drainStores_canon h ..)) ..)

theorem Dev.xCwait_canon {d : Dev} (h : d.Canon) (p ctr threshold rd : Nat) : (d.xCwait p ctr threshold rd).Canon :=
  ite_canon (Dev.seqRetire_canon h ..) (Dev.seqStall_canon h ..)

theorem Dev.xCop_canon {d : Dev} (h : d.Canon) (p op ctr operand rd inc : Nat) : (d.xCop p op ctr operand rd inc).Canon :=
  Dev.seqRetire_canon (Dev.updPerch_canon h ..) ..

theorem Dev.xDmaq_canon {d : Dev} (h : d.Canon) (p ctx off rd : Nat) : (d.xDmaq p ctx off rd).Canon :=
  ite_canon (Dev.seqTrap_canon (Dev.drainStores_canon h ..) ..) (ite_canon (Dev.seqTrap_canon (Dev.drainStores_canon h ..) ..) (ite_canon
    (Dev.seqTrap_canon (Dev.drainStores_canon h ..) ..) (ite_canon (Dev.seqTrap_canon (Dev.loadFault_canon (Dev.drainStores_canon h ..) ..) ..)
    (ite_canon (Dev.seqStall_canon (Dev.drainStores_canon h ..) ..) (Dev.seqRetire_canon (Dev.updCtx_canon (Dev.drainStores_canon h ..) ..) ..)))))

theorem Dev.xAbort_canon {d : Dev} (h : d.Canon) (p ctx rd : Nat) : (d.xAbort p ctx rd).Canon :=
  Dev.seqRetire_canon (ite_canon (Dev.dmaAbort_canon h ..) (Dev.updCtx_canon h ..)) ..

theorem Dev.xWaitIdle_canon {d : Dev} (h : d.Canon) (p ctx rd : Nat) : (d.xWaitIdle p ctx rd).Canon :=
  ite_canon (Dev.seqStall_canon h ..) (Dev.seqRetire_canon h ..)

theorem Dev.xDmaStatus_canon {d : Dev} (h : d.Canon) (p ctx rd : Nat) : (d.xDmaStatus p ctx rd).Canon :=
  Dev.seqRetire_canon h ..

theorem Dev.xSend_canon {d : Dev} (h : d.Canon) (p word ep off len rd : Nat) : (d.xSend p word ep off len rd).Canon :=
  ite_canon (Dev.seqTrap_canon h ..) (ite_canon (Dev.seqStall_canon (Dev.drainStores_canon h ..) ..) (Dev.seqRetire_canon (Dev.updEndp_canon
    (Dev.drainStores_canon h ..) ..) ..))

theorem Dev.xAck_canon {d : Dev} (h : d.Canon) (p word ep count : Nat) : (d.xAck p word ep count).Canon :=
  ite_canon (Dev.seqTrap_canon h ..) (ite_canon (Dev.perchFault_canon h ..) (Dev.seqRetire_canon (Dev.returnCredit_canon (Dev.updEndp_canon
    h ..) ..) ..))

theorem Dev.xSchStatus_canon {d : Dev} (h : d.Canon) (p word ep rd : Nat) : (d.xSchStatus p word ep rd).Canon :=
  ite_canon (Dev.seqTrap_canon h ..) (Dev.seqRetire_canon h ..)

theorem Dev.applyIssue_canon {d : Dev} (h : d.Canon) (p word rd : Nat) (res : IssueRes) : (d.applyIssue p word rd res).Canon := by
  unfold Dev.applyIssue
  grind only [Dev.seqTrap_canon, Dev.seqStall_canon, Dev.seqRetire_canon, Dev.updPerch_canon]

theorem Dev.xMld_canon {d : Dev} (h : d.Canon) (p fmt : Nat) (ws : Bool) (rs1 rs2 : Nat) : (d.xMld p fmt ws rs1 rs2).Canon :=
  Dev.applyIssue_canon (Dev.drainStores_canon h ..) ..

theorem Dev.issuedPass_canon {d : Dev} (h : d.Canon) (p rd x : Nat) : (d.issuedPass p rd x).Canon := by
  unfold Dev.issuedPass
  grind only [Dev.seqRetire_canon, Dev.perchFault_canon, Dev.updArr_canon]

theorem Dev.xMxm_canon {d : Dev} (h : d.Canon) (p fmt : Nat) (acc zf sc : Bool) (rs1 rs2 rd : Nat) : (d.xMxm p fmt acc zf sc rs1 rs2 rd).Canon := by
  unfold Dev.xMxm
  grind only [Dev.drainStores_canon, Dev.issuedPass_canon, Dev.updPerch_canon, Dev.applyIssue_canon]

theorem Dev.xMwait_canon {d : Dev} (h : d.Canon) (p : Nat) (loads : Bool) (rd : Nat) : (d.xMwait p loads rd).Canon :=
  ite_canon (Dev.seqStall_canon h ..) (Dev.seqRetire_canon h ..)

theorem Dev.xVx_canon {d : Dev} (h : d.Canon) (p kind : Nat) (f : VxFields) : (d.xVx p kind f).Canon := by
  unfold Dev.xVx
  grind only [Dev.seqTrap_canon, Dev.seqRetire_canon, Dev.updPerch_canon]

theorem Dev.xExec_canon {d : Dev} (h : d.Canon) (p : Nat) (o : XOp) : (d.xExec p o).Canon := by
  unfold Dev.xExec
  grind only [Dev.complete_canon, Dev.xFence_canon, Dev.xCwait_canon, Dev.xCop_canon, Dev.xDmaq_canon, Dev.xDmaStatus_canon, Dev.xAbort_canon,
    Dev.xWaitIdle_canon, Dev.xSend_canon, Dev.xAck_canon, Dev.xSchStatus_canon, Dev.xMld_canon, Dev.xMxm_canon, Dev.xMwait_canon, Dev.xVx_canon]

theorem Dev.icInstall_canon {d : Dev} (h : d.Canon) (p line : Nat) (b : List PByte) : (d.icInstall p line b).Canon := by
  unfold Dev.icInstall
  grind only [Dev.updPerch_canon, Dev.free_canon]

theorem Dev.icLine_canon {d : Dev} (h : d.Canon) (p o : Nat) : (d.icLine p o).2.Canon := by
  unfold Dev.icLine
  grind only [Dev.imageRead_canon, Dev.icInstall_canon]

theorem Dev.fetchHalf_canon {d : Dev} (h : d.Canon) (p o : Nat) : (d.fetchHalf p o).2.Canon := by
  unfold Dev.fetchHalf
  grind only [Dev.icLine_canon]

theorem Dev.seqFetch_canon {d : Dev} (h : d.Canon) (p : Nat) : (d.seqFetch p).2.Canon := by
  unfold Dev.seqFetch
  grind only [Dev.fetchHalf_canon]

theorem Dev.seqRv_canon {d : Dev} (h : d.Canon) (p word len : Nat) (i : RvInst) : (d.seqRv p word len i).Canon := by
  have hr := RvBus.exec_keeps (perchBus_keeps p) h word len i
  unfold Dev.seqRv
  grind only [onSome_some, RvRes.Sat, Dev.updPerch_canon, Dev.seqTrap_canon, Dev.drainStores_canon, Dev.xExec_canon]

theorem Dev.seqOne_canon {d : Dev} (h : d.Canon) (p : Nat) : (d.seqOne p).Canon := by
  unfold Dev.seqOne
  grind only [Dev.seqFetch_canon, Dev.seqTrap_canon, Dev.perchFault_canon, Dev.seqRv_canon]

theorem Dev.seqRetry_canon {d : Dev} (h : d.Canon) (p : Nat) : (d.seqRetry p).Canon := by
  unfold Dev.seqRetry
  grind only [Dev.xCwait_canon, Dev.xDmaq_canon, Dev.xWaitIdle_canon, Dev.xSend_canon, Dev.xExec_canon, Dev.xMwait_canon, Dev.xFence_canon]

theorem Dev.seqStep_canon {d : Dev} (h : d.Canon) (p : Nat) : (d.seqStep p).Canon :=
  ite_canon h (ite_canon (Dev.seqOne_canon h ..) (Dev.seqRetry_canon h ..))

theorem Dev.perchOff_canon {d : Dev} (h : d.Canon) (p : Nat) : (d.perchOff p).Canon :=
  ite_canon (Dev.updPerch_canon (Dev.clearSpad_canon h ..) ..) h

theorem Dev.perchGate_canon {d : Dev} (h : d.Canon) (p : Nat) : (d.perchGate p).Canon :=
  ite_canon (Dev.perchOff_canon h ..) (ite_canon (Dev.updPerch_canon h ..) h)

theorem Dev.perchWake_canon {d : Dev} (h : d.Canon) (p : Nat) : (d.perchWake p).Canon :=
  ite_canon h (ite_canon (Dev.updPerch_canon (Dev.clearSpad_canon h ..) ..) (ite_canon (Dev.updPerch_canon h ..) h))

theorem Dev.channelMove_canon {d : Dev} (h : d.Canon) (p e : Nat) (whole : Bool) : (d.channelMove p e whole).Canon := by
  unfold Dev.channelMove
  grind only [Dev.updEndp_canon, Dev.ctrInc_canon]

theorem Dev.sourceRelease_canon {d : Dev} (h : d.Canon) (p e : Nat) : (d.sourceRelease p e).Canon :=
  Dev.channelMove_canon h ..

theorem Dev.messageArrival_canon {d : Dev} (h : d.Canon) (p e : Nat) : (d.messageArrival p e).Canon :=
  ite_canon (Dev.messageArrive_canon h ..) h

theorem Dev.creditArrival_canon {d : Dev} (h : d.Canon) (p e : Nat) : (d.creditArrival p e).Canon :=
  ite_canon h (Dev.channelMove_canon (Dev.updEndp_canon h ..) ..)

/-! ### Machine/SpanCmds -/

theorem Dev.skipSpan_canon {d : Dev} (h : d.Canon) (e : SpanEntry) (g : Nat) : (d.skipSpan e g).Canon :=
  ite_canon h (Dev.setSpan_canon h ..)

theorem Dev.spanStart_canon {d : Dev} (h : d.Canon) (span : Nat) (src : PerchStart) : (d.spanStart span src).Canon := by
  unfold Dev.spanStart
  grind only [Dev.skipSpan_canon, Dev.toTime_canon, Dev.startSpan_canon, Dev.canon_iff]

theorem Dev.countLate_canon {d : Dev} (h : d.Canon) (p : Nat) : (d.countLate p).Canon := by
  unfold Dev.countLate
  grind only [Dev.inc_canon, Dev.canon_iff]

theorem Dev.perchFound_canon {d : Dev} (h : d.Canon) (p : Nat) (ecc : Ecc) : (d.perchFound p ecc).Canon :=
  ite_canon (Dev.found_canon h ..) h

/-! ### Machine/XperchCmds -/

theorem Dev.issueX_canon {d : Dev} (h : d.Canon) (p : Nat) (o : XOp) : (d.issueX p o).Canon :=
  ite_canon (Dev.xExec_canon h ..) h

theorem Dev.issueCop_canon {d : Dev} (h : d.Canon) (p op ctr rs1 rd inc : Nat) : (d.issueCop p op ctr rs1 rd inc).Canon :=
  ite_canon (Dev.xCop_canon h ..) h

/-! ### Machine/ArrayCmds -/

theorem Dev.keeperStep_canon {d : Dev} (h : d.Canon) (p : Nat) (f : Arr → Arr) : (d.keeperStep p f).Canon :=
  ite_canon (Dev.updPerch_canon h ..) h

/-! ### Machine/StewCache -/

theorem Dev.stewLeave_canon {d : Dev} (h : d.Canon) (die line : Nat) : (d.stewLeave die line).Canon := by
  unfold Dev.stewLeave
  grind only [Dev.settle_canon, Dev.stewBack_canon, Dev.canon_iff]

theorem Dev.stewFill_canon {d : Dev} (h : d.Canon) (die line part : Nat) : (d.stewFill die line part).Canon := by
  unfold Dev.stewFill
  grind only [Dev.setSysc_canon, Dev.stewLeave_canon]

theorem Dev.coreLeave_canon {d : Dev} (h : d.Canon) (hart line : Nat) : (d.coreLeave hart line).Canon :=
  Dev.stewLeave_canon (ite_canon (Dev.stewFill_canon (Dev.coreDrop_canon h ..) ..) (Dev.coreDrop_canon h ..)) ..

theorem Dev.coreOff_canon {d : Dev} (h : d.Canon) (hart : Nat) : (d.coreOff hart).Canon :=
  foldl_canon (fun _ _ h => ite_canon (Dev.coreLeave_canon h ..) h) h

theorem Dev.coreFill_canon {d : Dev} (h : d.Canon) (hart kind line : Nat) : (d.coreFill hart kind line).Canon := by
  unfold Dev.coreFill
  grind only [Dev.setCore_canon, Dev.coreLeave_canon]

theorem Dev.coreTouch_canon {d : Dev} (h : d.Canon) (hart kind line part : Nat) : (d.coreTouch hart kind line part).Canon := by
  unfold Dev.coreTouch
  grind only [Dev.setCore_canon, Dev.setSysc_canon, Dev.stewFill_canon, Dev.coreFill_canon]

theorem Dev.dirRoom_canon {d : Dev} (h : d.Canon) (line : Nat) : (d.dirRoom line).Canon := by
  unfold Dev.dirRoom
  grind only [Dev.settle_canon, Dev.recallDrop_canon]

theorem Dev.stewFetch_canon {d : Dev} (h : d.Canon) (hart kind : Nat) (q : Rq) (line : Nat) : (d.stewFetch hart kind q line).2.Canon := by
  unfold Dev.stewFetch
  grind only [Dev.coreTouch_canon, Dev.homeReadSeg_canon, Dev.dirRoom_canon, Dev.canon_iff]

theorem Dev.clearResvOf_canon {d : Dev} (h : d.Canon) (hart line : Nat) : (d.clearResvOf hart line).Canon := h

theorem Dev.stewOwn_canon {d : Dev} (h : d.Canon) (hart : Nat) (q : Rq) (line : Nat) : (d.stewOwn hart q line).2.Canon := by
  unfold Dev.stewOwn
  grind only [Dev.stewFetch_canon, Dev.coreDrop_canon, Dev.stewDrop_canon]

theorem Dev.stewStore_canon {d : Dev} (h : d.Canon) (hart : Nat) (q : Rq) (line off : Nat) (v : List PByte) :
    (d.stewStore hart q line off v).Canon := by
  unfold Dev.stewStore
  grind only [Dev.stewOwn_canon, Dev.clearResvOf_canon, Dev.canon_iff]

/-! ### Machine/HomeCmds -/

theorem Dev.homeServe_canon {d : Dev} (h : d.Canon) (r : HomeReq) (op : HeldOp) : (d.homeServe r op).Canon := by
  unfold Dev.homeServe
  grind only [Dev.writePa_canon, Dev.readPa_canon, Dev.emit_canon, Dev.homeAmo_canon]

theorem Dev.homeRequest_canon {d : Dev} (h : d.Canon) (r : HomeReq) (op : HeldOp) : (d.homeRequest r op).Canon := by
  unfold Dev.homeRequest
  grind only [Dev.accErr_canon, Dev.emit_canon, Dev.homeServe_canon, Dev.canon_iff]

theorem Dev.releaseHomes_canon {d : Dev} (h : d.Canon) (p : Held → Bool) : (d.releaseHomes p).Canon :=
  foldl_canon (fun _ _ h => Dev.homeRequest_canon h ..) h

theorem Dev.syscDropWay_canon {d : Dev} (h : d.Canon) (die way : Nat) : (d.syscDropWay die way).Canon := by
  unfold Dev.syscDropWay
  grind only [Dev.wcbPut_canon, Dev.setSysc_canon, foldl_canon]

theorem Dev.stewDropWay_canon {d : Dev} (h : d.Canon) (die way : Nat) : (d.stewDropWay die way).Canon :=
  foldl_canon (fun _ _ h => Dev.stewLeave_canon h ..) (Dev.setSysc_canon (Dev.setSysc_canon h ..) ..)

theorem Dev.markWay_canon {d : Dev} (h : d.Canon) (die : Nat) (mask count : Fld) (way : Nat) : (d.markWay die mask count way).Canon := by
  unfold Dev.markWay
  grind only [Dev.raiseErr_canon, Dev.wr_canon, Dev.canon_iff]

/-! ### Machine/Irq -/

theorem Dev.setIdentity_canon {d : Dev} (h : d.Canon) (hart : Nat) (supervisor : Bool) (identity : Nat) :
    (d.setIdentity hart supervisor identity).Canon :=
  ite_canon h (Dev.updHart_canon h ..)

theorem Dev.aplic_canon {d : Dev} (h : d.Canon) (die source : Nat) : (d.aplic die source).Canon := by
  unfold Dev.aplic
  grind only [Dev.setIdentity_canon, foldl_canon]

/-! ### Machine/Events -/

theorem Dev.updHif_canon {d : Dev} (h : d.Canon) (f : Hif → Hif) : (d.updHif f).Canon := h

theorem Dev.sendVector_canon {d : Dev} (h : d.Canon) (v : Nat) : (d.sendVector v).Canon :=
  ite_canon h (ite_canon (Dev.updHif_canon h ..) (Dev.emit_canon h ..))

theorem Dev.raiseEvent_canon {d : Dev} (h : d.Canon) (v : Nat) : (d.raiseEvent v).Canon := by
  unfold Dev.raiseEvent
  grind only [Dev.sendVector_canon, Dev.wr_canon, Dev.canon_iff]

/-! ### Machine/RegRead -/

theorem Dev.ctlError_canon {d : Dev} (h : d.Canon) (r : Requester) (die off kind : Nat) : (d.ctlError r die off kind).Canon :=
  Dev.accErr_canon h ..

theorem Dev.ctlRefuse_canon {d : Dev} (h : d.Canon) (r : Requester) (die off kind : Nat) : (d.ctlRefuse r die off kind).Canon :=
  Dev.accErr_canon h ..

theorem Dev.ctlRead_canon {d : Dev} (h : d.Canon) (r : Requester) (die off size : Nat) : (d.ctlRead r die off size).2.Canon := by
  unfold Dev.ctlRead
  grind only [Dev.free_canon, Dev.ctlRefuse_canon, Dev.ctlError_canon]

theorem Dev.viewAsk_canon {d : Dev} (h : d.Canon) (r : Requester) (die off : Nat) : (d.viewAsk r die off).2.Canon := by
  unfold Dev.viewAsk
  grind only [Dev.ctlRefuse_canon, Dev.ctlError_canon]

/-! ### Machine/MoverOps -/

theorem Dev.putPieces_canon {d : Dev} (h : d.Canon) (agent : Agent) (q : Rq) (run : CopyRun) (ds : List (Nat × Nat)) (v : List PByte) :
    (d.putPieces agent q run ds v).2.Canon := by
  unfold Dev.putPieces
  grind only [Dev.writeTarget_canon, foldl_snd_snd_canon]

theorem Dev.copyPiece_canon {d : Dev} (h : d.Canon) (agent : Agent) (q : Rq) (run : CopyRun) (src : Nat × Nat) (mine : List (Nat × Nat)) :
    (d.copyPiece agent q run src mine).2.Canon := by
  unfold Dev.copyPiece
  grind only [Dev.remoteReadOne_canon, Dev.dropRead_canon, Dev.putPieces_canon, Dev.readLocal_canon, foldl_snd_canon]

theorem Dev.copyPieces_canon {d : Dev} (h : d.Canon) (agent : Agent) (q : Rq) (run : CopyRun) (src dst : List (Nat × Nat)) :
    (d.copyPieces agent q run src dst).2.Canon := by
  unfold Dev.copyPieces
  grind only [Dev.copyPiece_canon, foldl_snd_snd_canon]

theorem Dev.readTargets_canon {d : Dev} (h : d.Canon) (q : Rq) (ps : List (Nat × Nat)) : (d.readTargets q ps).2.2.Canon := by
  unfold Dev.readTargets
  grind only [Dev.readLocal_canon, foldl_snd_snd_canon]

theorem Dev.setMove_canon {d : Dev} (h : d.Canon) (die entry : Nat) (m : MoveRun) : (d.setMove die entry m).Canon := h

theorem Dev.moveStart_canon {d : Dev} (h : d.Canon) (die entry kind : Nat) : OnSome (fun t => t.2.2.Canon) (d.moveStart die entry kind) := by
  unfold Dev.moveStart
  grind only [Dev.setMove_canon, Dev.toTime_canon, onSome_some, onSome_none]

theorem Dev.movePiece_canon {d : Dev} (h : d.Canon) (x : Xq) (agent : Agent) (noAlloc : Bool) (run : CopyRun) (src : Option Nat) (dst n : Nat) :
    (d.movePiece x agent noAlloc run src dst n).2.Canon := by
  unfold Dev.movePiece
  grind only [Dev.translateRange_canon, Dev.copyPieces_canon, Dev.putPieces_canon]

theorem Dev.moveWhole_canon {d : Dev} (h : d.Canon) (die entry : Nat) (e : MoveEntry) (m : MoveRun) (ext : Ext) (src : Option Nat) :
    (d.moveWhole die entry e m ext src).Canon := by
  unfold Dev.moveWhole
  extract_lets x
  split
  rename_i run d1 e1
  refine Dev.setMove_canon (canon_of_eq (foldl_snd_canon (fun r p hr => ?_) h) e1) ..
  split
  · exact hr
  · exact Dev.movePiece_canon hr ..

theorem Dev.moverRead_canon {d : Dev} (h : d.Canon) (x : Xq) (dva n : Nat) : (d.moverRead x dva n).2.Canon := by
  unfold Dev.moverRead
  grind only [Dev.translateRange_canon, Dev.readTargets_canon]

theorem Dev.moverWrite_canon {d : Dev} (h : d.Canon) (x : Xq) (agent : Agent) (dva : Nat) (v : List Byte) : (d.moverWrite x agent dva v).2.Canon := by
  unfold Dev.moverWrite
  grind only [Dev.translateRange_canon, Dev.putPieces_canon]

theorem Dev.kvCopy_canon {d : Dev} (h : d.Canon) (x : Xq) (agent : Agent) (noAlloc : Bool) (src dst : Nat) :
    (d.kvCopy x agent noAlloc src dst).2.Canon := by
  unfold Dev.kvCopy
  grind only [Dev.movePiece_canon]

theorem Dev.kvStaged_canon {d : Dev} (h : d.Canon) (x : Xq) (agent : Agent) (entry : Nat) (v : Bool) : (d.kvStaged x agent entry v).2.Canon := by
  unfold Dev.kvStaged
  grind only [Dev.moverRead_canon, Dev.moverWrite_canon]

theorem Dev.kvInPage_canon {d : Dev} (h : d.Canon) (x : Xq) (agent : Agent) (noAlloc : Bool) (table : Nat) (head : List Byte) (run : KvRun)
    (k : Nat) :
    (d.kvInPage x agent noAlloc table head run k).2.Canon := by
  unfold Dev.kvInPage
  extract_lets tail recent stage n e fail
  split
  · exact h
  · split
    · exact h
    · split
      case h_1 e1 => exact canon_of_eq (Dev.moverRead_canon h ..) e1
      case h_2 ent d1 e1 =>
        have h1 : d1.Canon := canon_of_eq (Dev.moverRead_canon h ..) e1
        grind only [Dev.moverRead_canon, Dev.kvCopy_canon, Dev.kvStaged_canon, Dev.moverWrite_canon]

theorem Dev.kvOutPage_canon {d : Dev} (h : d.Canon) (x : Xq) (agent : Agent) (noAlloc : Bool) (table amount : Nat) (head : List Byte) (run : KvRun)
    (n : Nat) :
    (d.kvOutPage x agent noAlloc table amount head run n).2.Canon := by
  unfold Dev.kvOutPage
  extract_lets recent stage e fail
  split
  · exact h
  · split
    case h_1 e1 => exact canon_of_eq (Dev.moverRead_canon h ..) e1
    case h_2 ent d1 e1 =>
      have h1 : d1.Canon := canon_of_eq (Dev.moverRead_canon h ..) e1
      grind only [Dev.kvCopy_canon, Dev.moverWrite_canon]

theorem Dev.kvRun_canon {d : Dev} (h : d.Canon) (die entry : Nat) (e : MoveEntry) (m : MoveRun) (out : Bool) : (d.kvRun die entry e m out).Canon := by
  unfold Dev.kvRun
  grind only [Dev.setMove_canon, Dev.moverRead_canon, Dev.kvOutPage_canon, Dev.kvInPage_canon, foldl_snd_canon]

theorem Dev.moveEnd_canon {d : Dev} (h : d.Canon) (die entry : Nat) (e : MoveEntry) (m : MoveRun) (status : Nat) :
    (d.moveEnd die entry e m status).Canon := by
  unfold Dev.moveEnd
  grind only [Dev.setMove_canon, Dev.dvaWrite_canon, Dev.inc_canon]

theorem Dev.moveBegin_canon {d : Dev} (h : d.Canon) (die entry kind : Nat) {f : MoveEntry → MoveRun → Dev → Dev}
    (hf : ∀ e m d, d.Canon → (f e m d).Canon) : (d.moveBegin die entry kind f).Canon := by
  unfold Dev.moveBegin
  grind only [Dev.moveStart_canon, onSome_some, Dev.moveEnd_canon]

theorem Dev.moveFail_canon {d : Dev} (h : d.Canon) (die entry code : Nat) : (d.moveFail die entry code).Canon :=
  ite_canon (Dev.setMove_canon h ..) h

theorem Dev.moveUncount_canon {d : Dev} (h : d.Canon) (die entry n : Nat) : (d.moveUncount die entry n).Canon := by
  unfold Dev.moveUncount
  grind only [Dev.setMove_canon]

theorem Dev.moverDetach_canon {d : Dev} (h : d.Canon) (die entry : Nat) : (d.moverDetach die entry).Canon := by
  unfold Dev.moverDetach
  grind only [Dev.moveUncount_canon, Dev.canon_iff]

theorem Dev.setNvPort_canon {d : Dev} (h : d.Canon) (port : Nat) (v : NvmePort) : (d.setNvPort port v).Canon := h

theorem Dev.orphanCmds_canon {d : Dev} (h : d.Canon) (die entry port : Nat) : (d.orphanCmds die entry port).Canon :=
  Dev.inc_canon (Dev.setNvPort_canon h ..) ..

theorem Dev.moveCut_canon {d : Dev} (h : d.Canon) (die entry : Nat) (e : MoveEntry) (status : Nat) : (d.moveCut die entry e status).Canon :=
  Dev.moveEnd_canon (Dev.orphanCmds_canon (Dev.moverDetach_canon h ..) ..) ..

/-! ### Machine/HifOps -/

theorem Dev.updHq_canon {d : Dev} (h : d.Canon) (q : Nat) (f : HQueue → HQueue) : (d.updHq q f).Canon :=
  Dev.updHif_canon h ..

theorem Dev.hifFetch_canon (q : Nat) : ∀ (fuel : Nat) (slots : List (List Byte)) {d : Dev} (_ : d.Canon), (Dev.hifFetch q fuel slots d).1.Canon
  | 0, _, _, h => h
  | fuel + 1, slots, d, h => by
    unfold Dev.hifFetch
    extract_lets v
    split
    · exact h
    · split
      · exact h
      · split
        · exact h
        · split
          · exact h
          · exact Dev.hifFetch_canon q fuel _ (Dev.updHq_canon h ..)

theorem Dev.hifDone_canon {d : Dev} (h : d.Canon) (q : Nat) (c : HCmd) (status done result : Nat) : (d.hifDone q c status done result).Canon :=
  Dev.updHq_canon h ..

theorem Dev.hifDetach_canon {d : Dev} (h : d.Canon) (q : Nat) : (d.hifDetach q).Canon := h

theorem Dev.hifFlush_canon (q : Nat) : ∀ (fuel : Nat) {d : Dev} (_ : d.Canon), (Dev.hifFlush q fuel d).Canon
  | 0, _, h => h
  | fuel + 1, d, h => by
    have ih := @Dev.hifFlush_canon q fuel
    unfold Dev.hifFlush
    grind only [Dev.hifDone_canon, Dev.hifDetach_canon]

theorem Dev.hifSettle_canon {d : Dev} (h : d.Canon) (q : Nat) : (d.hifSettle q).Canon := by
  unfold Dev.hifSettle
  grind only [Dev.hifFlush_canon]

theorem Dev.hifRead_canon {d : Dev} (h : d.Canon) (q : Nat) (slots : List (List Byte)) : (d.hifRead q slots).Canon := by
  unfold Dev.hifRead
  grind only [Dev.hifFetch_canon, Dev.updHq_canon, Dev.hifSettle_canon]

theorem Dev.hifBell_canon {d : Dev} (h : d.Canon) (q seq crc : Nat) : (d.hifBell q seq crc).Canon :=
  ite_canon h (ite_canon h (ite_canon (Dev.updHq_canon h ..) (Dev.updHq_canon h ..)))

theorem Dev.updHead_canon {d : Dev} (h : d.Canon) (q : Nat) (f : HCmd → HCmd) : (d.updHead q f).Canon :=
  Dev.updHq_canon h ..

theorem Dev.hifFinish_canon {d : Dev} (h : d.Canon) (q : Nat) : (d.hifFinish q).Canon := by
  unfold Dev.hifFinish
  grind only [Dev.hifSettle_canon, Dev.hifDone_canon]

theorem Dev.hifMove_canon {d : Dev} (h : d.Canon) (q : Nat) (c : HCmd) (src : Option Nat) (inline : List Byte) (ext : Ext) :
    (d.hifMove q c src inline ext).Canon := by
  unfold Dev.hifMove
  grind only [Dev.translateRange_canon, Dev.hifSettle_canon, Dev.hifDone_canon, Dev.copyPieces_canon, Dev.putPieces_canon, Dev.passNs_canon,
    Dev.hifFinish_canon, Dev.updHead_canon]

theorem Dev.hifAtomic_canon {d : Dev} (h : d.Canon) (q : Nat) (c : HCmd) : (d.hifAtomic q c).Canon := by
  unfold Dev.hifAtomic
  grind only [Dev.translate_canon, Dev.hifSettle_canon, Dev.hifDone_canon, Dev.accErr_canon, Dev.updHead_canon, Dev.homeAmo_canon, Dev.takeTag_canon,
    Dev.issueRemote_canon, Dev.free_canon, Dev.inc_canon]

theorem Dev.hifExec_canon {d : Dev} (h : d.Canon) (q : Nat) (ext : Ext) : (d.hifExec q ext).Canon := by
  unfold Dev.hifExec
  grind only [Dev.updHif_canon, Dev.hifSettle_canon, Dev.hifDone_canon, Dev.hifAtomic_canon, Dev.hifMove_canon]

theorem Dev.runHandover_canon {d : Dev} (h : d.Canon) (g : Nat) : (d.runHandover g).Canon := by
  unfold Dev.runHandover
  grind only [Dev.updHif_canon, Dev.translateRange_canon, Dev.hifSettle_canon, Dev.hifDone_canon, Dev.putPieces_canon, Dev.updHead_canon,
    Dev.canon_iff]

theorem Dev.runEnd_canon {d : Dev} (h : d.Canon) (q : Nat) (ext : Ext) : (d.runEnd q ext).Canon := by
  unfold Dev.runEnd
  grind only [Dev.hifSettle_canon, Dev.hifDone_canon, Dev.translateRange_canon, Dev.dvaRead_canon, Dev.canon_iff]

theorem Dev.hifVector_canon {d : Dev} (h : d.Canon) (q : Nat) : (d.hifVector q).Canon :=
  ite_canon (Dev.updHq_canon h ..) (Dev.sendVector_canon (Dev.updHq_canon h ..) ..)

theorem Dev.hifComplete_canon {d : Dev} (h : d.Canon) (q : Nat) : (d.hifComplete q).Canon := by
  unfold Dev.hifComplete
  grind only [Dev.emit_canon, Dev.updHq_canon, Dev.hifVector_canon]

theorem Dev.hifEnable_canon {d : Dev} (h : d.Canon) (q : Nat) : (d.hifEnable q).Canon :=
  ite_canon h (ite_canon (Dev.updHq_canon h ..) (Dev.updHq_canon h ..))

theorem Dev.hifDisable_canon {d : Dev} (h : d.Canon) (q : Nat) : (d.hifDisable q).Canon :=
  ite_canon h (ite_canon (Dev.updHq_canon h ..) (Dev.updHq_canon h ..))

theorem Dev.hifResume_canon {d : Dev} (h : d.Canon) (q : Nat) : (d.hifResume q).Canon :=
  ite_canon h (ite_canon (Dev.updHq_canon h ..) (Dev.updHq_canon h ..))

theorem Dev.hifCqHead_canon {d : Dev} (h : d.Canon) (q head : Nat) : (d.hifCqHead q head).Canon :=
  ite_canon h (ite_canon (Dev.updHq_canon h ..) (Dev.updHq_canon h ..))

theorem Dev.hifAbortRun_canon {d : Dev} (h : d.Canon) (q : Nat) : (d.hifAbortRun q).Canon := by
  unfold Dev.hifAbortRun
  grind only [Dev.setSpan_canon, Dev.shed_canon, Dev.discardCont_canon, Dev.canon_iff, foldl_canon]

theorem Dev.hifAbort_canon {d : Dev} (h : d.Canon) (q : Nat) : (d.hifAbort q).Canon :=
  ite_canon h (ite_canon (Dev.updHq_canon (foldl_canon (fun _ _ h => Dev.hifDone_canon h ..) (Dev.hifDetach_canon (ite_canon (Dev.hifAbortRun_canon
    (Dev.updHq_canon h ..) ..) (Dev.updHq_canon h ..)) ..)) ..) (foldl_canon (fun _ _ h => Dev.hifDone_canon h ..) (Dev.hifDetach_canon (ite_canon
    (Dev.hifAbortRun_canon (Dev.updHq_canon h ..) ..) (Dev.updHq_canon h ..)) ..)))

theorem Dev.hifAbortDone_canon {d : Dev} (h : d.Canon) (q : Nat) : (d.hifAbortDone q).Canon :=
  ite_canon (Dev.updHq_canon h ..) h

theorem Dev.hostLost_canon {d : Dev} (h : d.Canon) : d.hostLost.Canon :=
  foldl_canon (fun _ _ h => ite_canon (Dev.hifSettle_canon (Dev.updHq_canon h ..) ..) h) (Dev.wr_canon h ..)

/-! ### Machine/Remote -/

theorem Dev.hartLost_canon {d : Dev} (h : d.Canon) (hart addr : Nat) : (d.hartLost hart addr).Canon :=
  ite_canon (Dev.updHart_canon h ..) (Dev.wr_canon (Dev.wr_canon (Dev.wr_canon (Dev.updHart_canon h ..) ..) ..) ..)

theorem Dev.settleWrite_canon {d : Dev} (h : d.Canon) (o : RemoteOp) (lost : Bool) : (d.settleWrite o lost).Canon := by
  unfold Dev.settleWrite
  grind only [Dev.descLost_canon, Dev.updDesc_canon, Dev.updCont_canon, Dev.updHart_canon, Dev.hartLost_canon, Dev.moveUncount_canon,
    Dev.updHead_canon, Dev.hifFinish_canon, Dev.collWritten_canon]

theorem Dev.writeEnds_canon {d : Dev} (h : d.Canon) (o : RemoteOp) (lost : Bool) : (d.writeEnds o lost).Canon := by
  unfold Dev.writeEnds
  grind only [Dev.raiseErr_canon, Dev.inc_canon, Dev.releaseHeld_canon, Dev.settleWrite_canon, Dev.canon_iff]

theorem Dev.landRead_canon {d : Dev} (h : d.Canon) (o : RemoteOp) (q : Rq) (chain : Option (Nat × Nat)) (v : List PByte) :
    (d.landRead o q chain v).2.Canon := by
  unfold Dev.landRead
  grind only [Dev.writeTarget_canon, foldl_snd_snd_canon]

theorem Dev.landDma_canon {d : Dev} (h : d.Canon) (o : RemoteOp) (p c ticket : Nat) (v : List PByte) : (d.landDma o p c ticket v).Canon := by
  unfold Dev.landDma
  grind only [Dev.dmaAdvance_canon, Dev.dmaPut_canon, foldl_snd_canon]

theorem Dev.settleRead_canon {d : Dev} (h : d.Canon) (o : RemoteOp) (v : List PByte) : (d.settleRead o v).Canon := by
  unfold Dev.settleRead
  grind only [Dev.landDma_canon, Dev.updPerch_canon, Dev.updHart_canon, Dev.hartTrap_canon, Dev.accErr_canon, Dev.landRead_canon,
    Dev.moveUncount_canon, Dev.emit_canon, Dev.updHead_canon, Dev.hifFinish_canon, Dev.collArrive_canon]

theorem Dev.readEnds_canon {d : Dev} (h : d.Canon) (o : RemoteOp) (v : List PByte) : (d.readEnds o v).Canon := by
  unfold Dev.readEnds
  grind only [Dev.inc_canon, Dev.releaseHeld_canon, Dev.settleRead_canon, Dev.canon_iff]

theorem Dev.opLost_canon {d : Dev} (h : d.Canon) (o : RemoteOp) : (d.opLost o).Canon := by
  unfold Dev.opLost
  grind only [Dev.poisonBytes_canon, Dev.readEnds_canon, Dev.writeEnds_canon]

theorem Dev.loseOps_canon {d : Dev} (h : d.Canon) (p : RemoteOp → Bool) : (d.loseOps p).Canon :=
  foldl_canon (fun _ _ h => ite_canon (Dev.opLost_canon h ..) h) h

theorem Dev.setPlanes_canon {d : Dev} (h : d.Canon) (id e : Nat) : (d.setPlanes id e).Canon := by
  unfold Dev.setPlanes
  grind only [Dev.wr_canon, Dev.releaseHeld_canon, Dev.loseOps_canon, Dev.canon_iff]

/-! ### Machine/LinkOps -/

theorem Dev.portWr_canon {d : Dev} (h : d.Canon) (plane : Nat) (f : Fld) (v : Nat) : (d.portWr plane f v).Canon :=
  Dev.wr_canon h ..

theorem Dev.portUp_canon {d : Dev} (h : d.Canon) (plane : Nat) : (d.portUp plane).Canon :=
  foldl_canon (fun _ _ h => Dev.setPlanes_canon h ..) (Dev.portWr_canon h ..)

theorem Dev.portGone_canon {d : Dev} (h : d.Canon) (plane : Nat) : (d.portGone plane).Canon :=
  foldl_canon (fun _ _ h => Dev.setPlanes_canon h ..) h

theorem Dev.sendIdent_canon {d : Dev} (h : d.Canon) (plane : Nat) : (d.sendIdent plane).Canon :=
  Dev.emit_canon h ..

theorem Dev.linkEvent_canon {d : Dev} (h : d.Canon) : d.linkEvent.Canon :=
  foldl_canon (fun _ _ h => Dev.aplic_canon h ..) (Dev.raiseEvent_canon h ..)

theorem Dev.noteIdent_canon {d : Dev} (h : d.Canon) (plane : Nat) (r : Ident) : (d.noteIdent plane r).Canon :=
  Dev.portWr_canon (Dev.portWr_canon (Dev.portWr_canon (Dev.portWr_canon (Dev.portWr_canon h ..) ..) ..) ..) ..

theorem Dev.quarantine_canon {d : Dev} (h : d.Canon) (plane cause : Nat) : (d.quarantine plane cause).Canon :=
  ite_canon (Dev.linkEvent_canon (ite_canon (Dev.portGone_canon (Dev.portWr_canon (Dev.portWr_canon h ..) ..) ..) (Dev.portWr_canon (Dev.portWr_canon
    h ..) ..))) (ite_canon (Dev.portGone_canon (Dev.portWr_canon (Dev.portWr_canon h ..) ..) ..) (Dev.portWr_canon (Dev.portWr_canon h ..) ..))

theorem Dev.receive_canon {d : Dev} (h : d.Canon) (die port type : Nat) (p : Packet) {f : Dev → Nat → Dev} (hf : ∀ d plane, d.Canon → (f d
    plane).Canon) :
    (d.receive die port type p f).Canon := by
  unfold Dev.receive
  grind only [Dev.inc_canon]

theorem Dev.linkRefused_canon {d : Dev} (h : d.Canon) (die part pa : Nat) : (d.linkRefused die part pa).2.Canon := by
  unfold Dev.linkRefused
  grind only [Dev.inc_canon, Dev.free_canon, Dev.accErr_canon]

theorem Dev.answer_canon {d : Dev} (h : d.Canon) (plane : Nat) (p : Packet) (type status len : Nat) (v : List PByte) :
    (d.answer plane p type status len v).Canon :=
  Dev.sendPlane_canon h ..

theorem Dev.serveRead_canon {d : Dev} (h : d.Canon) (die plane : Nat) (p : Packet) : (d.serveRead die plane p).Canon := by
  unfold Dev.serveRead
  grind only [Dev.linkRefused_canon, Dev.poisonBytes_canon, Dev.answer_canon, Dev.readPa_canon]

theorem Dev.serveWrite_canon {d : Dev} (h : d.Canon) (die plane : Nat) (p : Packet) : (d.serveWrite die plane p).Canon := by
  unfold Dev.serveWrite
  grind only [Dev.linkRefused_canon, Dev.answer_canon, Dev.writePa_canon, foldl_canon]

theorem Dev.serveAtomic_canon {d : Dev} (h : d.Canon) (die plane : Nat) (p : Packet) : (d.serveAtomic die plane p).Canon := by
  unfold Dev.serveAtomic
  grind only [Dev.linkRefused_canon, Dev.poisonBytes_canon, Dev.answer_canon, Dev.homeAmo_canon]

theorem Dev.takeData_canon {d : Dev} (h : d.Canon) (p : Packet) : (d.takeData p).Canon := by
  unfold Dev.takeData
  grind only [Dev.readEnds_canon]

theorem Dev.takeAck_canon {d : Dev} (h : d.Canon) (p : Packet) : (d.takeAck p).Canon := by
  unfold Dev.takeAck
  grind only [Dev.writeEnds_canon]

theorem Dev.takeColl_canon {d : Dev} (h : d.Canon) (p : Packet) : (d.takeColl p).Canon := by
  unfold Dev.takeColl
  grind only [Dev.updColl_canon, Dev.collFinish_canon]

theorem Dev.takeCollCtrl_canon {d : Dev} (h : d.Canon) (p : Packet) : (d.takeCollCtrl p).Canon := by
  unfold Dev.takeCollCtrl
  grind only [Dev.updColl_canon, Dev.collAdvance_canon, Dev.collFinish_canon, Dev.collSendAll_canon, Dev.collDecide_canon]

/-! ### Machine/Yield -/

theorem Dev.servePeer_canon {d : Dev} (h : d.Canon) (die plane : Nat) (p : Packet) : (d.servePeer die plane p).Canon :=
  ite_canon (Dev.serveRead_canon h ..) (ite_canon (Dev.serveWrite_canon h ..) (Dev.serveAtomic_canon h ..))

theorem Dev.takePeer_canon {d : Dev} (h : d.Canon) (die plane : Nat) (p : Packet) : (d.takePeer die plane p).Canon :=
  ite_canon h (Dev.servePeer_canon h ..)

theorem Dev.releasePeers_canon {d : Dev} (h : d.Canon) : d.releasePeers.Canon :=
  foldl_canon (fun _ _ h => Dev.takePeer_canon h ..) h

theorem Dev.releaseFree_canon {d : Dev} (h : d.Canon) : d.releaseFree.Canon :=
  ite_canon h (Dev.releasePeers_canon (Dev.releaseHomes_canon h ..))

/-! ### Machine/LinkCmds -/

theorem Dev.takeIdent_canon {d : Dev} (h : d.Canon) (plane : Nat) (r : Ident) : (d.takeIdent plane r).Canon := by
  unfold Dev.takeIdent
  grind only [Dev.noteIdent_canon, Dev.quarantine_canon, Dev.portUp_canon, Dev.portWr_canon]

/-! ### Machine/Edges -/

theorem Dev.setEdge_canon {d : Dev} (h : d.Canon) (e : Nat × Nat × Nat × Nat) (st : Nat) : (d.setEdge e st).Canon :=
  Dev.wr_canon (Dev.wr_canon h ..) ..

theorem Dev.isolateEdge_canon {d : Dev} (h : d.Canon) (e : Nat × Nat × Nat × Nat) : (d.isolateEdge e).Canon :=
  Dev.setEdge_canon (ite_canon (Dev.raiseErr_canon (Dev.raiseErr_canon h ..) ..) h) ..

theorem Dev.stopDie_canon {d : Dev} (h : d.Canon) (die : Nat) : (d.stopDie die).Canon :=
  foldl_canon (fun _ _ h => Dev.isolateEdge_canon h ..) h

theorem Dev.retrainEdge_canon {d : Dev} (h : d.Canon) (n : Nat) (ok : Bool) : (d.retrainEdge n ok).Canon := by
  unfold Dev.retrainEdge
  grind only [Dev.raiseErr_canon, Dev.inc_canon, Dev.isolateEdge_canon, Dev.canon_iff]

/-! ### Machine/Discover -/

theorem Dev.updBoot_canon {d : Dev} (h : d.Canon) (f : Boot → Boot) : (d.updBoot f).Canon := h

theorem Dev.placeDie_canon {d : Dev} (h : d.Canon) (die : Nat) : (d.placeDie die).Canon :=
  Dev.wr_canon (Dev.wr_canon (Dev.wr_canon (Dev.wr_canon h ..) ..) ..) ..

theorem Dev.showEdge_canon {d : Dev} (h : d.Canon) (e : Nat × Nat × Nat × Nat) (st : Nat) : (d.showEdge e st).Canon :=
  Dev.wr_canon (Dev.wr_canon (Dev.setEdge_canon h ..) ..) ..

theorem Dev.endDiscovery_canon {d : Dev} (h : d.Canon) : d.endDiscovery.Canon :=
  Dev.updBoot_canon (foldl_canon (fun _ _ h => ite_canon (Dev.raiseErr_canon (Dev.raiseErr_canon h ..) ..) h) (foldl_canon (fun _ _ h =>
    Dev.placeDie_canon h ..) (foldl_canon (fun _ _ h => Dev.showEdge_canon h ..) h))) ..

theorem Dev.showTraining_canon {d : Dev} (h : d.Canon) : d.showTraining.Canon :=
  foldl_canon (fun _ _ h => Dev.setEdge_canon h ..) h

/-! ### Machine/OwnCmds -/

theorem Dev.ownAnswer_canon {d : Dev} (h : d.Canon) (result page : Nat) : (d.ownAnswer result page).Canon :=
  Dev.aplic_canon (Dev.wr_canon (Dev.wr_canon (Dev.wr_canon h ..) ..) ..) ..

theorem Dev.claimPages_canon {d : Dev} (h : d.Canon) (part count page : Nat) : (d.claimPages part count page).2.Canon := by
  unfold Dev.claimPages
  grind only [Dev.setOwner_canon, Dev.wr_canon, foldl_canon]

theorem Dev.zeroPage_canon {d : Dev} (h : d.Canon) (page : Nat) : (d.zeroPage page).Canon := by
  unfold Dev.zeroPage
  extract_lets a lineIn d1
  have h1 : d1.Canon := by
    unfold d1
    split
    · exact foldl_canon (fun _ _ h => Dev.incMod_canon h ..) h
    · exact h
  obtain ⟨hmem, hrest⟩ := h1
  refine ⟨?_, hrest⟩
  rw [Memory.wf_iff] at hmem ⊢
  obtain ⟨hbytes, hpoison, hspad, howner⟩ := hmem
  exact ⟨KMap.wf_dropIf (0#8) (fun k => a ≤ k && k < a + 65536) _ hbytes, KMap.wf_dropIf 0 (fun k => a / 32 ≤ k && k < a / 32 + 2048) _ hpoison,
    hspad, howner⟩

theorem Dev.freePage_canon {d : Dev} (h : d.Canon) (page : Nat) : (d.freePage page).Canon := by
  unfold Dev.freePage
  grind only [Dev.wr_canon, Dev.setOwner_canon, Dev.canon_iff]

theorem Dev.releasePages_canon {d : Dev} (h : d.Canon) (part count page : Nat) : (d.releasePages part count page).Canon :=
  Dev.wr_canon (foldl_canon (fun _ _ h => Dev.freePage_canon (Dev.zeroPage_canon h ..) ..) h) ..

theorem Dev.ownCommand_canon {d : Dev} (h : d.Canon) (op part count page : Nat) : (d.ownCommand op part count page).Canon := by
  unfold Dev.ownCommand
  grind only [Dev.claimPages_canon, Dev.ownAnswer_canon, Dev.wr_canon, Dev.canon_iff]

theorem Dev.ownFinish_canon {d : Dev} (h : d.Canon) : d.ownFinish.Canon := by
  unfold Dev.ownFinish
  grind only [Dev.ownAnswer_canon, Dev.releasePages_canon, Dev.canon_iff]

theorem Dev.invCommand_canon {d : Dev} (h : d.Canon) (op part count : Nat) : (d.invCommand op part count).Canon := by
  unfold Dev.invCommand
  grind only [Dev.wr_canon, Dev.invalidate_canon, Dev.aplic_canon, Dev.canon_iff]

theorem Dev.invFinish_canon {d : Dev} (h : d.Canon) : d.invFinish.Canon := by
  unfold Dev.invFinish
  grind only [Dev.aplic_canon, Dev.wr_canon, Dev.canon_iff]

/-! ### Machine/PageTables -/

theorem Dev.tableStore_canon {d : Dev} (h : d.Canon) (pa : Nat) (b : List Byte) : (d.tableStore pa b).Canon :=
  ite_canon (Dev.writePa_canon h ..) (Dev.devWrite_canon h ..)

theorem Dev.givePage_canon {d : Dev} (h : d.Canon) (part page : Nat) : (d.givePage part page).Canon :=
  Dev.wr_canon (Dev.setOwner_canon h ..) ..

theorem Dev.ownPage_canon {d : Dev} (h : d.Canon) (part page : Nat) : OnSome Dev.Canon (d.ownPage part page) := by
  unfold Dev.ownPage
  grind only [Dev.givePage_canon, Dev.ownCommand_canon, onSome_some, onSome_none]

theorem Dev.takeTable_canon {d : Dev} (h : d.Canon) (part : Nat) (p : TablePool) : OnSome (fun t => t.2.2.Canon) (d.takeTable part p) := by
  unfold Dev.takeTable
  split
  · exact onSome_some.2 h
  · split
    · exact onSome_none
    · exact onSome_map (fun _ h => h) (Dev.ownPage_canon (Dev.zeroPage_canon h _) ..)

theorem Dev.mapEntry_canon (part dva leafLevel entry : Nat) : ∀ (level table : Nat) (pool : TablePool) {d : Dev} (_ : d.Canon),
    OnSome (fun t => t.2.Canon) (d.mapEntry part dva leafLevel entry level table pool)
  | 0, table, pool, d, h => by
    unfold Dev.mapEntry
    grind only [onSome_some, onSome_none, Dev.tableStore_canon]
  | level + 1, table, pool, d, h => by
    have ih := Dev.mapEntry_canon part dva leafLevel entry level
    unfold Dev.mapEntry
    grind only [onSome_some, onSome_none, Dev.tableStore_canon, Dev.takeTable_canon]

theorem Dev.mapLeaf_canon {d : Dev} (h : d.Canon) (part root dva level target rights : Nat) (pool : TablePool) :
    OnSome (fun t => t.2.Canon) (d.mapLeaf part root dva level target rights pool) := by
  unfold Dev.mapLeaf
  grind only [Dev.mapEntry_canon, onSome_some, onSome_none]

theorem Dev.unmapLeaf_canon {d : Dev} (h : d.Canon) (part root dva : Nat) : (d.unmapLeaf part root dva).Canon := by
  unfold Dev.unmapLeaf
  grind only [Dev.mapEntry_canon, onSome_some, onSome_none]

/-! ### Machine/HifCmds -/

theorem Dev.hifOp_canon {d : Dev} (h : d.Canon) (q op : Nat) (ext : Ext) : (d.hifOp q op ext).Canon :=
  ite_canon (Dev.hifExec_canon h ..) h

theorem Dev.hostAttach_canon {d : Dev} (h : d.Canon) : d.hostAttach.Canon :=
  ite_canon (Dev.wr_canon (Dev.incMod_canon h ..) ..) h

theorem Dev.bar4Fault_canon {d : Dev} (h : d.Canon) : d.bar4Fault.Canon :=
  Dev.inc_canon h ..

theorem Dev.relayGo_canon {d : Dev} (h : d.Canon) : d.relayGo.Canon :=
  ite_canon h (ite_canon (Dev.wr_canon h ..) (Dev.emit_canon (Dev.wr_canon h ..) ..))

/-! ### Machine/RasCmds -/

theorem Dev.writeUnit_canon {d : Dev} (h : d.Canon) (u : DumpUnit) (at_ : Nat) : (d.writeUnit u at_).2.Canon := by
  unfold Dev.writeUnit
  grind only [Dev.writePa_canon]

theorem Dev.takeSamples_canon {d : Dev} (h : d.Canon) : d.takeSamples.Canon :=
  ite_canon h (foldl_canon (fun _ _ h => ite_canon h (Dev.writePa_canon h ..)) h)

theorem Dev.dumpBegin_canon {d : Dev} (h : d.Canon) (trigger : Nat) : (d.dumpBegin trigger).Canon :=
  Dev.wr_canon (Dev.wr_canon (Dev.wr_canon h ..) ..) ..

theorem Dev.dumpEnd_canon {d : Dev} (h : d.Canon) (tick : Nat) : (d.dumpEnd tick).Canon := by
  unfold Dev.dumpEnd
  grind only [Dev.free_canon, Dev.writePa_canon, Dev.wr_canon, Dev.raiseEvent_canon, Dev.canon_iff]

theorem Dev.dumpUnitsFrom_canon (wait : Bool) : ∀ (us : List DumpUnit) (n off : Nat) {d : Dev} (_ : d.Canon), (d.dumpUnitsFrom wait us n off).Canon
  | [], _, _, d, h => Dev.dumpEnd_canon h d.tick
  | u :: us, n, off, d, h => by
    have ih := Dev.dumpUnitsFrom_canon wait us
    unfold Dev.dumpUnitsFrom
    grind only [Dev.canon_iff, Dev.inc_canon, Dev.writeUnit_canon]

theorem Dev.takeDump_canon {d : Dev} (h : d.Canon) : d.takeDump.Canon := by
  unfold Dev.takeDump
  grind only [Dev.dumpBegin_canon, Dev.dumpUnitsFrom_canon]

theorem Dev.dumpTimeout_canon {d : Dev} (h : d.Canon) : d.dumpTimeout.Canon := by
  unfold Dev.dumpTimeout
  grind only [Dev.dumpEnd_canon, Dev.writeUnit_canon, Dev.inc_canon, Dev.dumpUnitsFrom_canon]

theorem Dev.dumpRelease_canon {d : Dev} (h : d.Canon) : d.dumpRelease.Canon :=
  ite_canon h (Dev.wr_canon h ..)

theorem Dev.logConsume_canon {d : Dev} (h : d.Canon) (v : Nat) : (d.logConsume v).Canon :=
  ite_canon (Dev.wr_canon h ..) h

theorem Dev.flashCommand_canon {d : Dev} (h : d.Canon) (op : Nat) : (d.flashCommand op).Canon :=
  ite_canon h (ite_canon (Dev.wr_canon h ..) (ite_canon (Dev.wr_canon h ..) (Dev.wr_canon h ..)))

theorem Dev.flashEnd_canon {d : Dev} (h : d.Canon) (ok : Bool) : (d.flashEnd ok).Canon := by
  unfold Dev.flashEnd
  split
  · exact h
  · extract_lets n old
    split
    rename_i open_ d1 e1
    have h1 : d1.Canon := by
      split at e1
      · cases e1; exact h
      · exact canon_of_eq (Dev.freeBytes_canon h n) e1
    obtain ⟨hmem, hregs, hst, hflash⟩ := h1
    extract_lets new nv boot d2 d3
    have h2 : d2.Canon := ⟨hmem, hregs, hst, KMap.wf_setList _ _ _ _ hflash⟩
    exact Dev.wr_canon (Dev.wr_canon (ite_canon (Dev.wr_canon h2 ..) h2) ..) ..

/-! ### Machine/SioOps -/

theorem Dev.updSio_canon {d : Dev} (h : d.Canon) (f : Sio → Sio) : (d.updSio f).Canon := h

theorem Dev.updFlow_canon {d : Dev} (h : d.Canon) (i : Nat) (f : Flow → Flow) : (d.updFlow i f).Canon :=
  Dev.updSio_canon h ..

theorem Dev.sioPut_canon {d : Dev} (h : d.Canon) (x : Xq) (ps : List (Nat × Nat)) (off : Nat) (v : List Byte) : (d.sioPut x ps off v).Canon :=
  Dev.writePlaces_canon h ..

theorem Dev.flowStat_canon {d : Dev} (h : d.Canon) (i k n : Nat) : (d.flowStat i k n).Canon :=
  Dev.updFlow_canon h ..

theorem Dev.flushStats_canon {d : Dev} (h : d.Canon) (i : Nat) : (d.flushStats i).Canon :=
  Dev.updFlow_canon (foldl_canon (fun _ _ h => Dev.devWrite_canon h ..) h) ..

theorem Dev.sioDrop_canon {d : Dev} (h : d.Canon) (f : Fld) : (d.sioDrop f).Canon :=
  Dev.inc_canon h ..

theorem Dev.formatDrop_canon {d : Dev} (h : d.Canon) (i : Nat) : (d.formatDrop i).Canon :=
  Dev.wr_canon (Dev.sioDrop_canon h ..) ..

theorem Dev.ringPut_canon {d : Dev} (h : d.Canon) (port : Nat) (f : List Byte) : (d.ringPut port f).Canon :=
  ite_canon (Dev.sioDrop_canon h ..) (Dev.aplic_canon (Dev.updSio_canon h ..) ..)

theorem Dev.setAnchor_canon {d : Dev} (h : d.Canon) (i : Nat) (a : Nat × Nat) : (d.setAnchor i a).Canon :=
  Dev.devWrite_canon (Dev.updFlow_canon h ..) ..

theorem Dev.placePacket_canon {d : Dev} (h : d.Canon) (i : Nat) (head v : List Byte) : (d.placePacket i head v).Canon := by
  unfold Dev.placePacket
  grind only [Dev.flowStat_canon, Dev.translateRange_canon, Dev.sioDrop_canon, Dev.sioPut_canon, Dev.setAnchor_canon, Dev.updFlow_canon]

theorem Dev.packetIn_canon {d : Dev} (h : d.Canon) (i : Nat) (head v : List Byte) : (d.packetIn i head v).Canon := by
  unfold Dev.packetIn
  grind only [Dev.formatDrop_canon, Dev.placePacket_canon]

theorem Dev.rtpIn_canon {d : Dev} (h : d.Canon) (i : Nat) (p : List Byte) : (d.rtpIn i p).Canon := by
  unfold Dev.rtpIn
  grind only [Dev.flowStat_canon, Dev.formatDrop_canon, Dev.packetIn_canon, Dev.updFlow_canon]

theorem Dev.udpIn_canon {d : Dev} (h : d.Canon) (port : Nat) (frame : List Byte) (u : Datagram) : (d.udpIn port frame u).Canon := by
  unfold Dev.udpIn
  grind only [Dev.ringPut_canon, Dev.rtpIn_canon, Dev.sioDrop_canon]

theorem Dev.ptpIn_canon {d : Dev} (h : d.Canon) (port : Nat) (m : List Byte) : (d.ptpIn port m).Canon := by
  unfold Dev.ptpIn
  grind only [Dev.updSio_canon, Dev.wr_canon, Dev.free_canon]

theorem Dev.frameIn_canon {d : Dev} (h : d.Canon) (port : Nat) (frame : List Byte) : (d.frameIn port frame).Canon := by
  unfold Dev.frameIn
  grind only [Dev.sioDrop_canon, Dev.ptpIn_canon, Dev.ringPut_canon, Dev.udpIn_canon]

theorem Dev.closeSlot_canon {d : Dev} (h : d.Canon) (i tick : Nat) : (d.closeSlot i tick).Canon := by
  unfold Dev.closeSlot
  grind only [Dev.updFlow_canon, Dev.translateRange_canon, Dev.sioDrop_canon, Dev.sioPut_canon, Dev.flushStats_canon, Dev.flowStat_canon]

theorem Dev.egressRead_canon {d : Dev} (h : d.Canon) (x : Xq) (dva n : Nat) : (d.egressRead x dva n).2.Canon := by
  unfold Dev.egressRead
  grind only [Dev.translateRange_canon, Dev.readPieces_canon]

theorem Dev.egressState_canon {d : Dev} (h : d.Canon) (i : Nat) (e : FlowEntry) (tick state sent : Nat) :
    (d.egressState i e tick state sent).Canon := by
  unfold Dev.egressState
  grind only [Dev.translateRange_canon, Dev.sioDrop_canon, Dev.sioPut_canon]

theorem Dev.egressCell_canon {d : Dev} (h : d.Canon) (i : Nat) (e : FlowEntry) (tick k : Nat) : (d.egressCell i e tick k).2.Canon := by
  unfold Dev.egressCell
  grind only [Dev.flowStat_canon, Dev.egressRead_canon, Dev.sioDrop_canon]

theorem Dev.egressSchedule_canon {d : Dev} (h : d.Canon) (i count : Nat) : (d.egressSchedule i count).Canon := by
  unfold Dev.egressSchedule
  grind only [Dev.flowStat_canon, Dev.egressCell_canon, Dev.egressState_canon, Dev.updFlow_canon, Dev.flushStats_canon, foldl_snd_canon]

theorem Dev.egressRelease_canon {d : Dev} (h : d.Canon) (i : Nat) : (d.egressRelease i).Canon := by
  unfold Dev.egressRelease
  grind only [Dev.flushStats_canon, Dev.updFlow_canon, Dev.egressRead_canon, Dev.sioDrop_canon, Dev.flowStat_canon, Dev.egressSchedule_canon,
    Dev.egressState_canon]

theorem Dev.sendPacket_canon {d : Dev} (h : d.Canon) (i ts : Nat) (marker : Bool) (v : List Byte) : (d.sendPacket i ts marker v).Canon := by
  unfold Dev.sendPacket
  grind only [Dev.freeBytes_canon, Dev.updFlow_canon, Dev.flowStat_canon, Dev.emit_canon]

theorem Dev.egressSend_canon {d : Dev} (h : d.Canon) (i : Nat) (j : EgressJob) (cell : Option Nat) : (d.egressSend i j cell).2.Canon := by
  unfold Dev.egressSend
  grind only [Dev.sendPacket_canon, Dev.flowStat_canon, Dev.egressRead_canon, Dev.sioDrop_canon]

theorem Dev.pacedSend_canon {d : Dev} (h : d.Canon) (i cell late : Nat) : (d.pacedSend i cell late).Canon := by
  unfold Dev.pacedSend
  grind only [Dev.toTime_canon, Dev.egressSend_canon, Dev.flowStat_canon, Dev.updFlow_canon, Dev.flushStats_canon, Dev.egressState_canon]

theorem Dev.flowAnswer_canon {d : Dev} (h : d.Canon) (r : Nat) : (d.flowAnswer r).Canon :=
  Dev.aplic_canon (Dev.wr_canon h ..) ..

theorem Dev.flowCommand_canon {d : Dev} (h : d.Canon) (op i key : Nat) : (d.flowCommand op i key).Canon := by
  unfold Dev.flowCommand
  grind only [Dev.flowAnswer_canon, Dev.updFlow_canon]

theorem Dev.loadKey_canon {d : Dev} (h : d.Canon) (k : Nat) (long : Bool) : (d.loadKey k long).Canon :=
  Dev.updSio_canon h ..

theorem Dev.flowBoundary_canon {d : Dev} (h : d.Canon) (i : Nat) : (d.flowBoundary i).Canon := by
  unfold Dev.flowBoundary
  grind only [Dev.flushStats_canon, Dev.updFlow_canon, Dev.flowStat_canon, Dev.free_canon]

theorem Dev.sioBoundary_canon {d : Dev} (h : d.Canon) (ptpValid : Bool) : (d.sioBoundary ptpValid).Canon :=
  Dev.updSio_canon (Dev.wr_canon (foldl_canon (fun _ _ h => Dev.flowBoundary_canon h ..) h) ..) ..

/-! ### Machine/RegWrite -/

theorem Dev.zeroFields_canon {d : Dev} (h : d.Canon) (die : Nat) (fs : List Fld) : (d.zeroFields die fs).Canon :=
  foldl_canon (fun _ _ h => Dev.wr_canon h ..) h

theorem Dev.clearCounters_canon {d : Dev} (h : d.Canon) : d.clearCounters.Canon :=
  foldl_canon (fun _ _ h => Dev.zeroFields_canon h ..) (Dev.zeroFields_canon (foldl_canon (fun _ _ h => foldl_canon (fun _ _ h =>
    Dev.zeroFields_canon h ..) (Dev.zeroFields_canon h ..)) (foldl_canon (fun _ _ h => Dev.zeroFields_canon h ..) h)) ..)

theorem Dev.writeField_canon {d : Dev} (h : d.Canon) (die : Nat) (f : Fld) (mask v : Nat) : (d.writeField die f mask v).Canon := by
  unfold Dev.writeField
  grind only [Dev.wr_canon]

theorem Dev.writeRejected_canon {d : Dev} (h : d.Canon) (die : Nat) : (d.writeRejected die).Canon :=
  Dev.inc_canon (Dev.wr_canon h ..) ..

theorem Dev.orderReset_canon {d : Dev} (h : d.Canon) (cause : Nat) : (d.orderReset cause).Canon :=
  ite_canon h h

theorem Dev.commandRun_canon {d : Dev} (h : d.Canon) (off v : Nat) : (d.commandRun off v).Canon :=
  ite_canon (ite_canon (Dev.hostAttach_canon h) h) <|
  ite_canon (ite_canon (Dev.orderReset_canon h _) h) <|
  ite_canon (ite_canon (Dev.relayGo_canon h) h) <|
  ite_canon (Dev.ownCommand_canon h ..) <|
  ite_canon (Dev.invCommand_canon h ..) <|
  ite_canon (Dev.flowCommand_canon h ..) <|
  ite_canon (ite_canon (Dev.loadKey_canon h ..) h) <|
  ite_canon (ite_canon (Dev.takeDump_canon h) h) <|
  ite_canon (ite_canon (Dev.dumpRelease_canon h) h) <|
  ite_canon (Dev.flashCommand_canon h _) <|
  ite_canon (ite_canon (Dev.clearCounters_canon h) h) h

theorem Dev.storeFields_canon {d : Dev} (h : d.Canon) (die off : Nat) (fs : List Fld) (mask v : Nat) : (d.storeFields die off fs mask v).Canon :=
  ite_canon h (ite_canon (Dev.logConsume_canon h ..) (foldl_canon (fun _ _ h => Dev.writeField_canon h ..) h))

theorem Dev.chainEnChanged_canon {d : Dev} (h : d.Canon) (die off before : Nat) : (d.chainEnChanged die off before).Canon := by
  unfold Dev.chainEnChanged
  grind only [Dev.chainClear_canon]

theorem Dev.writeReg_canon {d : Dev} (h : d.Canon) (die off mask v : Nat) : (d.writeReg die off mask v).Canon := by
  unfold Dev.writeReg
  grind only [Dev.writeRejected_canon, Dev.commandRun_canon, Dev.chainEnChanged_canon, Dev.storeFields_canon]

theorem Dev.ctlWrite_canon {d : Dev} (h : d.Canon) (r : Requester) (die off size v : Nat) : (d.ctlWrite r die off size v).Canon := by
  unfold Dev.ctlWrite
  grind only [Dev.ctlRefuse_canon, Dev.ctlError_canon, Dev.writeReg_canon]

theorem Dev.viewWrite_canon {d : Dev} (h : d.Canon) (die off size v : Nat) : (d.viewWrite die off size v).Canon := by
  unfold Dev.viewWrite
  grind only [Dev.ctlError_canon, Dev.inc_canon, Dev.clearCounters_canon, Dev.dumpRelease_canon, Dev.writeField_canon, foldl_canon]

theorem Dev.hifBlockWrite_canon {d : Dev} (h : d.Canon) (off size v : Nat) : (d.hifBlockWrite off size v).Canon :=
  Dev.ctlWrite_canon h ..

theorem Dev.msixWrite_canon {d : Dev} (h : d.Canon) (o size v : Nat) : (d.msixWrite o size v).Canon :=
  ite_canon (Dev.sendVector_canon (Dev.updHif_canon (Dev.updHif_canon h ..) ..) ..) (Dev.updHif_canon h ..)

theorem Dev.bar0Write_canon {d : Dev} (h : d.Canon) (off size v : Nat) : (d.bar0Write off size v).Canon :=
  ite_canon h (ite_canon (Dev.hifBlockWrite_canon h ..) (ite_canon (Dev.msixWrite_canon h ..) (ite_canon (Dev.viewWrite_canon h ..) h)))

theorem Dev.queueReg_canon {d : Dev} (h : d.Canon) (q o mask v : Nat) : (d.queueReg q o mask v).Canon := by
  unfold Dev.queueReg
  grind only [Dev.hifBell_canon, Dev.hifCqHead_canon, Dev.updHq_canon, Dev.hifEnable_canon, Dev.hifDisable_canon, Dev.hifResume_canon,
    Dev.hifAbort_canon]

theorem Dev.queueWrite_canon {d : Dev} (h : d.Canon) (q off size v : Nat) : (d.queueWrite q off size v).Canon :=
  ite_canon h (Dev.queueReg_canon h ..)

/-! ### Machine/HartOps -/

theorem Dev.hartTranslate_canon {d : Dev} (h : d.Canon) (hart va ax cause : Nat) : (d.hartTranslate hart va ax cause).2.Canon := by
  unfold Dev.hartTranslate
  grind only [Dev.lookup_canon]

theorem Dev.stewRead_canon {d : Dev} (h : d.Canon) (hart kind : Nat) (q : Rq) (pa n : Nat) : (d.stewRead hart kind q pa n).2.Canon := by
  unfold Dev.stewRead
  grind only [Dev.stewFetch_canon, foldl_snd_canon]

theorem HartSt.readTarget_canon {s : HartSt} (h : s.d.Canon) (hart : Nat) (q : Rq) (target n cause : Nat) :
    OnOk (fun t => t.2.d.Canon) (s.readTarget hart q target n cause) := by
  unfold HartSt.readTarget
  grind only [Dev.stewRead_canon, Dev.readPa_canon, Dev.ctlRead_canon, onOk_ok, onOk_error]

theorem HartSt.read_canon {s : HartSt} (h : s.d.Canon) (hart va n ax cause : Nat) : OnOk (fun t => t.2.d.Canon) (s.read hart va n ax cause) := by
  refine List.foldlRecOn (motive := OnOk (fun t : List Byte × HartSt => t.2.d.Canon)) _ _ (onOk_ok.2 h) fun r hr p _ => ?_
  grind only [onOk_ok, onOk_error, Dev.hartTranslate_canon, HartSt.readTarget_canon]

theorem Dev.hartWriteTarget_canon {d : Dev} (h : d.Canon) (hart : Nat) (q : Rq) (target : Nat) (v : List Byte) :
    OnOk Dev.Canon (d.hartWriteTarget hart q target v) := by
  unfold Dev.hartWriteTarget
  grind only [Dev.remoteWriteOne_canon, Dev.updHart_canon, Dev.hartLost_canon, Dev.dropWrite_canon, Dev.stewStore_canon, Dev.writePa_canon,
    Dev.ctlWrite_canon, Dev.emit_canon, foldl_canon, onOk_ok, onOk_error]

theorem HartSt.write_canon {s : HartSt} (h : s.d.Canon) (hart va : Nat) (v : List Byte) : OnOk (fun t => t.d.Canon) (s.write hart va v) := by
  unfold HartSt.write
  extract_lets checked
  have hc : checked.2.Canon := by
    refine foldl_snd_canon (fun r p hr => ?_) h
    grind only [Dev.hartTranslate_canon]
  split
  · exact onOk_error
  · refine List.foldlRecOn (motive := OnOk (fun t : HartSt => t.d.Canon)) _ _ (onOk_ok.2 hc) fun r hr p _ => ?_
    grind only [onOk_ok, onOk_error, Dev.hartWriteTarget_canon]

/-- What the interface of a steward core does keeps the canonical form. -/
theorem hartBus_keeps (hart : Nat) : (hartBus hart).Keeps (fun s => s.d.Canon) where
  put _ _ h := Dev.updHart_canon h ..
  load s a n h := by
    have := HartSt.read_canon h hart a n axRead 5
    unfold hartBus
    grind only [onOk_ok, onOk_error]
  store _ _ _ _ h := HartSt.write_canon h ..
  vload s a n h := by
    have := HartSt.read_canon h hart a n axRead 5
    unfold hartBus
    grind only [onOk_ok, onOk_error]
  vstore _ _ _ _ h := HartSt.write_canon h ..
  csrWrite _ _ _ h := onSome_map (fun _ h => h) (Dev.hartCsrWrite_canon h ..)

theorem Dev.hartPageFault_canon {d : Dev} (h : d.Canon) (hart type access va : Nat) : (d.hartPageFault hart type access va).Canon := by
  unfold Dev.hartPageFault
  grind only [Dev.free_canon, Dev.mmuFault_canon]

theorem Dev.hartAsk_canon {d : Dev} (h : d.Canon) (hart q target n : Nat) : (d.hartAsk hart q target n).Canon :=
  foldl_canon (fun _ _ h => Dev.remoteReadOne_canon h ..) (Dev.updHart_canon h ..)

theorem Dev.hartFault_canon {d : Dev} (h : d.Canon) (hart code tval : Nat) : (d.hartFault hart code tval).Canon := by
  unfold Dev.hartFault
  grind only [Dev.accErr_canon, Dev.updHart_canon, Dev.hartAsk_canon, Dev.inc_canon, Dev.stewFetch_canon, Dev.hartPageFault_canon,
    Dev.hartTranslate_canon, Dev.hartTrap_canon]

theorem Dev.hartNext_canon {d : Dev} (h : d.Canon) (hart len : Nat) : (d.hartNext hart len).Canon :=
  Dev.updHart_canon h ..

theorem Dev.hartRd_canon {d : Dev} (h : d.Canon) (hart rd v : Nat) : (d.hartRd hart rd v).Canon :=
  Dev.hartNext_canon (Dev.updHart_canon h ..) ..

theorem Dev.hartIllegal_canon {d : Dev} (h : d.Canon) (hart word : Nat) : (d.hartIllegal hart word).Canon :=
  Dev.hartTrap_canon h ..

/-! ### Machine/HartCmds -/

theorem Dev.hartDo_canon {d : Dev} (h : d.Canon) (hart : Nat) {f : Dev → Dev} (hf : ∀ d, d.Canon → (f d).Canon) : (d.hartDo hart f).Canon := by
  unfold Dev.hartDo
  split
  · exact Dev.releaseFree_canon (hf d h)
  · exact h

theorem Dev.hartTwait_canon {d : Dev} (h : d.Canon) (hart : Nat) (next : Bool) (target rd : Nat) : (d.hartTwait hart next target rd).Canon := by
  unfold Dev.hartTwait
  grind only [Dev.hartRd_canon, Dev.updHart_canon]

theorem Dev.twaitBoundary_canon {d : Dev} (h : d.Canon) (hart : Nat) : (d.twaitBoundary hart).Canon := by
  unfold Dev.twaitBoundary
  grind only [Dev.hartTwait_canon]

theorem Dev.hartFence_canon {d : Dev} (h : d.Canon) (hart scope : Nat) : (d.hartFence hart scope).Canon :=
  ite_canon (Dev.updHart_canon h ..) (Dev.hartNext_canon (Dev.updHart_canon h ..) ..)

theorem Dev.hartPlainFence_canon {d : Dev} (h : d.Canon) (hart : Nat) : (d.hartPlainFence hart).Canon :=
  Dev.hartFence_canon h ..

theorem Dev.hartSetipi_canon {d : Dev} (h : d.Canon) (hart target identity : Nat) (supervisor : Bool) (word : Nat) :
    (d.hartSetipi hart target identity supervisor word).Canon :=
  ite_canon (Dev.hartIllegal_canon h ..) (ite_canon (Dev.hartIllegal_canon h ..) (Dev.hartNext_canon (Dev.setIdentity_canon h ..) ..))

theorem Dev.hartWfi_canon {d : Dev} (h : d.Canon) (hart word : Nat) : (d.hartWfi hart word).Canon :=
  ite_canon (Dev.hartNext_canon (Dev.updHart_canon h ..) ..) (ite_canon (Dev.hartIllegal_canon h ..) (ite_canon (Dev.updHart_canon h ..)
    (Dev.hartNext_canon (Dev.updHart_canon (ite_canon (Dev.coreOff_canon h ..) h) ..) ..)))

theorem Dev.hartCbo_canon {d : Dev} (h : d.Canon) (hart op rs1 word : Nat) : (d.hartCbo hart op rs1 word).Canon := by
  unfold Dev.hartCbo
  grind only [Dev.hartIllegal_canon, Dev.hartTranslate_canon, Dev.hartFault_canon, Dev.recallClean_canon, Dev.recallDrop_canon, Dev.hartNext_canon]

theorem Dev.amoTarget_canon {d : Dev} (h : d.Canon) (hart va width cause : Nat) : (d.amoTarget hart va width cause).2.Canon := by
  unfold Dev.amoTarget
  grind only [Dev.hartTranslate_canon]

theorem Dev.hartAmo_canon {d : Dev} (h : d.Canon) (hart : Nat) (op : AmoOp) (width rd rs1 rs2 : Nat) :
    (d.hartAmo hart op width rd rs1 rs2).Canon := by
  unfold Dev.hartAmo
  grind only [Dev.amoTarget_canon, Dev.hartFault_canon, Dev.updHart_canon, Dev.takeTag_canon, Dev.issueRemote_canon, Dev.homeAmo_canon,
    Dev.hartRd_canon]

theorem Dev.hartLr_canon {d : Dev} (h : d.Canon) (hart width rd rs1 : Nat) (rl : Bool) : (d.hartLr hart width rd rs1 rl).Canon := by
  unfold Dev.hartLr
  grind only [Dev.amoTarget_canon, Dev.hartFault_canon, Dev.updHart_canon, Dev.stewOwn_canon, Dev.hartRd_canon]

theorem Dev.hartSc_canon {d : Dev} (h : d.Canon) (hart width rd rs1 rs2 : Nat) : (d.hartSc hart width rd rs1 rs2).Canon := by
  unfold Dev.hartSc
  grind only [Dev.amoTarget_canon, Dev.hartFault_canon, Dev.updHart_canon, Dev.hartRd_canon, Dev.stewStore_canon]

theorem Dev.hartSfence_canon {d : Dev} (h : d.Canon) (hart rs1 rs2 word : Nat) : (d.hartSfence hart rs1 rs2 word).Canon := by
  unfold Dev.hartSfence
  grind only [Dev.hartIllegal_canon, Dev.hartNext_canon, Dev.canon_iff]

theorem Dev.hartCustom_canon {d : Dev} (h : d.Canon) (hart w : Nat) : (d.hartCustom hart w).Canon := by
  unfold Dev.hartCustom
  grind only [Dev.hartIllegal_canon, Dev.hartTwait_canon, Dev.hartFence_canon, Dev.hartRd_canon, Dev.hartSetipi_canon]

theorem Dev.hartSystem_canon {d : Dev} (h : d.Canon) (hart word len : Nat) (i : RvInst) : (d.hartSystem hart word len i).Canon := by
  unfold Dev.hartSystem
  grind only [Dev.hartIllegal_canon, Dev.hartPlainFence_canon, Dev.hartNext_canon, Dev.hartCbo_canon, Dev.hartTrap_canon, Dev.updHart_canon,
    Dev.hartWfi_canon, Dev.hartSfence_canon, Dev.hartLr_canon, Dev.hartSc_canon, Dev.hartAmo_canon, Dev.hartCustom_canon]

theorem HartSt.run_canon {s : HartSt} (h : s.d.Canon) (hart word len : Nat) (i : RvInst) : (s.run hart word len i).Canon := by
  have hr := RvBus.exec_keeps (hartBus_keeps hart) h word len i
  unfold HartSt.run
  grind only [onSome_some, RvRes.Sat, Dev.updHart_canon, Dev.hartIllegal_canon, Dev.hartFault_canon, Dev.hartSystem_canon]

theorem HartSt.fetchRun_canon {s : HartSt} (h : s.d.Canon) (hart : Nat) : (s.fetchRun hart).Canon := by
  unfold HartSt.fetchRun
  grind only [HartSt.read_canon, Dev.hartFault_canon, HartSt.run_canon, Dev.hartIllegal_canon, onOk_ok, onOk_error]

theorem Dev.stewardStep_canon {d : Dev} (h : d.Canon) (hart : Nat) (ext : Ext) : (d.stewardStep hart ext).Canon := by
  unfold Dev.stewardStep
  grind only [HartSt.fetchRun_canon, Dev.updHart_canon, Dev.hartFence_canon]

theorem Dev.hartCsrSet_canon {d : Dev} (h : d.Canon) (hart : Nat) {f : Dev → Dev} (hf : ∀ d, d.Canon → (f d).Canon) :
    (d.hartCsrSet hart f).Canon := by
  unfold Dev.hartCsrSet
  split
  · exact Dev.hartIllegal_canon (Dev.free_canon h) ..
  · exact Dev.hartNext_canon (hf d h) ..

theorem Dev.sbiReturn_canon {d : Dev} (h : d.Canon) (hart err v : Nat) : (d.sbiReturn hart err v).Canon :=
  Dev.hartNext_canon (Dev.updHart_canon h ..) ..

theorem Dev.sbiCall_canon {d : Dev} (h : d.Canon) (hart fid : Nat) {f : Dev → Dev} (hf : ∀ d, d.Canon → (f d).Canon) : (d.sbiCall hart fid f).Canon :=
  Dev.hartDo_canon h hart fun d hd => ite_canon (hf d hd) hd

theorem Dev.pageMap_canon {d : Dev} (h : d.Canon) (hart : Nat) : (d.pageMap hart).Canon := by
  unfold Dev.pageMap
  extract_lets part root tier count dva rights r span pool
  refine ite_canon (Dev.sbiReturn_canon h ..) <| ite_canon h <| ite_canon (Dev.sbiReturn_canon h ..) <| ite_canon (Dev.sbiReturn_canon h ..) ?_
  split
  · exact Dev.sbiReturn_canon h ..
  · rename_i page _
    extract_lets d1 mapped
    have h1 : d1.Canon := Dev.ownCommand_canon h ..
    have hm : OnSome (fun t => t.2.Canon) mapped := by
      refine List.foldlRecOn (motive := OnSome (fun t : TablePool × Dev => t.2.Canon)) _ _ (onSome_some.2 h1) fun o ho i _ => ?_
      grind only [onSome_some, onSome_none, Dev.mapLeaf_canon]
    refine ite_canon (Dev.sbiReturn_canon h1 ..) ?_
    clear_value mapped
    cases mapped with
    | none => exact Dev.sbiReturn_canon h ..
    | some t => exact Dev.sbiReturn_canon (hm.holds t rfl) ..

theorem Dev.pageUnmap_canon {d : Dev} (h : d.Canon) (hart : Nat) : (d.pageUnmap hart).Canon := by
  unfold Dev.pageUnmap
  extract_lets part root dva count pageOf pages u1 u2
  have h1 : u1.Canon := foldl_canon (fun _ _ h => Dev.unmapLeaf_canon h ..) h
  have h2 : u2.Canon := Dev.invCommand_canon (Dev.wr_canon h1 ..) ..
  refine ite_canon (Dev.sbiReturn_canon h ..) <| ite_canon h <| ite_canon (Dev.sbiReturn_canon h ..) <| ite_canon (Dev.sbiReturn_canon h ..) <|
    ite_canon (Dev.sbiReturn_canon h ..) ?_
  split
  · exact h
  · exact ite_canon h (Dev.sbiReturn_canon (foldl_canon (fun _ _ h => Dev.ownFinish_canon (Dev.ownCommand_canon h ..)) (Dev.invFinish_canon h2)) ..)

theorem Dev.sbiFlow_canon {d : Dev} (h : d.Canon) (hart : Nat) : (d.sbiFlow hart).Canon := by
  unfold Dev.sbiFlow
  grind only [Dev.sbiReturn_canon, Dev.flowCommand_canon]

theorem Dev.sbiKey_canon {d : Dev} (h : d.Canon) (hart : Nat) : (d.sbiKey hart).Canon := by
  unfold Dev.sbiKey
  grind only [Dev.sbiReturn_canon, HartSt.read_canon, Dev.hartFault_canon, HartSt.write_canon, Dev.wr_canon, Dev.loadKey_canon, foldl_canon, onOk_ok,
    onOk_error]

/-! ### Machine/MoverCmds -/

theorem Dev.dropCmd_canon {d : Dev} (h : d.Canon) (port cid : Nat) : (d.dropCmd port cid).Canon :=
  Dev.setNvPort_canon h ..

theorem Dev.landNvme_canon {d : Dev} (h : d.Canon) (q : Rq) (c : NvmeCmd) (ext : Ext) : (d.landNvme q c ext).2.Canon :=
  Dev.putPieces_canon h ..

/-! ### Machine/League -/

theorem Dev.updLeague_canon {d : Dev} (h : d.Canon) (f : League → League) : (d.updLeague f).Canon := h

theorem Dev.updPkg_canon {d : Dev} (h : d.Canon) (id : Nat) (f : PkgState → PkgState) : (d.updPkg id f).Canon :=
  Dev.updLeague_canon h ..

theorem Dev.applyRoute_canon {d : Dev} (h : d.Canon) (e : RouteEntry) : (d.applyRoute e).Canon := by
  unfold Dev.applyRoute
  grind only [Dev.loseOps_canon, Dev.wr_canon, Dev.updLeague_canon, Dev.setPlanes_canon]

theorem Dev.takeEntries_canon {d : Dev} (h : d.Canon) (l : List RouteEntry) : (d.takeEntries l).Canon :=
  ite_canon (foldl_canon (fun _ _ h => Dev.applyRoute_canon h ..) h) (foldl_canon (fun _ _ h => ite_canon (Dev.applyRoute_canon h ..)
    (Dev.updLeague_canon h ..)) h)

theorem Dev.sendEntries_canon {d : Dev} (h : d.Canon) (l : List RouteEntry) : (d.sendEntries l).Canon :=
  Dev.takeEntries_canon (Dev.emit_canon (Dev.wr_canon h ..) ..) ..

theorem Dev.takeEpoch_canon {d : Dev} (h : d.Canon) : d.takeEpoch.2.Canon := by
  unfold Dev.takeEpoch
  grind only [Dev.wr_canon]

theorem Dev.adopt_canon {d : Dev} (h : d.Canon) (p : Plan) (at_ : Nat) : (d.adopt p at_).Canon := by
  unfold Dev.adopt
  grind only [Dev.takeEpoch_canon, Dev.updPkg_canon, Dev.updLeague_canon, Dev.sendEntries_canon, foldl_canon]

theorem Dev.replan_canon {d : Dev} (h : d.Canon) (halts : Bool) : (d.replan halts).Canon := by
  unfold Dev.replan
  grind only [Dev.updLeague_canon, Dev.adopt_canon]

theorem Dev.refuseJoin_canon {d : Dev} (h : d.Canon) (plane : Nat) (e : SlotEntry) : (d.refuseJoin plane e).Canon :=
  Dev.emit_canon h ..

theorem Dev.takeJoin_canon {d : Dev} (h : d.Canon) (plane : Nat) (m : JoinReq) : (d.takeJoin plane m).Canon := by
  unfold Dev.takeJoin
  grind only [Dev.inc_canon, Dev.emit_canon, Dev.refuseJoin_canon, Dev.takeEpoch_canon, Dev.updPkg_canon, Dev.updLeague_canon, Dev.wr_canon,
    Dev.sendEntries_canon, Dev.replan_canon]

theorem Dev.sendJoin_canon {d : Dev} (h : d.Canon) : d.sendJoin.Canon :=
  Dev.emit_canon (Dev.updLeague_canon h ..) ..

theorem Dev.takeGrant_canon {d : Dev} (h : d.Canon) (m : JoinGrantMsg) : (d.takeGrant m).Canon :=
  ite_canon (Dev.wr_canon (Dev.updLeague_canon h ..) ..) (Dev.wr_canon (Dev.wr_canon (Dev.wr_canon (Dev.wr_canon (Dev.updLeague_canon
    h ..) ..) ..) ..) ..)

theorem Dev.beaconContents_canon {d : Dev} (h : d.Canon) (m : BeaconMsg) : (d.beaconContents m).Canon := by
  unfold Dev.beaconContents
  grind only [Dev.wr_canon, Dev.updLeague_canon, Dev.loseOps_canon, Dev.sendJoin_canon]

theorem Dev.takeBeacon_canon {d : Dev} (h : d.Canon) (plane : Nat) (offsetNs : Int) (m : BeaconMsg) : (d.takeBeacon plane offsetNs m).Canon :=
  ite_canon (Dev.beaconContents_canon (ite_canon (Dev.updLeague_canon h ..) h) ..) (Dev.emit_canon (Dev.beaconContents_canon (ite_canon
    (Dev.updLeague_canon h ..) h) ..) ..)

theorem Dev.showMissed_canon {d : Dev} (h : d.Canon) : d.showMissed.Canon :=
  Dev.wr_canon h ..

theorem Dev.takeAckOf_canon {d : Dev} (h : d.Canon) (plane : Nat) (m : BeaconAckMsg) : (d.takeAckOf plane m).Canon :=
  ite_canon (Dev.inc_canon h ..) (ite_canon (Dev.inc_canon h ..) (Dev.showMissed_canon (Dev.updPkg_canon h ..)))

theorem Dev.unanswered_canon {d : Dev} (h : d.Canon) (pkg : Nat) : (d.unanswered pkg).Canon :=
  ite_canon h (Dev.showMissed_canon (Dev.updPkg_canon (Dev.toTime_canon h ..) ..))

theorem Dev.packageLost_canon {d : Dev} (h : d.Canon) (pkg : Nat) : (d.packageLost pkg).Canon :=
  ite_canon h (Dev.replan_canon (Dev.linkEvent_canon (Dev.showMissed_canon (Dev.sendEntries_canon (Dev.updLeague_canon (Dev.updPkg_canon
    h ..) ..) ..))) ..)

theorem Dev.takeMgmt_canon {d : Dev} (h : d.Canon) (m : MgmtMsg) : (d.takeMgmt m).Canon := by
  unfold Dev.takeMgmt
  grind only [Dev.takeEntries_canon, Dev.viewAsk_canon, Dev.emit_canon, Dev.wr_canon, Dev.replan_canon, Dev.updLeague_canon]

theorem Dev.sendBeacon_canon {d : Dev} (h : d.Canon) (tick plan oppNext2 : Nat) : (d.sendBeacon tick plan oppNext2).Canon :=
  Dev.emit_canon (Dev.updLeague_canon (Dev.wr_canon (Dev.wr_canon (Dev.wr_canon h ..) ..) ..) ..) ..

/-! ### Machine/TickGen -/

theorem Dev.updGen_canon {d : Dev} (h : d.Canon) (f : TickGen → TickGen) : (d.updGen f).Canon := h

theorem Dev.tickEnter_canon {d : Dev} (h : d.Canon) (state src : Nat) (alt : Bool) : (d.tickEnter state src alt).Canon :=
  Dev.updGen_canon (Dev.wr_canon (Dev.wr_canon (Dev.wr_canon (Dev.wr_canon h ..) ..) ..) ..) ..

theorem Dev.tickLock_canon {d : Dev} (h : d.Canon) : d.tickLock.Canon :=
  ite_canon (Dev.tickEnter_canon h ..) (ite_canon (Dev.tickEnter_canon h ..) h)

theorem Dev.tickLoss_canon {d : Dev} (h : d.Canon) : d.tickLoss.Canon :=
  ite_canon (Dev.tickEnter_canon (Dev.wr_canon h ..) ..) h

theorem Dev.correct_canon {d : Dev} (h : d.Canon) (stepBy : Int) : (d.correct stepBy).Canon :=
  Dev.updGen_canon h ..

theorem Dev.generatorBoundary_canon {d : Dev} (h : d.Canon) (o : BoundaryObs) : (d.generatorBoundary o).Canon := by
  unfold Dev.generatorBoundary
  grind only [Dev.updGen_canon, Dev.updLeague_canon, Dev.wr_canon, Dev.inc_canon, Dev.correct_canon, Dev.tickLock_canon, Dev.tickLoss_canon]

theorem Dev.tickAcquire_canon {d : Dev} (h : d.Canon) : d.tickAcquire.Canon := by
  unfold Dev.tickAcquire
  grind only [Dev.tickEnter_canon, Dev.canon_iff]

theorem Dev.timingEdge_canon {d : Dev} (h : d.Canon) (src : Nat) (offset : Int) : (d.timingEdge src offset).2.Canon := by
  unfold Dev.timingEdge
  grind only [Dev.updGen_canon]

theorem Dev.ppsAccept_canon {d : Dev} (h : d.Canon) (offset : Int) : (d.ppsAccept offset).Canon :=
  Dev.updGen_canon h ..

/-! ### Machine/PowerOps -/

theorem Dev.updPower_canon {d : Dev} (h : d.Canon) (f : Power → Power) : (d.updPower f).Canon := h

theorem Dev.showHeat_canon {d : Dev} (h : d.Canon) (die : Nat) (o : BoundaryObs) (ceil : Nat) (heat : DieHeat) : (d.showHeat die o ceil heat).Canon :=
  Dev.wr_canon (Dev.wr_canon (Dev.wr_canon (Dev.wr_canon (Dev.wr_canon (Dev.wr_canon (Dev.wr_canon (Dev.wr_canon (Dev.wr_canon (Dev.wr_canon
    (Dev.wr_canon (Dev.wr_canon h ..) ..) ..) ..) ..) ..) ..) ..) ..) ..) ..) ..

theorem Dev.thermalBoundary_canon {d : Dev} (h : d.Canon) (o : BoundaryObs) : (d.thermalBoundary o).Canon := by
  unfold Dev.thermalBoundary
  grind only [Dev.inc_canon, Dev.updPower_canon, Dev.showHeat_canon, Dev.wr_canon, foldl_canon]

theorem Dev.choosePoint_canon {d : Dev} (h : d.Canon) (o : BoundaryObs) : (d.choosePoint o).2.Canon := by
  unfold Dev.choosePoint
  grind only [Dev.wr_canon, Dev.updPower_canon, foldl_canon]

theorem Dev.setRails_canon {d : Dev} (h : d.Canon) (points : List Nat) : (d.setRails points).Canon :=
  foldl_canon (fun _ _ h => ite_canon h (Dev.updPower_canon (Dev.emit_canon (Dev.wr_canon (Dev.wr_canon h ..) ..) ..) ..)) h

theorem Dev.applyPoints_canon {d : Dev} (h : d.Canon) (own lim : Nat) (dispatching : Bool) : (d.applyPoints own lim dispatching).Canon := by
  unfold Dev.applyPoints
  grind only [Dev.updLeague_canon, Dev.wr_canon, Dev.updPower_canon, Dev.setRails_canon]

theorem Dev.addEnergy_canon {d : Dev} (h : d.Canon) (f : Fld) (uj : Nat) : (d.addEnergy f uj).Canon :=
  Dev.wr_canon h ..

theorem Dev.energyBoundary_canon {d : Dev} (h : d.Canon) (o : BoundaryObs) : (d.energyBoundary o).Canon := by
  unfold Dev.energyBoundary
  grind only [Dev.addEnergy_canon, Dev.free_canon, foldl_snd_canon]

theorem Dev.avsConfirm_canon {d : Dev} (h : d.Canon) (die : Nat) : (d.avsConfirm die).Canon :=
  ite_canon (Dev.updPower_canon (Dev.wr_canon h ..) ..) h

/-! ### Machine/TickOps -/

theorem Dev.errorEvent_canon {d : Dev} (h : d.Canon) : d.errorEvent.Canon :=
  ite_canon (foldl_canon (fun _ _ h => Dev.aplic_canon h ..) (Dev.raiseEvent_canon h ..)) h

theorem Dev.thermalEvent_canon {d : Dev} (h : d.Canon) : d.thermalEvent.Canon :=
  Dev.updPower_canon (ite_canon (foldl_canon (fun _ _ h => Dev.aplic_canon h ..) (Dev.raiseEvent_canon h ..)) h) ..

theorem Dev.overrunEvent_canon {d : Dev} (h : d.Canon) : d.overrunEvent.Canon := by
  unfold Dev.overrunEvent
  grind only [Dev.aplic_canon, Dev.raiseEvent_canon, Dev.updGen_canon, Dev.canon_iff]

theorem Dev.healthEvent_canon {d : Dev} (h : d.Canon) : d.healthEvent.Canon :=
  ite_canon (Dev.raiseEvent_canon h ..) h

theorem Dev.journalFull_canon {d : Dev} (h : d.Canon) : d.journalFull.Canon := h

theorem Dev.tickEvents_canon {d : Dev} (h : d.Canon) : d.tickEvents.Canon :=
  ite_canon (Dev.healthEvent_canon (Dev.overrunEvent_canon (Dev.thermalEvent_canon (Dev.errorEvent_canon (Dev.journalFull_canon h))))) h

theorem Dev.haltDispatch_canon {d : Dev} (h : d.Canon) (cause : Nat) : (d.haltDispatch cause).Canon :=
  ite_canon h (Dev.raiseErr_canon (Dev.wr_canon (Dev.wr_canon (Dev.wr_canon h ..) ..) ..) ..)

theorem Dev.planAfterMark_canon {d : Dev} (h : d.Canon) : d.planAfterMark.Canon := by
  unfold Dev.planAfterMark
  grind only [Dev.haltDispatch_canon, Dev.updLeague_canon, Dev.replan_canon, Dev.emit_canon]

theorem Dev.markFailed_canon {d : Dev} (h : d.Canon) (die : Nat) : (d.markFailed die).Canon :=
  Dev.planAfterMark_canon (foldl_canon (fun _ _ h => Dev.statusRecord_canon h ..) (foldl_canon (fun _ _ h => ite_canon (Dev.report_canon h ..) h)
    (Dev.raiseErr_canon (Dev.wr_canon (Dev.wr_canon h ..) ..) ..)))

theorem Dev.sidePath_canon {d : Dev} (h : d.Canon) (acks : List Nat) : (d.sidePath acks).Canon := by
  unfold Dev.sidePath
  grind only [Dev.markFailed_canon, Dev.stopDie_canon, Dev.canon_iff, foldl_canon]

theorem Dev.dueEntries_canon {d : Dev} (h : d.Canon) : d.dueEntries.Canon :=
  foldl_canon (fun _ _ h => Dev.applyRoute_canon h ..) (Dev.updLeague_canon h ..)

theorem Dev.perchesOff_canon {d : Dev} (h : d.Canon) : d.perchesOff.Canon :=
  foldl_canon (fun _ _ h => Dev.perchOff_canon h ..) h

theorem Dev.takePlan_canon {d : Dev} (h : d.Canon) (p : Nat) : (d.takePlan p).Canon :=
  foldl_canon (fun _ _ h => Dev.discardCont_canon h ..) (Dev.wr_canon (Dev.wr_canon h ..) ..)

theorem Dev.duePlan_canon {d : Dev} (h : d.Canon) : d.duePlan.Canon := by
  unfold Dev.duePlan
  grind only [Dev.takePlan_canon, Dev.updLeague_canon, Dev.haltDispatch_canon]

theorem Dev.detach_canon {d : Dev} (h : d.Canon) : d.detach.Canon :=
  Dev.updLeague_canon (ite_canon (Dev.wr_canon h ..) h) ..

theorem Dev.budgetBoundary_canon {d : Dev} (h : d.Canon) : d.budgetBoundary.Canon :=
  foldl_canon (fun _ _ h => foldl_canon (fun _ _ h => Dev.wr_canon (Dev.wr_canon h ..) ..) h) h

theorem Dev.hartBoundary_canon {d : Dev} (h : d.Canon) : d.hartBoundary.Canon :=
  foldl_canon (fun _ _ h => ite_canon (Dev.twaitBoundary_canon (Dev.updHart_canon h ..) ..) h) h

theorem Dev.beaconBoundary_canon {d : Dev} (h : d.Canon) : d.beaconBoundary.Canon := by
  unfold Dev.beaconBoundary
  grind only [Dev.sendBeacon_canon, Dev.updLeague_canon]

theorem Dev.tickWork_canon {d : Dev} (h : d.Canon) : d.tickWork.Canon := by
  unfold Dev.tickWork
  grind only [Dev.duePlan_canon, Dev.detach_canon, Dev.dueEntries_canon, Dev.wr_canon, Dev.incMod_canon, Dev.runHandover_canon, Dev.canon_iff,
    foldl_canon]

theorem Dev.countTick_canon {d : Dev} (h : d.Canon) : d.countTick.Canon := by
  unfold Dev.countTick
  grind only [Dev.wr_canon, Dev.canon_iff]

theorem Dev.powerBoundary_canon {d : Dev} (h : d.Canon) (o : BoundaryObs) : (d.powerBoundary o).Canon := by
  unfold Dev.powerBoundary
  grind only [Dev.thermalBoundary_canon, Dev.choosePoint_canon, Dev.updPower_canon, Dev.energyBoundary_canon, Dev.applyPoints_canon]

theorem Dev.endSpans_canon {d : Dev} (h : d.Canon) : d.endSpans.Canon :=
  foldl_canon (fun _ _ h => Dev.statusRecord_canon h ..) (foldl_canon (fun _ _ h => ite_canon (Dev.spanEnds_canon h ..) h) h)

theorem Dev.boundary_canon {d : Dev} (h : d.Canon) (o : BoundaryObs) : (d.boundary o).Canon := by
  unfold Dev.boundary
  grind only [Dev.toTime_canon, Dev.endSpans_canon, Dev.generatorBoundary_canon, Dev.tickEvents_canon, Dev.powerBoundary_canon, Dev.countTick_canon,
    Dev.collBoundary_canon, Dev.emit_canon, Dev.sidePath_canon, Dev.budgetBoundary_canon, Dev.perchesOff_canon, Dev.tickWork_canon,
    Dev.dmaBoundary_canon, Dev.releaseFree_canon, Dev.sioBoundary_canon, Dev.hartBoundary_canon, Dev.beaconBoundary_canon, Dev.canon_iff]

theorem Dev.stopAll_canon {d : Dev} (h : d.Canon) : d.stopAll.Canon := h

/-! ### Machine/Place -/

theorem Dev.takeRun_canon {d : Dev} (h : d.Canon) (ranges : List (Nat × Nat)) (count align owner : Nat) :
    OnSome (fun t => t.2.Canon) (d.takeRun ranges count align owner) :=
  onSome_map_of_forall (Q := fun t : Nat × Dev => t.2.Canon) (fun _ => foldl_canon (fun _ _ h => ite_canon (Dev.givePage_canon h ..)
    (Dev.setOwner_canon h ..)) h) _

theorem Dev.placeStruct_canon {d : Dev} (h : d.Canon) (ranges : List (Nat × Nat)) (size : Nat) (b : List Byte) :
    OnSome (fun t => t.2.Canon) (d.placeStruct ranges size b) := by
  unfold Dev.placeStruct
  split
  · exact onSome_some.2 h
  · exact onSome_map (fun _ h => Dev.devWrite_canon h ..) (Dev.takeRun_canon h ..)

theorem Dev.placeAt_canon {d : Dev} (h : d.Canon) (die : Nat) (f : Fld) (ranges : List (Nat × Nat)) (size : Nat) (b : List Byte) :
    OnSome Dev.Canon (d.placeAt die f ranges size b) := onSome_map (fun _ h => Dev.wr_canon h ..) (Dev.placeStruct_canon h ..)

theorem Dev.placeTables_canon {d : Dev} (h : d.Canon) : OnSome Dev.Canon d.placeTables := by
  have step {f : Dev → Nat → Option Dev} (hf : ∀ d die, d.Canon → OnSome Dev.Canon (f d die)) (l : List Nat) {o : Option Dev} (ho : OnSome Dev.Canon
    o) :
      OnSome Dev.Canon (l.foldl (fun o die => o.bind fun d => f d die) o) :=
    foldl_onSome_canon (fun _ die ho => onSome_bind (fun d hd => hf d die hd) ho) ho
  refine step (fun _ _ h => Dev.placeAt_canon h ..) _ (step (fun _ _ h => Dev.placeAt_canon h ..) _ (step (fun _ _ h => ?_) _ (onSome_some.2 h)))
  exact onSome_map (fun _ h => Dev.wr_canon h ..) (Dev.placeAt_canon h ..)

theorem Dev.placeKernels_canon {d : Dev} (h : d.Canon) : OnSome Dev.Canon d.placeKernels :=
  foldl_onSome_canon (fun _ _ ho => onSome_bind (fun _ h => onSome_map (fun _ h => h) (Dev.placeStruct_canon h ..)) ho) (onSome_some.2 h)

theorem Dev.placeRest_canon {d : Dev} (h : d.Canon) (copy : List Byte) (signed : Nat) : OnSome Dev.Canon (d.placeRest copy signed) :=
  onSome_bind (fun _ h => onSome_bind (fun _ h => onSome_bind (fun _ h => onSome_bind (fun _ h => onSome_bind (fun _ h => onSome_some.2
    (Dev.updBoot_canon h _)) (Dev.placeStruct_canon h ..)) (Dev.placeAt_canon h ..)) (Dev.placeAt_canon h ..)) (Dev.placeAt_canon h ..))
    (Dev.placeAt_canon h ..)

theorem Dev.pinPage_canon {d : Dev} (h : d.Canon) (part page : Nat) : OnSome Dev.Canon (d.pinPage part page) := by
  unfold Dev.pinPage
  grind only [Dev.givePage_canon, onSome_some, onSome_none]

theorem Dev.pinAll_canon {d : Dev} (h : d.Canon) : OnOk Dev.Canon d.pinAll :=
  onOk_foldlM (fun _ _ h => onOk_foldlM (fun _ _ h => onOk_foldlM (fun _ _ h => onOk_orHalt _ (Dev.pinPage_canon h ..)) _ h) _ h) _ h

theorem Dev.leafTarget_canon {d : Dev} (h : d.Canon) (part : Nat) (m : MapEntry) (i : Nat) : OnSome (fun t => t.2.Canon) (d.leafTarget part m i) :=
  ite_onSome (onSome_some.2 h) (ite_onSome (onSome_some.2 h) (onSome_map (fun _ h => h) (Dev.takeRun_canon h ..)))

theorem Dev.buildMap_canon {d : Dev} (h : d.Canon) (part root : Nat) (pool : TablePool) (m : MapEntry) :
    OnSome (fun t => t.2.Canon) (d.buildMap part root pool m) :=
  onSome_foldlM (P := fun t : TablePool × Dev => t.2.Canon) (fun _ _ h => onSome_bind (fun _ h => Dev.mapLeaf_canon h ..) (Dev.leafTarget_canon
    h ..)) _ h

theorem Dev.buildEnv_canon {d : Dev} (h : d.Canon) (part root : Nat) (pool : TablePool) (range : Nat × Nat) :
    OnSome Dev.Canon (d.buildEnv part root pool range) :=
  onSome_bind (fun _ h => onSome_bind (fun _ h => onSome_some.2 (Dev.updBoot_canon h _)) (Dev.mapLeaf_canon h ..)) (Dev.takeRun_canon h ..)

theorem Dev.buildPart_canon {d : Dev} (h : d.Canon) (part : Nat) : OnSome Dev.Canon (d.buildPart part) := by
  unfold Dev.buildPart
  extract_lets r range
  refine onSome_bind (fun t ht => onSome_bind (P := fun t : TablePool × Dev => t.2.Canon) (fun x hx => ?_)
    (onSome_foldlM (fun _ _ h => Dev.buildMap_canon h ..) _ ht)) (Dev.takeTable_canon h ..)
  have last {d : Dev} (h : d.Canon) : OnSome Dev.Canon (some (d.dies.foldl (fun d die =>
      (d.wr die (Reg.MMU_ROOT.VALID.at 8 part) 1).wr die (Reg.MMU_ROOT.ROOT.at 8 part) (t.1 / 4096)) d)) :=
    onSome_some.2 (foldl_canon (fun _ _ h => Dev.wr_canon (Dev.wr_canon h ..) ..) h)
  dsimp only
  split
  · exact last hx
  · exact onSome_bind (fun _ h => last h) (Dev.buildEnv_canon hx ..)

theorem Dev.dropRoot_canon {d : Dev} (h : d.Canon) (part : Nat) : (d.dropRoot part).Canon :=
  foldl_canon (fun _ _ h => Dev.wr_canon (Dev.wr_canon h ..) ..) h

theorem Dev.buildTables_canon {d : Dev} (h : d.Canon) : OnOk Dev.Canon d.buildTables := by
  refine onOk_foldlM (P := Dev.Canon) (fun _ _ h => ?_) _ h
  split
  · exact onOk_orHalt _ (Dev.buildPart_canon h _)
  · exact onOk_ok.2 (Dev.dropRoot_canon h _)

theorem Dev.wrParts_canon {d : Dev} (h : d.Canon) (die stride : Nat) (f : Fld) (g : QuotRec → Nat) : (d.wrParts die stride f g).Canon :=
  foldl_canon (fun _ _ h => Dev.wr_canon h ..) h

theorem Dev.loadTick_canon {d : Dev} (h : d.Canon) : d.loadTick.Canon :=
  foldl_canon (fun _ _ h => Dev.wr_canon (Dev.wr_canon h ..) ..) (Dev.wr_canon (Dev.wr_canon (Dev.wr_canon (Dev.wr_canon (Dev.wr_canon (Dev.wr_canon
    (Dev.wr_canon h ..) ..) ..) ..) ..) ..) ..)

theorem Dev.loadPower_canon {d : Dev} (h : d.Canon) : d.loadPower.Canon :=
  Dev.setRails_canon (Dev.updLeague_canon (Dev.updPower_canon (Dev.wr_canon (Dev.wr_canon (Dev.wr_canon (Dev.wr_canon (Dev.wr_canon (Dev.wr_canon
    (Dev.wr_canon (Dev.wr_canon (Dev.wr_canon h ..) ..) ..) ..) ..) ..) ..) ..) ..) ..) ..) ..

theorem Dev.loadQuotas_canon {d : Dev} (h : d.Canon) : d.loadQuotas.Canon :=
  Dev.wrParts_canon (Dev.wrParts_canon (foldl_canon (fun _ _ h => Dev.wrParts_canon (Dev.wrParts_canon h ..) ..) (foldl_canon (fun _ _ h =>
    Dev.wrParts_canon (Dev.wrParts_canon (foldl_canon (fun _ _ h => Dev.wrParts_canon (Dev.wr_canon (Dev.wr_canon h ..) ..) ..) h) ..) ..) h)) ..) ..

theorem Dev.loadLink_canon {d : Dev} (h : d.Canon) : d.loadLink.Canon :=
  foldl_canon (fun _ _ h => Dev.wr_canon (Dev.wr_canon (Dev.wr_canon h ..) ..) ..) (Dev.wr_canon (Dev.wr_canon (Dev.wr_canon (Dev.wr_canon
    (Dev.wr_canon h ..) ..) ..) ..) ..)

theorem Dev.loadRest_canon {d : Dev} (h : d.Canon) : d.loadRest.Canon :=
  Dev.wr_canon (foldl_canon (fun _ _ h => Dev.wr_canon (Dev.wr_canon (Dev.wr_canon (Dev.wr_canon h ..) ..) ..) ..) (foldl_canon (fun _ _ h =>
    Dev.wr_canon (Dev.wr_canon h ..) ..) (Dev.wr_canon (Dev.wr_canon h ..) ..))) ..

theorem Dev.configure_canon {d : Dev} (h : d.Canon) (copy : List Byte) (signed : Nat) : OnOk Dev.Canon (d.configure copy signed) := by
  unfold Dev.configure
  extract_lets d1 d2 d3
  have h1 : d1.Canon := Dev.loadLink_canon h
  have h2 : d2.Canon := foldl_canon (fun _ _ h => Dev.wr_canon h ..) h1
  have h3 : d3.Canon := Dev.loadRest_canon (Dev.loadQuotas_canon (Dev.loadTick_canon h2))
  refine onOk_bind (fun _ h => onOk_bind (fun _ h => onOk_bind (fun _ h => onOk_bind (fun _ h => onOk_bind (fun t h => ?_)
    (Dev.buildTables_canon h)) (onOk_orHalt _ (Dev.placeRest_canon h ..))) (onOk_orHalt _ (Dev.placeKernels_canon h)))
    (onOk_orHalt _ (Dev.placeTables_canon h))) (Dev.pinAll_canon h3)
  split
  · exact onOk_error
  · exact onOk_ok.2 (Dev.loadPower_canon h)

/-! ### Machine/BootOps -/

theorem Dev.setStage_canon {d : Dev} (h : d.Canon) (n : Nat) : (d.setStage n).Canon :=
  Dev.wr_canon h ..

theorem Dev.waitIn_canon {d : Dev} (h : d.Canon) (step : Nat) : (d.waitIn step).Canon :=
  Dev.updBoot_canon h ..

theorem Dev.applyFuses_canon {d : Dev} (h : d.Canon) : d.applyFuses.Canon :=
  Dev.wr_canon (Dev.wr_canon (Dev.wr_canon (foldl_canon (fun _ _ h => Dev.wr_canon (Dev.wr_canon (Dev.wr_canon (Dev.wr_canon (Dev.wr_canon
    (Dev.wr_canon (Dev.wr_canon h ..) ..) ..) ..) ..) ..) ..) h) ..) ..) ..

theorem Dev.unitsOff_canon {d : Dev} (h : d.Canon) : d.unitsOff.Canon := h

theorem Dev.clearRegs_canon {d : Dev} (h : d.Canon) (keep : Nat → Bool) : (d.clearRegs keep).Canon :=
  Dev.applyFuses_canon ⟨h.1, KMap.wf_dropIf 0 (fun k => !keep k) _ h.regs, h.2.2⟩

theorem Dev.bootHalt_canon {d : Dev} (h : d.Canon) (halt : Halt) : (d.bootHalt halt).Canon := by
  unfold Dev.bootHalt
  grind only [Dev.clearRegs_canon, Dev.unitsOff_canon, Dev.wr_canon, Dev.setStage_canon, Dev.raiseEvent_canon, Dev.updBoot_canon, Dev.canon_iff]

theorem orBootHalt_canon {d : Dev} (h : d.Canon) {r : Except Halt Dev} {f : Dev → Dev} (hr : OnOk Dev.Canon r) (hf : ∀ d, d.Canon → (f d).Canon) :
    (orBootHalt d r f).Canon := by
  cases r with
  | ok t => exact hf t (onOk_ok.1 hr)
  | error e => exact Dev.bootHalt_canon h e

theorem Dev.acceptCharter_canon {d : Dev} (h : d.Canon) (code : Nat) (c : CharterCopy) : (d.acceptCharter code c).Canon := by
  unfold Dev.acceptCharter
  grind only [Dev.updBoot_canon, Dev.wr_canon, Dev.loadLink_canon, Dev.canon_iff, foldl_canon]

theorem Dev.applyRecord_canon {d : Dev} (h : d.Canon) (r : List Byte) : (d.applyRecord r).Canon := by
  unfold Dev.applyRecord
  grind only [Dev.inc_canon, Dev.setOwner_canon, Dev.canon_iff]

theorem Dev.showMemory_canon {d : Dev} (h : d.Canon) : d.showMemory.Canon :=
  foldl_canon (fun _ _ h => Dev.wr_canon (Dev.wr_canon (Dev.wr_canon h ..) ..) ..) h

theorem Dev.initMemory_canon {d : Dev} (h : d.Canon) : d.initMemory.Canon := by
  unfold Dev.initMemory
  extract_lets d1 d2
  obtain ⟨-, hrest⟩ : d1.Canon := Dev.showMemory_canon h
  have h2 : d2.Canon := ⟨Memory.wf_reset, hrest⟩
  grind only [foldl_canon, Dev.incMod_canon, Dev.wr_canon, Dev.setOwner_canon, Dev.applyRecord_canon]

theorem Dev.bootReady_canon {d : Dev} (h : d.Canon) : d.bootReady.Canon := by
  unfold Dev.bootReady
  grind only [Dev.updLeague_canon, Dev.updBoot_canon, Dev.setStage_canon, Dev.wr_canon, Dev.takeEpoch_canon, Dev.sendEntries_canon, Dev.updPkg_canon,
    Dev.sendJoin_canon, Dev.emit_canon]

theorem Dev.loadModel_canon {d : Dev} (h : d.Canon) (i : Nat) (m : ModelEntry) : OnSome Dev.Canon (d.loadModel i m) := by
  have step : ∀ (d : Dev) (pa : Nat) (b : List Byte) (p : Prop) [Decidable p], d.Canon → OnSome Dev.Canon (if p then some (d.devWrite pa b) else
    none) :=
    fun d pa b p _ h => by
      split
      · exact onSome_some.2 (Dev.devWrite_canon h ..)
      · exact onSome_none
  unfold Dev.loadModel
  split
  · exact onSome_some.2 h
  · extract_lets d1
    split
    · exact onSome_none
    · split
      · exact onSome_none
      · refine onSome_foldlM (P := Dev.Canon) (fun d s h => ?_) _ (Dev.emit_canon h _)
        split
        · exact step d _ _ _ h
        · exact onSome_none

theorem Dev.loadModels_canon {d : Dev} (h : d.Canon) : OnOk Dev.Canon d.loadModels :=
  onOk_foldlM (fun _ _ h => onOk_bind (fun _ h => onOk_ok.2 (Dev.wr_canon h ..)) (onOk_orHalt _ (Dev.loadModel_canon h ..))) _ h

theorem Dev.portsReady_canon {d : Dev} (h : d.Canon) : d.portsReady.Canon :=
  foldl_canon (fun _ _ h => ite_canon (Dev.wr_canon h ..) h) h

theorem Dev.bootLoad_canon {d : Dev} (h : d.Canon) : d.bootLoad.Canon := by
  unfold Dev.bootLoad
  grind only [Dev.setStage_canon, Dev.portsReady_canon, Dev.wr_canon, orBootHalt_canon, Dev.loadModels_canon, Dev.bootReady_canon, onOk_ok,
    onOk_error]

theorem Dev.bootConfigure_canon {d : Dev} (h : d.Canon) : d.bootConfigure.Canon := by
  unfold Dev.bootConfigure
  grind only [Dev.setStage_canon, orBootHalt_canon, Dev.configure_canon, Dev.tickAcquire_canon, Dev.waitIn_canon, Dev.bootLoad_canon]

theorem Dev.bootMemory_canon {d : Dev} (h : d.Canon) : d.bootMemory.Canon :=
  ite_canon (Dev.waitIn_canon (Dev.setStage_canon h ..) ..) (ite_canon (Dev.bootHalt_canon (Dev.setStage_canon h ..) ..) (Dev.bootConfigure_canon
    (Dev.initMemory_canon (Dev.setStage_canon h ..))))

theorem Dev.bootCharter_canon {d : Dev} (h : d.Canon) : d.bootCharter.Canon := by
  unfold Dev.bootCharter
  grind only [Dev.setStage_canon, Dev.bootHalt_canon, Dev.bootMemory_canon, Dev.acceptCharter_canon]

theorem Dev.bootFirmware_canon {d : Dev} (h : d.Canon) : d.bootFirmware.Canon := by
  unfold Dev.bootFirmware
  grind only [Dev.setStage_canon, Dev.waitIn_canon, Dev.bootHalt_canon, Dev.bootCharter_canon, Dev.wr_canon, Dev.updBoot_canon]

theorem Dev.wake_canon {d : Dev} (h : d.Canon) : d.wake.Canon :=
  Dev.wr_canon (Dev.wr_canon (Dev.wr_canon (Dev.wr_canon (Dev.showMemory_canon (foldl_canon (fun _ _ h => Dev.wr_canon h ..) h)) ..) ..) ..) ..

theorem Dev.rebuild_canon {d : Dev} (h : d.Canon) : d.rebuild.Canon :=
  ite_canon (Dev.bootHalt_canon (Dev.wr_canon (Dev.wake_canon h) ..) ..) (ite_canon (Dev.bootReady_canon (Dev.portsReady_canon (Dev.loadPower_canon
    (Dev.loadRest_canon (Dev.loadQuotas_canon (Dev.loadTick_canon (Dev.wr_canon (Dev.wake_canon h) ..))))))) (Dev.bootFirmware_canon (Dev.wr_canon
    (Dev.wr_canon (Dev.wake_canon h) ..) ..)))

theorem Dev.bootDiscover_canon {d : Dev} (h : d.Canon) : d.bootDiscover.Canon :=
  ite_canon (Dev.waitIn_canon (Dev.showTraining_canon h) ..) (ite_canon (Dev.rebuild_canon (Dev.endDiscovery_canon (Dev.waitIn_canon h ..)))
    (Dev.bootFirmware_canon (Dev.endDiscovery_canon (Dev.waitIn_canon h ..))))

theorem Dev.bootStart_canon {d : Dev} (h : d.Canon) (b : Board) : (d.bootStart b).Canon :=
  Dev.bootDiscover_canon (Dev.updBoot_canon h ..)

/-! ### Machine/SealOps -/

theorem Dev.enterHarts_canon {d : Dev} (h : d.Canon) : d.enterHarts.Canon :=
  foldl_canon (fun _ _ h => foldl_canon (fun _ _ h => Dev.updHart_canon h ..) h) (foldl_canon (fun _ _ h => Dev.updHart_canon h ..) (foldl_canon (fun
    _ _ h => Dev.devWrite_canon h ..) h))

theorem Dev.perchesOn_canon {d : Dev} (h : d.Canon) : d.perchesOn.Canon :=
  Dev.perchesOff_canon (foldl_canon (fun _ _ h => ite_canon (Dev.updPerch_canon (Dev.clearSpad_canon h ..) ..) h) h)

theorem Dev.raiseFloor_canon {d : Dev} (h : d.Canon) : d.raiseFloor.Canon := by
  unfold Dev.raiseFloor
  grind only [Dev.applyFuses_canon, Dev.canon_iff]

theorem Dev.endReset_canon {d : Dev} (h : d.Canon) : d.endReset.Canon :=
  ite_canon h (Dev.raiseEvent_canon (Dev.wr_canon (Dev.wr_canon (foldl_canon (fun _ _ h => Dev.inc_canon h ..) h) ..) ..) ..)

theorem Dev.doSeal_canon {d : Dev} (h : d.Canon) : d.doSeal.Canon :=
  Dev.raiseEvent_canon (Dev.endReset_canon (Dev.wr_canon (Dev.setStage_canon (Dev.wr_canon (foldl_canon (fun _ _ h => Dev.wr_canon h ..)
    (Dev.enterHarts_canon (Dev.perchesOn_canon (Dev.raiseFloor_canon h)))) ..) ..) ..)) ..

theorem Dev.bootRestart_canon {d : Dev} (h : d.Canon) (b : Board) : (d.bootRestart b).Canon := by
  unfold Dev.bootRestart
  grind only [Dev.clearRegs_canon, Dev.unitsOff_canon, Dev.wr_canon, Dev.bootStart_canon, Dev.updBoot_canon, Dev.setStage_canon, Dev.canon_iff]

theorem Dev.drainStewards_canon {d : Dev} (h : d.Canon) : d.drainStewards.Canon :=
  foldl_canon (fun _ _ h => ite_canon h (Dev.recallClean_canon h ..)) h

theorem Dev.drainCaches_canon {d : Dev} (h : d.Canon) : d.drainCaches.Canon :=
  Dev.settle_canon (foldl_canon (fun _ _ h => Dev.wcbIssue_canon h ..) (foldl_canon (fun _ _ h => foldl_canon (fun _ _ h => ite_canon
    (Dev.wcbPut_canon h ..) h) h) h))

theorem Dev.spadsOpen_canon {d : Dev} (h : d.Canon) : d.spadsOpen.Canon := by
  unfold Dev.spadsOpen
  grind only [Dev.freeBytes_canon, Dev.spadWrite_canon, foldl_canon]

theorem Dev.resetBegin_canon {d : Dev} (h : d.Canon) : d.resetBegin.Canon :=
  Dev.updHif_canon (Dev.wr_canon (Dev.wr_canon (Dev.updBoot_canon (Dev.wr_canon (Dev.wr_canon (Dev.raiseEvent_canon (Dev.setStage_canon (Dev.wr_canon
    h ..) ..) ..) ..) ..) ..) ..) ..) ..

theorem Dev.resetSave_canon {d : Dev} (h : d.Canon) : d.resetSave.Canon := by
  unfold Dev.resetSave
  grind only [Dev.dumpBegin_canon, Dev.takeSamples_canon, Dev.drainCaches_canon, Dev.drainStewards_canon, Dev.dumpUnitsFrom_canon]

theorem Dev.resetClear_canon {d : Dev} (h : d.Canon) : d.resetClear.Canon := by
  unfold Dev.resetClear
  grind only [Dev.unitsOff_canon, Dev.spadsOpen_canon, Dev.setPerch_canon, Dev.clearRegs_canon, Dev.wr_canon, Dev.setStage_canon, Dev.canon_iff,
    foldl_canon]

theorem Dev.resetSealed_canon {d : Dev} (h : d.Canon) (b : Board) : (d.resetSealed b).Canon :=
  Dev.bootStart_canon (Dev.resetClear_canon (Dev.resetSave_canon (Dev.resetBegin_canon h))) ..

theorem Dev.deviceReset_canon {d : Dev} (h : d.Canon) (b : Board) : (d.deviceReset b).Canon :=
  ite_canon h (ite_canon (Dev.resetSealed_canon h ..) (Dev.bootRestart_canon h ..))

/-! ### Machine/BootCmds -/

theorem Dev.fresh_canon {d : Dev} (h : d.Canon) : d.fresh.Canon := ⟨Memory.wf_reset, rfl, rfl, h.flash⟩

theorem Dev.coldStart_canon {d : Dev} (h : d.Canon) (b : Board) : (d.coldStart b).Canon :=
  ite_canon (Dev.bootStart_canon (Dev.setStage_canon (Dev.updBoot_canon (Dev.applyFuses_canon (Dev.fresh_canon h)) ..) ..) ..) (Dev.updBoot_canon
    (Dev.applyFuses_canon (Dev.fresh_canon h)) ..)

/-! ### Machine/LeagueCmds -/

theorem Dev.peerPortDown_canon {d : Dev} (h : d.Canon) (plane id : Nat) : (d.peerPortDown plane id).Canon :=
  Dev.setPlanes_canon (Dev.updLeague_canon h ..) ..

/-! ### Machine/PinCmds -/

theorem Dev.sbView_canon {d : Dev} (h : d.Canon) (die off : Nat) : (d.sbView die off).2.Canon := by
  unfold Dev.sbView
  grind only [Dev.viewAsk_canon]

theorem Dev.sbReply_canon {d : Dev} (h : d.Canon) (b : List Byte) : (d.sbReply b).Canon :=
  ite_canon (Dev.emit_canon h ..) h

end Sys2Proof.Machine
end

