-- ==== Sys2Proof/Proofs/CanonSteps.lean ====
section
/-! One rule for each command, and the invariant of a step (O6). -/

namespace Sys2Proof.Machine

theorem execColdStart_inv {s : State} (h : s.Inv) (b : Board) : NextInv (execColdStart b s) :=
  State.onPower_inv h fun _ h => Dev.coldStart_canon h ..

theorem execPwrGoodDeassert_inv {s : State} (h : s.Inv) (widthNs : Nat) : NextInv (execPwrGoodDeassert widthNs s) :=
  State.onPower_inv h fun _ h => ite_canon h ⟨Memory.wf_reset, rfl, rfl, h.flash⟩

theorem execEdgeTrained_inv {s : State} (h : s.Inv) (e : EdgeEvidence) : NextInv (execEdgeTrained e s) :=
  State.onDev_inv h fun _ h => ite_canon (Dev.bootDiscover_canon (Dev.updBoot_canon h ..)) h

theorem execEdgeTrainTimeout_inv {s : State} (h : s.Inv) (site port : Nat) : NextInv (execEdgeTrainTimeout site port s) :=
  State.onDev_inv h fun _ h => ite_canon (Dev.bootDiscover_canon (Dev.updBoot_canon h ..)) h

theorem execBootStepTimeout_inv {s : State} (h : s.Inv) (step : Nat) : NextInv (execBootStepTimeout step s) :=
  State.onDev_inv h fun _ h => ite_canon h (ite_canon (Dev.bootHalt_canon h ..) (ite_canon (Dev.bootHalt_canon h ..) (ite_canon (Dev.bootHalt_canon
    h ..) h)))

theorem execTickAcquireTimeout_inv {s : State} (h : s.Inv) : NextInv (execTickAcquireTimeout s) :=
  State.onDev_inv h fun _ h => ite_canon h (ite_canon (Dev.bootHalt_canon h ..) (Dev.tickEnter_canon h ..))

theorem execJoinWaitExpiry_inv {s : State} (h : s.Inv) : NextInv (execJoinWaitExpiry s) :=
  State.onDev_inv h fun _ h => ite_canon h (ite_canon (Dev.bootHalt_canon h ..) (Dev.updLeague_canon h ..))

theorem execLeagueSealTimeout_inv {s : State} (h : s.Inv) : NextInv (execLeagueSealTimeout s) :=
  State.onDev_inv h fun _ h => ite_canon (Dev.bootHalt_canon h ..) h

theorem execSeal_inv {s : State} (h : s.Inv) : NextInv (execSeal s) :=
  State.onDev_inv h fun _ h => ite_canon (Dev.doSeal_canon h) h

theorem execTickBoundary_inv {s : State} (h : s.Inv) (o : BoundaryObs) : NextInv (execTickBoundary o s) :=
  State.onDev_inv h fun _ h => ite_canon h (Dev.boundary_canon h ..)

theorem execTickInPulse_inv {s : State} (h : s.Inv) (offsetNs : Int) (widthNs : Nat) : NextInv (execTickInPulse offsetNs widthNs s) := by
  refine State.onDev_inv h fun d h => ?_
  grind only [Dev.timingEdge_canon, Dev.updGen_canon]

theorem execPpsEdge_inv {s : State} (h : s.Inv) (offsetNs : Int) : NextInv (execPpsEdge offsetNs s) := by
  refine State.onDev_inv h fun d h => ?_
  grind only [Dev.timingEdge_canon, Dev.ppsAccept_canon]

theorem execHoldoverExpiry_inv {s : State} (h : s.Inv) : NextInv (execHoldoverExpiry s) :=
  State.onDev_inv h fun _ h => ite_canon (Dev.wr_canon (Dev.tickEnter_canon h ..) ..) h

theorem execAvsConfirm_inv {s : State} (h : s.Inv) (die : Nat) : NextInv (execAvsConfirm die s) :=
  State.onDev_inv h fun _ h => Dev.avsConfirm_canon h ..

theorem execAvsRiseLate_inv {s : State} (h : s.Inv) (die : Nat) : NextInv (execAvsRiseLate die s) :=
  State.onDev_inv h fun _ h => ite_canon (Dev.stopDie_canon (Dev.updPower_canon (Dev.inc_canon h ..) ..) ..) h

theorem execThermalTrip_inv {s : State} (h : s.Inv) (cause die : Nat) : NextInv (execThermalTrip cause die s) :=
  State.onDev_inv h fun _ h => ite_canon (Dev.stopAll_canon (Dev.wr_canon h ..)) h

theorem execEthrefLoss_inv {s : State} (h : s.Inv) (durationNs : Nat) : NextInv (execEthrefLoss durationNs s) :=
  State.onDev_inv h fun _ h => ite_canon h (Dev.stopAll_canon h)

theorem execDieClockLoss_inv {s : State} (h : s.Inv) (die : Nat) : NextInv (execDieClockLoss die s) :=
  State.onDev_inv h fun _ h => ite_canon (Dev.stopAll_canon h) (ite_canon (Dev.stopDie_canon h ..) h)

theorem execSpanStart_inv {s : State} (h : s.Inv) (span : Nat) (perch : PerchStart) : NextInv (execSpanStart span perch s) :=
  State.onDev_inv h fun _ h => Dev.spanStart_canon h ..

theorem execSpanLateStart_inv {s : State} (h : s.Inv) (span : Nat) (perch : PerchStart) : NextInv (execSpanLateStart span perch s) := by
  refine State.onDev_inv h fun d h => ?_
  grind only [Dev.spanStart_canon, Dev.countLate_canon, Dev.toTime_canon]

theorem execSpanend_inv {s : State} (h : s.Inv) (perch : Nat) : NextInv (execSpanend perch s) :=
  State.onDev_inv h fun _ h => ite_canon (Dev.xExec_canon h ..) h

theorem execBudgetExpiry_inv {s : State} (h : s.Inv) (perch : Nat) : NextInv (execBudgetExpiry perch s) :=
  State.onDev_inv h fun _ h => ite_canon (Dev.spanEnds_canon h ..) h

theorem execDisplacement_inv {s : State} (h : s.Inv) (perch : Nat) : NextInv (execDisplacement perch s) :=
  State.onDev_inv h fun _ h => ite_canon (Dev.spanEnds_canon h ..) h

theorem execSpanStatusRecord_inv {s : State} (h : s.Inv) (span : Nat) : NextInv (execSpanStatusRecord span s) :=
  State.onDev_inv h fun _ h => Dev.statusRecord_canon h ..

theorem execSpanWarning_inv {s : State} (h : s.Inv) (perch : Nat) : NextInv (execSpanWarning perch s) :=
  State.onDev_inv h fun _ h => ite_canon (Dev.updPerch_canon (Dev.passNs_canon h ..) ..) h

theorem execPerchGate_inv {s : State} (h : s.Inv) (perch : Nat) : NextInv (execPerchGate perch s) :=
  State.onDev_inv h fun _ h => ite_canon (Dev.perchGate_canon h ..) h

theorem execPerchWake_inv {s : State} (h : s.Inv) (perch : Nat) : NextInv (execPerchWake perch s) :=
  State.onDev_inv h fun _ h => ite_canon (Dev.perchWake_canon h ..) h

theorem execSeqInstruction_inv {s : State} (h : s.Inv) (perch : Nat) (ecc : Ecc) : NextInv (execSeqInstruction perch ecc s) :=
  State.onDev_inv h fun _ h => Dev.seqStep_canon (Dev.perchFound_canon h ..) ..

theorem execPerchTrap_inv {s : State} (h : s.Inv) (perch : Nat) (cause tval : W32) : NextInv (execPerchTrap perch cause tval s) :=
  State.onDev_inv h fun _ h => ite_canon (Dev.seqTrap_canon h ..) h

theorem execPerchMret_inv {s : State} (h : s.Inv) (perch : Nat) : NextInv (execPerchMret perch s) :=
  State.onDev_inv h fun _ h => ite_canon (Dev.updPerch_canon h ..) h

theorem execPspanwarnWrite_inv {s : State} (h : s.Inv) (perch : Nat) (value : W32) : NextInv (execPspanwarnWrite perch value s) :=
  State.onDev_inv h fun _ h => ite_canon (Dev.updPerch_canon h ..) h

theorem execPerchFenceSc_inv {s : State} (h : s.Inv) (perch scope : Nat) : NextInv (execPerchFenceSc perch scope s) :=
  State.onDev_inv h fun _ h => Dev.issueX_canon h ..

theorem execCwait_inv {s : State} (h : s.Inv) (perch ctr rs1 rd : Nat) : NextInv (execCwait perch ctr rs1 rd s) :=
  State.onDev_inv h fun _ h => Dev.issueX_canon h ..

theorem execCwaitSatisfied_inv {s : State} (h : s.Inv) (perch : Nat) : NextInv (execCwaitSatisfied perch s) := by
  refine State.onDev_inv h fun d h => ?_
  grind only [Dev.xCwait_canon]

theorem execCread_inv {s : State} (h : s.Inv) (perch ctr rd inc : Nat) : NextInv (execCread perch ctr rd inc s) :=
  State.onDev_inv h fun _ h => Dev.issueCop_canon h ..

theorem execCset_inv {s : State} (h : s.Inv) (perch ctr rs1 rd inc : Nat) : NextInv (execCset perch ctr rs1 rd inc s) :=
  State.onDev_inv h fun _ h => Dev.issueCop_canon h ..

theorem execCadd_inv {s : State} (h : s.Inv) (perch ctr rs1 rd inc : Nat) : NextInv (execCadd perch ctr rs1 rd inc s) :=
  State.onDev_inv h fun _ h => Dev.issueCop_canon h ..

theorem execDmaq_inv {s : State} (h : s.Inv) (perch ctx rs1 rd : Nat) : NextInv (execDmaq perch ctx rs1 rd s) :=
  State.onDev_inv h fun _ h => Dev.issueX_canon h ..

theorem execDmactlStatus_inv {s : State} (h : s.Inv) (perch ctx rd : Nat) : NextInv (execDmactlStatus perch ctx rd s) :=
  State.onDev_inv h fun _ h => Dev.issueX_canon h ..

theorem execDmactlAbort_inv {s : State} (h : s.Inv) (perch ctx rd : Nat) : NextInv (execDmactlAbort perch ctx rd s) :=
  State.onDev_inv h fun _ h => Dev.issueX_canon h ..

theorem execDmactlWaitidle_inv {s : State} (h : s.Inv) (perch ctx rd : Nat) : NextInv (execDmactlWaitidle perch ctx rd s) :=
  State.onDev_inv h fun _ h => Dev.issueX_canon h ..

theorem execDmaDescriptorStart_inv {s : State} (h : s.Inv) (perch ctx : Nat) (ext : Ext) (ecc : Ecc) :
    NextInv (execDmaDescriptorStart perch ctx ext ecc s) :=
  State.onDev_inv h fun _ h => Dev.descriptorStart_canon (Dev.perchFound_canon h ..) ..

theorem execDmaDescriptorComplete_inv {s : State} (h : s.Inv) (perch ctx : Nat) : NextInv (execDmaDescriptorComplete perch ctx s) :=
  State.onDev_inv h fun _ h => Dev.descriptorComplete_canon h ..

theorem execArrivalIncrement_inv {s : State} (h : s.Inv) (perch ctx : Nat) : NextInv (execArrivalIncrement perch ctx s) :=
  State.onDev_inv h fun _ h => Dev.arrivalIncrement_canon h ..

theorem execScopSend_inv {s : State} (h : s.Inv) (perch ep rs1 rs2 rd : Nat) : NextInv (execScopSend perch ep rs1 rs2 rd s) :=
  State.onDev_inv h fun _ h => Dev.issueX_canon h ..

theorem execScopAck_inv {s : State} (h : s.Inv) (perch ep rs2 rd : Nat) : NextInv (execScopAck perch ep rs2 rd s) :=
  State.onDev_inv h fun _ h => Dev.issueX_canon h ..

theorem execScopStatus_inv {s : State} (h : s.Inv) (perch ep rd : Nat) : NextInv (execScopStatus perch ep rd s) :=
  State.onDev_inv h fun _ h => Dev.issueX_canon h ..

theorem execChannelMessageArrival_inv {s : State} (h : s.Inv) (perch ep : Nat) : NextInv (execChannelMessageArrival perch ep s) :=
  State.onDev_inv h fun _ h => Dev.messageArrival_canon h ..

theorem execChannelSourceRelease_inv {s : State} (h : s.Inv) (perch ep : Nat) : NextInv (execChannelSourceRelease perch ep s) :=
  State.onDev_inv h fun _ h => Dev.sourceRelease_canon h ..

theorem execChannelCreditArrival_inv {s : State} (h : s.Inv) (perch ep : Nat) : NextInv (execChannelCreditArrival perch ep s) :=
  State.onDev_inv h fun _ h => Dev.creditArrival_canon h ..

theorem execMld_inv {s : State} (h : s.Inv) (perch fmt : Nat) (wscaled : Bool) (rs1 rs2 : Nat) : NextInv (execMld perch fmt wscaled rs1 rs2 s) :=
  State.onDev_inv h fun _ h => Dev.issueX_canon h ..

theorem execMxm_inv {s : State} (h : s.Inv) (perch fmt : Nat) (acc zfill scaled : Bool) (rs1 rs2 rd : Nat) :
    NextInv (execMxm perch fmt acc zfill scaled rs1 rs2 rd s) :=
  State.onDev_inv h fun _ h => Dev.issueX_canon h ..

theorem execMwaitPasses_inv {s : State} (h : s.Inv) (perch rd : Nat) : NextInv (execMwaitPasses perch rd s) :=
  State.onDev_inv h fun _ h => Dev.issueX_canon h ..

theorem execMwaitLoads_inv {s : State} (h : s.Inv) (perch rd : Nat) : NextInv (execMwaitLoads perch rd s) :=
  State.onDev_inv h fun _ h => Dev.issueX_canon h ..

theorem execArrayLoadStart_inv {s : State} (h : s.Inv) (perch : Nat) : NextInv (execArrayLoadStart perch s) :=
  State.onDev_inv h fun _ h => Dev.arrayLoad_canon h ..

theorem execArrayPassStart_inv {s : State} (h : s.Inv) (perch : Nat) (stallCycles : PassFeed) : NextInv (execArrayPassStart perch stallCycles s) :=
  State.onDev_inv h fun _ h => Dev.arrayPass_canon h ..

theorem execArrayPassComplete_inv {s : State} (h : s.Inv) (perch : Nat) : NextInv (execArrayPassComplete perch s) :=
  State.onDev_inv h fun _ h => Dev.passComplete_canon h ..

theorem execKeeperWindowExpiry_inv {s : State} (h : s.Inv) (perch : Nat) : NextInv (execKeeperWindowExpiry perch s) :=
  State.onDev_inv h fun _ h => Dev.keeperStep_canon h ..

theorem execArrayRampDownStep_inv {s : State} (h : s.Inv) (perch : Nat) : NextInv (execArrayRampDownStep perch s) :=
  State.onDev_inv h fun _ h => Dev.keeperStep_canon h ..

theorem execArrayRampUpStep_inv {s : State} (h : s.Inv) (perch : Nat) : NextInv (execArrayRampUpStep perch s) :=
  State.onDev_inv h fun _ h => Dev.keeperStep_canon h ..

theorem execVxncvt_inv {s : State} (h : s.Inv) (perch : Nat) (f : VxFields) : NextInv (execVxncvt perch f s) :=
  State.onDev_inv h fun _ h => Dev.issueX_canon h ..

theorem execVxncvts_inv {s : State} (h : s.Inv) (perch : Nat) (f : VxFields) : NextInv (execVxncvts perch f s) :=
  State.onDev_inv h fun _ h => Dev.issueX_canon h ..

theorem execVxwcvt_inv {s : State} (h : s.Inv) (perch : Nat) (f : VxFields) : NextInv (execVxwcvt perch f s) :=
  State.onDev_inv h fun _ h => Dev.issueX_canon h ..

theorem execVxwcvts_inv {s : State} (h : s.Inv) (perch : Nat) (f : VxFields) : NextInv (execVxwcvts perch f s) :=
  State.onDev_inv h fun _ h => Dev.issueX_canon h ..

theorem execVxmaxsc_inv {s : State} (h : s.Inv) (perch : Nat) (f : VxFields) : NextInv (execVxmaxsc perch f s) :=
  State.onDev_inv h fun _ h => Dev.issueX_canon h ..

theorem execHomeWrite_inv {s : State} (h : s.Inv) (r : HomeReq) (data : List Byte) (poison : Bool) : NextInv (execHomeWrite r data poison s) :=
  State.onDev_inv h fun _ h => Dev.homeRequest_canon h ..

theorem execHomeRead_inv {s : State} (h : s.Inv) (r : HomeReq) (len : Nat) (ecc : Ecc) : NextInv (execHomeRead r len ecc s) :=
  State.onDev_inv h fun _ h => Dev.homeRequest_canon (Dev.found_canon h ..) ..

theorem execHomeAtomic_inv {s : State} (h : s.Inv) (r : HomeReq) (op : AmoOp) (width : Nat) (operand compare : W64) :
    NextInv (execHomeAtomic r op width operand compare s) :=
  State.onDev_inv h fun _ h => ite_canon (Dev.homeRequest_canon h ..) h

theorem execWcbEntryTimeout_inv {s : State} (h : s.Inv) (die channel line : Nat) : NextInv (execWcbEntryTimeout die channel line s) := by
  refine State.onDev_inv h fun d h => ?_
  grind only [Dev.settle_canon, Dev.wcbIssue_canon]

theorem execWcbEntryIssue_inv {s : State} (h : s.Inv) (die channel line : Nat) : NextInv (execWcbEntryIssue die channel line s) := by
  refine State.onDev_inv h fun d h => ?_
  grind only [Dev.settle_canon, Dev.wcbIssue_canon]

theorem execChainCacheFill_inv {s : State} (h : s.Inv) (die chain line : Nat) : NextInv (execChainCacheFill die chain line s) :=
  State.onDev_inv h fun _ h => Dev.chainFill_canon h ..

theorem execWayDisable_inv {s : State} (h : s.Inv) (c : CacheId) (way : Nat) : NextInv (execWayDisable c way s) := by
  refine State.onDev_inv h fun d h => ?_
  grind only [Dev.raiseErr_canon, Dev.settle_canon, Dev.stewDropWay_canon, Dev.markWay_canon, Dev.syscDropWay_canon, Dev.setChain_canon,
    Dev.canon_iff]

theorem execScrubRead_inv {s : State} (h : s.Inv) (die : Nat) (ecc : Ecc) : NextInv (execScrubRead die ecc s) := by
  refine State.onDev_inv h fun d h => ?_
  grind only [Dev.setFlaw_canon, Dev.settle_canon, Dev.dramRead_canon, Dev.incMod_canon, Dev.inc_canon, Dev.wr_canon, Dev.canon_iff]

theorem execMoveCopy_inv {s : State} (h : s.Inv) (die entry : Nat) (ext : Ext) : NextInv (execMoveCopy die entry ext s) :=
  State.onDev_inv h fun _ h => Dev.moveBegin_canon h _ _ _ fun _ _ _ h => Dev.moveWhole_canon h ..

theorem execMoveZero_inv {s : State} (h : s.Inv) (die entry : Nat) : NextInv (execMoveZero die entry s) :=
  State.onDev_inv h fun _ h => Dev.moveBegin_canon h _ _ _ fun _ _ _ h => Dev.moveWhole_canon h ..

theorem execMoveKvIn_inv {s : State} (h : s.Inv) (die entry : Nat) : NextInv (execMoveKvIn die entry s) :=
  State.onDev_inv h fun _ h => Dev.moveBegin_canon h _ _ _ fun _ _ _ h => Dev.kvRun_canon h ..

theorem execMoveKvOut_inv {s : State} (h : s.Inv) (die entry : Nat) : NextInv (execMoveKvOut die entry s) :=
  State.onDev_inv h fun _ h => Dev.moveBegin_canon h _ _ _ fun _ _ _ h => Dev.kvRun_canon h ..

theorem execMoveNvmeRd_inv {s : State} (h : s.Inv) (die entry : Nat) : NextInv (execMoveNvmeRd die entry s) :=
  State.onDev_inv h fun _ h => Dev.moveBegin_canon h _ _ _ fun _ _ _ h => h

theorem execMoveNvmeWr_inv {s : State} (h : s.Inv) (die entry : Nat) : NextInv (execMoveNvmeWr die entry s) :=
  State.onDev_inv h fun _ h => Dev.moveBegin_canon h _ _ _ fun _ _ _ h => h

theorem execMoveEntryDone_inv {s : State} (h : s.Inv) (die entry atNs : Nat) : NextInv (execMoveEntryDone die entry atNs s) := by
  refine State.onDev_inv h fun d h => ?_
  grind only [Dev.toTime_canon, Dev.moveCut_canon, Dev.moveEnd_canon]

theorem execMoveTailAbort_inv {s : State} (h : s.Inv) (die : Nat) : NextInv (execMoveTailAbort die s) :=
  State.onDev_inv h fun _ h => ite_canon h (foldl_canon (fun _ _ h => ite_canon h (Dev.moveCut_canon h ..)) (Dev.toTime_canon h ..))

theorem execOwnClaim_inv {s : State} (h : s.Inv) (part count page : Nat) : NextInv (execOwnClaim part count page s) :=
  State.onDev_inv h fun _ h => Dev.ownCommand_canon h ..

theorem execOwnRelease_inv {s : State} (h : s.Inv) (part count page : Nat) : NextInv (execOwnRelease part count page s) :=
  State.onDev_inv h fun _ h => Dev.ownCommand_canon h ..

theorem execOwnReleaseComplete_inv {s : State} (h : s.Inv) : NextInv (execOwnReleaseComplete s) :=
  State.onDev_inv h fun _ h => Dev.ownFinish_canon h

theorem execPageWalkDone_inv {s : State} (h : s.Inv) (die unit req part dva access : Nat) :
    NextInv (execPageWalkDone die unit req part dva access s) := by
  refine State.onDev_inv h fun d h => ?_
  grind only [Dev.translate_canon]

theorem execMmuInvRange_inv {s : State} (h : s.Inv) (part count : Nat) : NextInv (execMmuInvRange part count s) :=
  State.onDev_inv h fun _ h => Dev.invCommand_canon h ..

theorem execMmuInvPartition_inv {s : State} (h : s.Inv) (part : Nat) : NextInv (execMmuInvPartition part s) :=
  State.onDev_inv h fun _ h => Dev.invCommand_canon h ..

theorem execMmuInvComplete_inv {s : State} (h : s.Inv) : NextInv (execMmuInvComplete s) := by
  refine State.onDev_inv h fun d h => ?_
  grind only [Dev.invFinish_canon]

theorem execCollPost_inv {s : State} (h : s.Inv) (coll member : Nat) : NextInv (execCollPost coll member s) := by
  refine State.onDev_inv h fun d h => ?_
  grind only [Dev.collPost_canon]

theorem execCollMemberComplete_inv {s : State} (h : s.Inv) (coll k member : Nat) : NextInv (execCollMemberComplete coll k member s) := by
  refine State.onDev_inv h fun d h => ?_
  grind only [Dev.collLoad_canon, Dev.collComplete_canon]

theorem execCollDeadline_inv {s : State} (h : s.Inv) (coll k : Nat) : NextInv (execCollDeadline coll k s) := by
  refine State.onDev_inv h fun d h => ?_
  grind only [Dev.toTime_canon, Dev.collMiss_canon]

theorem execCollTimeout_inv {s : State} (h : s.Inv) (coll k : Nat) : NextInv (execCollTimeout coll k s) := by
  refine State.onDev_inv h fun d h => ?_
  split
  · exact h
  · have ht := Dev.toTime_canon h (d.sched.period * 1000 - 20000)
    exact ite_canon ht (ite_canon (Dev.collFail_canon ht ..) (foldl_canon (fun _ _ h => ite_canon (Dev.collFail_canon h ..) h) ht))

theorem execLinkPortTrain_inv {s : State} (h : s.Inv) (die port : Nat) (lanes : List Bool) (rttNs : Nat) :
    NextInv (execLinkPortTrain die port lanes rttNs s) := by
  refine State.onDev_inv h fun d h => ?_
  grind only [Dev.portWr_canon, Dev.sendIdent_canon, Dev.linkEvent_canon]

theorem execIdentReceive_inv {s : State} (h : s.Inv) (die port : Nat) (rec : Ident) : NextInv (execIdentReceive die port rec s) := by
  refine State.onDev_inv h fun d h => ?_
  grind only [Dev.takeIdent_canon]

theorem execIdentResend_inv {s : State} (h : s.Inv) (die port : Nat) : NextInv (execIdentResend die port s) := by
  refine State.onDev_inv h fun d h => ?_
  grind only [Dev.sendIdent_canon]

theorem execFlitReplay_inv {s : State} (h : s.Inv) (die port fecCorrected : Nat) : NextInv (execFlitReplay die port fecCorrected s) := by
  refine State.onDev_inv h fun d h => ?_
  grind only [Dev.portWr_canon]

theorem execLinkFence_inv {s : State} (h : s.Inv) (die port : Nat) : NextInv (execLinkFence die port s) := by
  refine State.onDev_inv h fun d h => ?_
  grind only [Dev.portGone_canon, Dev.portWr_canon]

theorem execLinkRetrainDone_inv {s : State} (h : s.Inv) (die port : Nat) (rec : Ident) : NextInv (execLinkRetrainDone die port rec s) := by
  refine State.onDev_inv h fun d h => ?_
  grind only [Dev.portWr_canon, Dev.sendIdent_canon, Dev.portUp_canon, Dev.noteIdent_canon, Dev.takeIdent_canon]

theorem execLinkRead_inv {s : State} (h : s.Inv) (die port : Nat) (p : Packet) : NextInv (execLinkRead die port p s) :=
  State.onDev_inv h fun _ h => Dev.receive_canon h _ _ _ _ fun _ _ h => ite_canon (Dev.takePeer_canon h ..) h

theorem execLinkWrite_inv {s : State} (h : s.Inv) (die port : Nat) (p : Packet) : NextInv (execLinkWrite die port p s) :=
  State.onDev_inv h fun _ h => Dev.receive_canon h _ _ _ _ fun _ _ h => ite_canon (Dev.takePeer_canon h ..) h

theorem execLinkAtomic_inv {s : State} (h : s.Inv) (die port : Nat) (p : Packet) : NextInv (execLinkAtomic die port p s) :=
  State.onDev_inv h fun _ h => Dev.receive_canon h _ _ _ _ fun _ _ h => ite_canon (Dev.takePeer_canon h ..) h

theorem execReadRsp_inv {s : State} (h : s.Inv) (die port : Nat) (p : Packet) : NextInv (execReadRsp die port p s) :=
  State.onDev_inv h fun _ h => Dev.receive_canon h _ _ _ _ fun _ _ h => Dev.takeData_canon h ..

theorem execWriteAck_inv {s : State} (h : s.Inv) (die port : Nat) (p : Packet) : NextInv (execWriteAck die port p s) :=
  State.onDev_inv h fun _ h => Dev.receive_canon h _ _ _ _ fun _ _ h => Dev.takeAck_canon h ..

theorem execAtomicRsp_inv {s : State} (h : s.Inv) (die port : Nat) (p : Packet) : NextInv (execAtomicRsp die port p s) :=
  State.onDev_inv h fun _ h => Dev.receive_canon h _ _ _ _ fun _ _ h => Dev.takeData_canon h ..

theorem execCollData_inv {s : State} (h : s.Inv) (die port : Nat) (p : Packet) : NextInv (execCollData die port p s) :=
  State.onDev_inv h fun _ h => Dev.receive_canon h _ _ _ _ fun _ _ h => Dev.takeColl_canon h ..

theorem execCollCtrl_inv {s : State} (h : s.Inv) (die port : Nat) (p : Packet) : NextInv (execCollCtrl die port p s) :=
  State.onDev_inv h fun _ h => Dev.receive_canon h _ _ _ _ fun _ _ h => Dev.takeCollCtrl_canon h ..

theorem execBeacon_inv {s : State} (h : s.Inv) (plane : Nat) (offsetNs : Int) (m : BeaconMsg) : NextInv (execBeacon plane offsetNs m s) :=
  State.onDev_inv h fun _ h => ite_canon (Dev.takeBeacon_canon h ..) h

theorem execBeaconAck_inv {s : State} (h : s.Inv) (plane : Nat) (m : BeaconAckMsg) : NextInv (execBeaconAck plane m s) :=
  State.onDev_inv h fun _ h => ite_canon (Dev.takeAckOf_canon h ..) h

theorem execMgmt_inv {s : State} (h : s.Inv) (plane : Nat) (m : MgmtMsg) : NextInv (execMgmt plane m s) :=
  State.onDev_inv h fun _ h => ite_canon (Dev.takeMgmt_canon h ..) h

theorem execJoin_inv {s : State} (h : s.Inv) (plane : Nat) (m : JoinReq) : NextInv (execJoin plane m s) :=
  State.onDev_inv h fun _ h => ite_canon (Dev.takeJoin_canon h ..) h

theorem execJoinGrant_inv {s : State} (h : s.Inv) (plane : Nat) (m : JoinGrantMsg) : NextInv (execJoinGrant plane m s) :=
  State.onDev_inv h fun _ h => ite_canon (Dev.takeGrant_canon h ..) h

theorem execPortDown_inv {s : State} (h : s.Inv) (plane slot : Nat) : NextInv (execPortDown plane slot s) :=
  State.onDev_inv h fun _ h => ite_canon (foldl_canon (fun _ _ h => Dev.peerPortDown_canon h ..) h) h

theorem execEpochSet_inv {s : State} (h : s.Inv) (plane gen : Nat) (entries : List RouteEntry) : NextInv (execEpochSet plane gen entries s) :=
  State.onDev_inv h fun _ h => ite_canon (Dev.takeEntries_canon (Dev.wr_canon h ..) ..) h

theorem execRemoteWriteLost_inv {s : State} (h : s.Inv) (tag : Nat) : NextInv (execRemoteWriteLost tag s) := by
  refine State.onDev_inv h fun d h => ?_
  grind only [Dev.opLost_canon]

theorem execBeaconMiss_inv {s : State} (h : s.Inv) : NextInv (execBeaconMiss s) :=
  State.onDev_inv h fun _ h => ite_canon (Dev.wr_canon (Dev.updLeague_canon (Dev.toTime_canon h ..) ..) ..) h

theorem execPackageLost_inv {s : State} (h : s.Inv) (pkg : Nat) : NextInv (execPackageLost pkg s) :=
  State.onDev_inv h fun _ h => ite_canon (Dev.packageLost_canon h ..) h

theorem execEthFrameRx_inv {s : State} (h : s.Inv) (port arrivalNs : Nat) (frame : List Byte) : NextInv (execEthFrameRx port arrivalNs frame s) :=
  State.onDev_inv h fun _ h => ite_canon (Dev.frameIn_canon (Dev.toTime_canon h ..) ..) h

theorem execSlotClose_inv {s : State} (h : s.Inv) (flow tick : Nat) : NextInv (execSlotClose flow tick s) :=
  State.onDev_inv h fun _ h => Dev.closeSlot_canon h ..

theorem execEgressRelease_inv {s : State} (h : s.Inv) (flow : Nat) : NextInv (execEgressRelease flow s) :=
  State.onDev_inv h fun _ h => Dev.egressRelease_canon h ..

theorem execPacedSend_inv {s : State} (h : s.Inv) (flow cell lateNs : Nat) : NextInv (execPacedSend flow cell lateNs s) :=
  State.onDev_inv h fun _ h => Dev.pacedSend_canon h ..

theorem execExcRingTx_inv {s : State} (h : s.Inv) (port : Nat) (frame : List Byte) : NextInv (execExcRingTx port frame s) :=
  State.onDev_inv h fun _ h => ite_canon (Dev.emit_canon h ..) h

theorem execFlowEnable_inv {s : State} (h : s.Inv) (flow : Nat) : NextInv (execFlowEnable flow s) :=
  State.onDev_inv h fun _ h => Dev.flowCommand_canon h ..

theorem execFlowDisable_inv {s : State} (h : s.Inv) (flow : Nat) : NextInv (execFlowDisable flow s) :=
  State.onDev_inv h fun _ h => Dev.flowCommand_canon h ..

theorem execFlowRekey_inv {s : State} (h : s.Inv) (flow key : Nat) : NextInv (execFlowRekey flow key s) :=
  State.onDev_inv h fun _ h => Dev.flowCommand_canon h ..

theorem execFlowReanchor_inv {s : State} (h : s.Inv) (flow : Nat) : NextInv (execFlowReanchor flow s) :=
  State.onDev_inv h fun _ h => Dev.flowCommand_canon h ..

theorem execKeyLoad_inv {s : State} (h : s.Inv) (key : Nat) (long : Bool) : NextInv (execKeyLoad key long s) :=
  State.onDev_inv h fun _ h => Dev.loadKey_canon h ..

theorem execNvmeCommandIssue_inv {s : State} (h : s.Inv) (port entry : Nat) (write : Bool) (lba bytes dva : Nat) :
    NextInv (execNvmeCommandIssue port entry write lba bytes dva s) := by
  refine State.onDev_inv h fun d h => ?_
  grind only [Dev.translateRange_canon, Dev.moveFail_canon, Dev.readTargets_canon, Dev.setNvPort_canon, Dev.emit_canon, Dev.setMove_canon]

theorem execNvmeCommandComplete_inv {s : State} (h : s.Inv) (port cid : Nat) (ok : Bool) (ext : Ext) :
    NextInv (execNvmeCommandComplete port cid ok ext s) := by
  refine State.onDev_inv h fun d h => ?_
  grind only [Dev.dropCmd_canon, Dev.landNvme_canon, Dev.inc_canon, Dev.moveFail_canon, Dev.setMove_canon]

theorem execNvmeAbortTimeout_inv {s : State} (h : s.Inv) (port cid : Nat) : NextInv (execNvmeAbortTimeout port cid s) := by
  refine State.onDev_inv h fun d h => ?_
  grind only [Dev.setNvPort_canon, Dev.emit_canon, Dev.inc_canon, Dev.moveFail_canon]

theorem execNvmeControllerReset_inv {s : State} (h : s.Inv) (port : Nat) (recovered : Bool) : NextInv (execNvmeControllerReset port recovered s) :=
  State.onDev_inv h fun _ h => ite_canon h (Dev.aplic_canon (Dev.wr_canon (Dev.raiseErr_canon (Dev.emit_canon (Dev.setNvPort_canon (foldl_canon (fun
    _ _ h => ite_canon h (Dev.moveFail_canon h ..)) h) ..) ..) ..) ..) ..)

theorem execStewardInstruction_inv {s : State} (h : s.Inv) (hart : Nat) (ext : Ext) : NextInv (execStewardInstruction hart ext s) :=
  State.onDev_inv h fun _ h => Dev.releaseFree_canon (Dev.stewardStep_canon h ..)

theorem execTwait_inv {s : State} (h : s.Inv) (hart : Nat) (next : Bool) (rs1 rd : Nat) : NextInv (execTwait hart next rs1 rd s) :=
  State.onDev_inv h fun _ h => Dev.hartDo_canon h _ fun _ h => Dev.hartTwait_canon h ..

theorem execStewardFenceSc_inv {s : State} (h : s.Inv) (hart scope : Nat) : NextInv (execStewardFenceSc hart scope s) :=
  State.onDev_inv h fun _ h => Dev.hartDo_canon h _ fun _ h => ite_canon (Dev.hartIllegal_canon h ..) (Dev.hartFence_canon h ..)

theorem execSpanq_inv {s : State} (h : s.Inv) (hart rs1 rd : Nat) : NextInv (execSpanq hart rs1 rd s) :=
  State.onDev_inv h fun _ h => Dev.hartDo_canon h _ fun _ h => Dev.hartRd_canon h ..

theorem execTread_inv {s : State} (h : s.Inv) (hart sel rd : Nat) : NextInv (execTread hart sel rd s) :=
  State.onDev_inv h fun _ h => Dev.hartDo_canon h _ fun _ h => ite_canon (Dev.hartIllegal_canon h ..) (Dev.hartRd_canon h ..)

theorem execSetipi_inv {s : State} (h : s.Inv) (hart rs1 identity : Nat) (supervisor : Bool) : NextInv (execSetipi hart rs1 identity supervisor s) :=
  State.onDev_inv h fun _ h => Dev.hartDo_canon h _ fun _ h => Dev.hartSetipi_canon h ..

theorem execMpartWrite_inv {s : State} (h : s.Inv) (hart : Nat) (value : W64) : NextInv (execMpartWrite hart value s) :=
  State.onDev_inv h fun _ h => Dev.hartDo_canon h _ fun _ h => Dev.hartCsrSet_canon h _ fun _ h => Dev.writeMpart_canon h ..

theorem execMliveWrite_inv {s : State} (h : s.Inv) (hart : Nat) (value : W64) : NextInv (execMliveWrite hart value s) :=
  State.onDev_inv h fun _ h => Dev.hartDo_canon h _ fun _ h => Dev.hartCsrSet_canon h _ fun _ h => Dev.writeMlive_canon h ..

theorem execMlosterrWrite_inv {s : State} (h : s.Inv) (hart : Nat) : NextInv (execMlosterrWrite hart s) :=
  State.onDev_inv h fun _ h => Dev.hartDo_canon h _ fun _ h => Dev.hartCsrSet_canon h _ fun _ h => Dev.writeMlosterr_canon h ..

theorem execMtimecmpxExpiry_inv {s : State} (h : s.Inv) (hart : Nat) (supervisor : Bool) : NextInv (execMtimecmpxExpiry hart supervisor s) :=
  State.onDev_inv h fun _ h => ite_canon (Dev.toTime_canon h ..) h

theorem execWfi_inv {s : State} (h : s.Inv) (hart : Nat) : NextInv (execWfi hart s) :=
  State.onDev_inv h fun _ h => Dev.hartDo_canon h _ fun _ h => Dev.hartWfi_canon h ..

theorem execCoreWake_inv {s : State} (h : s.Inv) (hart : Nat) : NextInv (execCoreWake hart s) :=
  State.onDev_inv h fun _ h => ite_canon (Dev.updHart_canon h ..) h

theorem execCboClean_inv {s : State} (h : s.Inv) (hart rs1 : Nat) : NextInv (execCboClean hart rs1 s) :=
  State.onDev_inv h fun _ h => Dev.hartDo_canon h _ fun _ h => Dev.hartCbo_canon h ..

theorem execCboFlush_inv {s : State} (h : s.Inv) (hart rs1 : Nat) : NextInv (execCboFlush hart rs1 s) :=
  State.onDev_inv h fun _ h => Dev.hartDo_canon h _ fun _ h => Dev.hartCbo_canon h ..

theorem execCboInval_inv {s : State} (h : s.Inv) (hart rs1 : Nat) : NextInv (execCboInval hart rs1 s) :=
  State.onDev_inv h fun _ h => Dev.hartDo_canon h _ fun _ h => Dev.hartCbo_canon h ..

theorem execStewardAmo_inv {s : State} (h : s.Inv) (hart : Nat) (op : AmoOp) (width rd rs1 rs2 : Nat) :
    NextInv (execStewardAmo hart op width rd rs1 rs2 s) :=
  State.onDev_inv h fun _ h => Dev.hartDo_canon h _ fun _ h => ite_canon (Dev.hartAmo_canon h ..) h

theorem execLoadReserved_inv {s : State} (h : s.Inv) (hart width rd rs1 : Nat) : NextInv (execLoadReserved hart width rd rs1 s) :=
  State.onDev_inv h fun _ h => Dev.hartDo_canon h _ fun _ h => ite_canon (Dev.hartLr_canon h ..) h

theorem execStoreConditional_inv {s : State} (h : s.Inv) (hart width rd rs1 rs2 : Nat) : NextInv (execStoreConditional hart width rd rs1 rs2 s) :=
  State.onDev_inv h fun _ h => Dev.hartDo_canon h _ fun _ h => ite_canon (Dev.hartSc_canon h ..) h

theorem execReservationTimeout_inv {s : State} (h : s.Inv) (hart : Nat) : NextInv (execReservationTimeout hart s) :=
  State.onDev_inv h fun _ h => ite_canon (Dev.releaseFree_canon (Dev.updHart_canon h ..)) h

theorem execSfenceVma_inv {s : State} (h : s.Inv) (hart rs1 rs2 : Nat) : NextInv (execSfenceVma hart rs1 rs2 s) :=
  State.onDev_inv h fun _ h => Dev.hartDo_canon h _ fun _ h => Dev.hartSfence_canon h ..

theorem execSbiPageMap_inv {s : State} (h : s.Inv) (hart : Nat) : NextInv (execSbiPageMap hart s) :=
  State.onDev_inv h fun _ h => Dev.sbiCall_canon h _ _ fun _ h => ite_canon h (Dev.pageMap_canon h ..)

theorem execSbiPageUnmap_inv {s : State} (h : s.Inv) (hart : Nat) : NextInv (execSbiPageUnmap hart s) :=
  State.onDev_inv h fun _ h => Dev.sbiCall_canon h _ _ fun _ h => ite_canon h (Dev.pageUnmap_canon h ..)

theorem execSbiFlowCmd_inv {s : State} (h : s.Inv) (hart : Nat) : NextInv (execSbiFlowCmd hart s) :=
  State.onDev_inv h fun _ h => Dev.sbiCall_canon h _ _ fun _ h => Dev.sbiFlow_canon h ..

theorem execSbiKeyLoad_inv {s : State} (h : s.Inv) (hart : Nat) : NextInv (execSbiKeyLoad hart s) :=
  State.onDev_inv h fun _ h => Dev.sbiCall_canon h _ _ fun _ h => Dev.sbiKey_canon h ..

theorem execBar0DieViewWrite_inv {s : State} (h : s.Inv) (offset size : Nat) (value : W64) : NextInv (execBar0DieViewWrite offset size value s) :=
  State.onDev_inv h fun _ h => Dev.bar0Write_canon h ..

theorem execBar4Read_inv {s : State} (h : s.Inv) (offset len : Nat) : NextInv (execBar4Read offset len s) := by
  refine State.onDev_inv h fun d h => ?_
  extract_lets ones
  refine ite_canon h (ite_canon (Dev.emit_canon h _) ?_)
  split
  · exact Dev.emit_canon (Dev.bar4Fault_canon h) _
  · extract_lets x
    split
    case h_1 e => exact Dev.emit_canon (Dev.bar4Fault_canon (canon_of_eq (Dev.translateRange_canon h ..) e)) _
    case h_2 ps d1 e =>
      have h1 : d1.Canon := canon_of_eq (Dev.translateRange_canon h ..) e
      clear e
      grind only [Dev.emit_canon, Dev.bar4Fault_canon, Dev.remoteReadOne_canon, Dev.dropRead_canon, Dev.freeBytes_canon, Dev.readLocal_canon,
        Dev.readPieces_canon]

theorem execBar4Write_inv {s : State} (h : s.Inv) (offset : Nat) (data : List Byte) (poison : Bool) :
    NextInv (execBar4Write offset data poison s) := by
  refine State.onDev_inv h fun d h => ?_
  grind only [Dev.bar4Fault_canon, Dev.translateRange_canon, Dev.putPieces_canon]

theorem execDoorbell_inv {s : State} (h : s.Inv) (queue : Nat) (value : W64) : NextInv (execDoorbell queue value s) :=
  State.onDev_inv h fun _ h => Dev.hifBell_canon h ..

theorem execCommandFetch_inv {s : State} (h : s.Inv) (queue : Nat) (slots : List (List Byte)) : NextInv (execCommandFetch queue slots s) :=
  State.onDev_inv h fun _ h => ite_canon (Dev.hifRead_canon h ..) h

theorem execCommandReread_inv {s : State} (h : s.Inv) (queue : Nat) (slots : List (List Byte)) : NextInv (execCommandReread queue slots s) :=
  State.onDev_inv h fun _ h => ite_canon (Dev.hifRead_canon h ..) h

theorem execNop_inv {s : State} (h : s.Inv) (queue : Nat) : NextInv (execNop queue s) :=
  State.onDev_inv h fun _ h => Dev.hifOp_canon h ..

theorem execFence_inv {s : State} (h : s.Inv) (queue : Nat) : NextInv (execFence queue s) :=
  State.onDev_inv h fun _ h => Dev.hifOp_canon h ..

theorem execWrite_inv {s : State} (h : s.Inv) (queue : Nat) : NextInv (execWrite queue s) :=
  State.onDev_inv h fun _ h => Dev.hifOp_canon h ..

theorem execCopy_inv {s : State} (h : s.Inv) (queue : Nat) (ext : Ext) : NextInv (execCopy queue ext s) :=
  State.onDev_inv h fun _ h => Dev.hifOp_canon h ..

theorem execFill_inv {s : State} (h : s.Inv) (queue : Nat) : NextInv (execFill queue s) :=
  State.onDev_inv h fun _ h => Dev.hifOp_canon h ..

theorem execAtomic_inv {s : State} (h : s.Inv) (queue : Nat) : NextInv (execAtomic queue s) :=
  State.onDev_inv h fun _ h => Dev.hifOp_canon h ..

theorem execRunComplete_inv {s : State} (h : s.Inv) (queue : RunRef) : NextInv (execRunComplete queue s) :=
  State.onDev_inv h fun _ h => Dev.runEnd_canon h ..

theorem execHostWindowEnd_inv {s : State} (h : s.Inv) (part : Nat) : NextInv (execHostWindowEnd part s) := by
  refine State.onDev_inv h fun d h => ?_
  grind only [Dev.toTime_canon, Dev.updHif_canon]

theorem execCompletionWrite_inv {s : State} (h : s.Inv) (queue : Nat) : NextInv (execCompletionWrite queue s) :=
  State.onDev_inv h fun _ h => Dev.hifComplete_canon h ..

theorem execMsixHoldoffExpiry_inv {s : State} (h : s.Inv) (queue : Nat) : NextInv (execMsixHoldoffExpiry queue s) :=
  State.onDev_inv h fun _ h => ite_canon h (ite_canon (Dev.sendVector_canon (Dev.updHq_canon h ..) ..) (Dev.updHq_canon h ..))

theorem execCqHeadWrite_inv {s : State} (h : s.Inv) (queue : Nat) (value : W64) : NextInv (execCqHeadWrite queue value s) :=
  State.onDev_inv h fun _ h => Dev.hifCqHead_canon h ..

theorem execQueueEnable_inv {s : State} (h : s.Inv) (queue holdoff depth sqBase cqBase : Nat) :
    NextInv (execQueueEnable queue holdoff depth sqBase cqBase s) :=
  State.onDev_inv h fun _ h => ite_canon h (Dev.hifEnable_canon (Dev.updHq_canon h ..) ..)

theorem execQueueDisable_inv {s : State} (h : s.Inv) (queue : Nat) : NextInv (execQueueDisable queue s) :=
  State.onDev_inv h fun _ h => Dev.hifDisable_canon h ..

theorem execQueueResume_inv {s : State} (h : s.Inv) (queue sqBase cqBase : Nat) : NextInv (execQueueResume queue sqBase cqBase s) :=
  State.onDev_inv h fun _ h => ite_canon h (Dev.hifResume_canon (Dev.updHq_canon h ..) ..)

theorem execQueueAbort_inv {s : State} (h : s.Inv) (queue : Nat) : NextInv (execQueueAbort queue s) :=
  State.onDev_inv h fun _ h => Dev.hifAbort_canon h ..

theorem execQueueAbortDone_inv {s : State} (h : s.Inv) (queue : Nat) : NextInv (execQueueAbortDone queue s) :=
  State.onDev_inv h fun _ h => Dev.hifAbortDone_canon h ..

theorem execHostLost_inv {s : State} (h : s.Inv) (cause : HostLossCause) : NextInv (execHostLost cause s) := by
  refine State.onDev_inv h fun d h => ?_
  grind only [Dev.updHif_canon, Dev.wr_canon, Dev.hostLost_canon]

theorem execHostAttach_inv {s : State} (h : s.Inv) : NextInv (execHostAttach s) :=
  State.onDev_inv h fun _ h => Dev.hostAttach_canon h

theorem execRelayRead_inv {s : State} (h : s.Inv) (pkg die offset : Nat) : NextInv (execRelayRead pkg die offset s) :=
  State.onDev_inv h fun _ h => ite_canon h (Dev.relayGo_canon (Dev.wr_canon (Dev.wr_canon (Dev.wr_canon h ..) ..) ..))

theorem execRelayTimeout_inv {s : State} (h : s.Inv) : NextInv (execRelayTimeout s) :=
  State.onDev_inv h fun _ h => ite_canon (Dev.wr_canon (Dev.wr_canon h ..) ..) h

theorem execDeviceReset_inv {s : State} (h : s.Inv) (b : Board) : NextInv (execDeviceReset b s) :=
  State.onDev_inv h fun _ h => Dev.deviceReset_canon h ..

theorem execDumpUnitTimeout_inv {s : State} (h : s.Inv) : NextInv (execDumpUnitTimeout s) :=
  State.onDev_inv h fun _ h => Dev.dumpTimeout_canon h

theorem execDumpTake_inv {s : State} (h : s.Inv) : NextInv (execDumpTake s) :=
  State.onDev_inv h fun _ h => Dev.takeDump_canon h

theorem execDumpChunkRelease_inv {s : State} (h : s.Inv) : NextInv (execDumpChunkRelease s) :=
  State.onDev_inv h fun _ h => Dev.dumpRelease_canon h

theorem execLogConsWrite_inv {s : State} (h : s.Inv) (value : Nat) : NextInv (execLogConsWrite value s) :=
  State.onDev_inv h fun _ h => Dev.logConsume_canon h ..

theorem execFlashProgramPage_inv {s : State} (h : s.Inv) : NextInv (execFlashProgramPage s) :=
  State.onDev_inv h fun _ h => Dev.flashCommand_canon h ..

theorem execFlashEraseSector_inv {s : State} (h : s.Inv) : NextInv (execFlashEraseSector s) :=
  State.onDev_inv h fun _ h => Dev.flashCommand_canon h ..

theorem execFlashCmdComplete_inv {s : State} (h : s.Inv) (verifyOk : Bool) : NextInv (execFlashCmdComplete verifyOk s) :=
  State.onDev_inv h fun _ h => Dev.flashEnd_canon h ..

theorem execCntClr_inv {s : State} (h : s.Inv) : NextInv (execCntClr s) :=
  State.onDev_inv h fun _ h => Dev.clearCounters_canon h

theorem execSbRead_inv {s : State} (h : s.Inv) (die offset : Nat) : NextInv (execSbRead die offset s) := by
  refine State.onPower_inv h fun d h => ?_
  grind only [Dev.sbView_canon, Dev.sbReply_canon]

theorem execSbReset_inv {s : State} (h : s.Inv) (key : Nat) (b : Board) : NextInv (execSbReset key b s) :=
  State.onPower_inv h fun _ h => ite_canon (Dev.deviceReset_canon (Dev.orderReset_canon (Dev.sbReply_canon h ..) ..) ..) (Dev.sbReply_canon h ..)

theorem execSbAlert_inv {s : State} (h : s.Inv) (ack : Nat) : NextInv (execSbAlert ack s) :=
  State.onPower_inv h fun _ h => ite_canon (Dev.sbReply_canon h ..) h

theorem execSbIdent_inv {s : State} (h : s.Inv) : NextInv (execSbIdent s) :=
  State.onPower_inv h fun _ h => Dev.sbReply_canon h ..

theorem execJtagInstruction_inv {s : State} (h : s.Inv) (ir : Nat) : NextInv (execJtagInstruction ir s) := by
  refine State.onDev_inv h fun d h => ?_
  grind only [Dev.emit_canon, Dev.free_canon]

theorem execRegisterWrite_inv {s : State} (h : s.Inv) (r : Requester) (place : RegPlace) (offset size : Nat) (value : W64) :
    NextInv (execRegisterWrite r place offset size value s) := by
  refine State.onDev_inv h fun d h => ?_
  grind only [Dev.ctlWrite_canon, Dev.queueWrite_canon]

theorem execEdgeRetrain_inv {s : State} (h : s.Inv) (edge : Nat) (ok : Bool) : NextInv (execEdgeRetrain edge ok s) :=
  State.onDev_inv h fun _ h => Dev.retrainEdge_canon h ..

theorem execPerstNRelease_inv {s : State} (h : s.Inv) (rate width : Nat) : NextInv (execPerstNRelease rate width s) :=
  State.onDev_inv h fun _ h => Dev.wr_canon (Dev.wr_canon (Dev.updHif_canon h ..) ..) ..

theorem execPcieConfigWrite_inv {s : State} (h : s.Inv) (msixEnable bme : Bool) : NextInv (execPcieConfigWrite msixEnable bme s) :=
  State.onDev_inv h fun _ h => ite_canon h (ite_canon (Dev.hostLost_canon (Dev.updHif_canon h ..)) (Dev.updHif_canon h ..))

theorem execMsixVectorUnmask_inv {s : State} (h : s.Inv) (vector : Nat) : NextInv (execMsixVectorUnmask vector s) :=
  State.onDev_inv h fun _ h => ite_canon (Dev.sendVector_canon (Dev.updHif_canon (Dev.updHif_canon h ..) ..) ..) (Dev.updHif_canon h ..)

theorem execEthPortLinkChange_inv {s : State} (h : s.Inv) (port : Nat) (up : Bool) : NextInv (execEthPortLinkChange port up s) :=
  State.onDev_inv h fun _ h => ite_canon h (Dev.wr_canon h ..)

theorem execRemoteReadLost_inv {s : State} (h : s.Inv) (tag : Nat) : NextInv (execRemoteReadLost tag s) := by
  refine State.onDev_inv h fun d h => ?_
  grind only [Dev.opLost_canon]

theorem execHostWindowStart_inv {s : State} (h : s.Inv) (part : Nat) : NextInv (execHostWindowStart part s) := by
  refine State.onDev_inv h fun d h => ?_
  grind only [Dev.toTime_canon, Dev.updHif_canon, Dev.hifExec_canon]

theorem execBeaconUnanswered_inv {s : State} (h : s.Inv) (pkg : Nat) : NextInv (execBeaconUnanswered pkg s) :=
  State.onDev_inv h fun _ h => ite_canon (Dev.unanswered_canon h ..) h

theorem execRecallDeferralEnd_inv {s : State} (h : s.Inv) (hart : Nat) : NextInv (execRecallDeferralEnd hart s) :=
  State.onDev_inv h fun _ h => ite_canon (Dev.releaseFree_canon (Dev.updHart_canon h ..)) h

/-- Every command answers a state whose stores are canonical. -/
theorem exec_inv {s : State} (h : s.Inv) (c : Instr) : NextInv (exec c s) := by
  cases c with
  | coldStart => exact execColdStart_inv h _
  | pwrGoodDeassert => exact execPwrGoodDeassert_inv h _
  | edgeTrained => exact execEdgeTrained_inv h _
  | edgeTrainTimeout => exact execEdgeTrainTimeout_inv h _ _
  | bootStepTimeout => exact execBootStepTimeout_inv h _
  | tickAcquireTimeout => exact execTickAcquireTimeout_inv h
  | joinWaitExpiry => exact execJoinWaitExpiry_inv h
  | leagueSealTimeout => exact execLeagueSealTimeout_inv h
  | tickBoundary => exact execTickBoundary_inv h _
  | tickInPulse => exact execTickInPulse_inv h _ _
  | ppsEdge => exact execPpsEdge_inv h _
  | holdoverExpiry => exact execHoldoverExpiry_inv h
  | avsConfirm => exact execAvsConfirm_inv h _
  | avsRiseLate => exact execAvsRiseLate_inv h _
  | thermalTrip => exact execThermalTrip_inv h _ _
  | ethrefLoss => exact execEthrefLoss_inv h _
  | dieClockLoss => exact execDieClockLoss_inv h _
  | spanStart => exact execSpanStart_inv h _ _
  | spanLateStart => exact execSpanLateStart_inv h _ _
  | spanend => exact execSpanend_inv h _
  | budgetExpiry => exact execBudgetExpiry_inv h _
  | displacement => exact execDisplacement_inv h _
  | spanStatusRecord => exact execSpanStatusRecord_inv h _
  | spanWarning => exact execSpanWarning_inv h _
  | perchGate => exact execPerchGate_inv h _
  | perchWake => exact execPerchWake_inv h _
  | seqInstruction => exact execSeqInstruction_inv h _ _
  | perchTrap => exact execPerchTrap_inv h _ _ _
  | perchMret => exact execPerchMret_inv h _
  | pspanwarnWrite => exact execPspanwarnWrite_inv h _ _
  | perchFenceSc => exact execPerchFenceSc_inv h _ _
  | cwait => exact execCwait_inv h _ _ _ _
  | cwaitSatisfied => exact execCwaitSatisfied_inv h _
  | cread => exact execCread_inv h _ _ _ _
  | cset => exact execCset_inv h _ _ _ _ _
  | cadd => exact execCadd_inv h _ _ _ _ _
  | dmaq => exact execDmaq_inv h _ _ _ _
  | dmactlStatus => exact execDmactlStatus_inv h _ _ _
  | dmactlAbort => exact execDmactlAbort_inv h _ _ _
  | dmactlWaitidle => exact execDmactlWaitidle_inv h _ _ _
  | dmaDescriptorStart => exact execDmaDescriptorStart_inv h _ _ _ _
  | dmaDescriptorComplete => exact execDmaDescriptorComplete_inv h _ _
  | arrivalIncrement => exact execArrivalIncrement_inv h _ _
  | scopSend => exact execScopSend_inv h _ _ _ _ _
  | scopAck => exact execScopAck_inv h _ _ _ _
  | scopStatus => exact execScopStatus_inv h _ _ _
  | channelMessageArrival => exact execChannelMessageArrival_inv h _ _
  | channelSourceRelease => exact execChannelSourceRelease_inv h _ _
  | channelCreditArrival => exact execChannelCreditArrival_inv h _ _
  | mld => exact execMld_inv h _ _ _ _ _
  | mxm => exact execMxm_inv h _ _ _ _ _ _ _ _
  | mwaitPasses => exact execMwaitPasses_inv h _ _
  | mwaitLoads => exact execMwaitLoads_inv h _ _
  | arrayLoadStart => exact execArrayLoadStart_inv h _
  | arrayPassStart => exact execArrayPassStart_inv h _ _
  | arrayPassComplete => exact execArrayPassComplete_inv h _
  | keeperWindowExpiry => exact execKeeperWindowExpiry_inv h _
  | arrayRampDownStep => exact execArrayRampDownStep_inv h _
  | arrayRampUpStep => exact execArrayRampUpStep_inv h _
  | vxncvt => exact execVxncvt_inv h _ _
  | vxncvts => exact execVxncvts_inv h _ _
  | vxwcvt => exact execVxwcvt_inv h _ _
  | vxwcvts => exact execVxwcvts_inv h _ _
  | vxmaxsc => exact execVxmaxsc_inv h _ _
  | homeWrite => exact execHomeWrite_inv h _ _ _
  | homeRead => exact execHomeRead_inv h _ _ _
  | homeAtomic => exact execHomeAtomic_inv h _ _ _ _ _
  | wcbEntryTimeout => exact execWcbEntryTimeout_inv h _ _ _
  | wcbEntryIssue => exact execWcbEntryIssue_inv h _ _ _
  | chainCacheFill => exact execChainCacheFill_inv h _ _ _
  | wayDisable => exact execWayDisable_inv h _ _
  | scrubRead => exact execScrubRead_inv h _ _
  | moveCopy => exact execMoveCopy_inv h _ _ _
  | moveZero => exact execMoveZero_inv h _ _
  | moveKvIn => exact execMoveKvIn_inv h _ _
  | moveKvOut => exact execMoveKvOut_inv h _ _
  | moveNvmeRd => exact execMoveNvmeRd_inv h _ _
  | moveNvmeWr => exact execMoveNvmeWr_inv h _ _
  | moveEntryDone => exact execMoveEntryDone_inv h _ _ _
  | moveTailAbort => exact execMoveTailAbort_inv h _
  | ownClaim => exact execOwnClaim_inv h _ _ _
  | ownRelease => exact execOwnRelease_inv h _ _ _
  | ownReleaseComplete => exact execOwnReleaseComplete_inv h
  | pageWalkDone => exact execPageWalkDone_inv h _ _ _ _ _ _
  | mmuInvRange => exact execMmuInvRange_inv h _ _
  | mmuInvPartition => exact execMmuInvPartition_inv h _
  | mmuInvComplete => exact execMmuInvComplete_inv h
  | collPost => exact execCollPost_inv h _ _
  | collMemberComplete => exact execCollMemberComplete_inv h _ _ _
  | collDeadline => exact execCollDeadline_inv h _ _
  | collTimeout => exact execCollTimeout_inv h _ _
  | linkPortTrain => exact execLinkPortTrain_inv h _ _ _ _
  | identReceive => exact execIdentReceive_inv h _ _ _
  | identResend => exact execIdentResend_inv h _ _
  | flitReplay => exact execFlitReplay_inv h _ _ _
  | linkFence => exact execLinkFence_inv h _ _
  | linkRetrainDone => exact execLinkRetrainDone_inv h _ _ _
  | linkRead => exact execLinkRead_inv h _ _ _
  | linkWrite => exact execLinkWrite_inv h _ _ _
  | linkAtomic => exact execLinkAtomic_inv h _ _ _
  | readRsp => exact execReadRsp_inv h _ _ _
  | writeAck => exact execWriteAck_inv h _ _ _
  | atomicRsp => exact execAtomicRsp_inv h _ _ _
  | collData => exact execCollData_inv h _ _ _
  | collCtrl => exact execCollCtrl_inv h _ _ _
  | beacon => exact execBeacon_inv h _ _ _
  | beaconAck => exact execBeaconAck_inv h _ _
  | mgmt => exact execMgmt_inv h _ _
  | join => exact execJoin_inv h _ _
  | joinGrant => exact execJoinGrant_inv h _ _
  | portDown => exact execPortDown_inv h _ _
  | epochSet => exact execEpochSet_inv h _ _ _
  | remoteWriteLost => exact execRemoteWriteLost_inv h _
  | beaconMiss => exact execBeaconMiss_inv h
  | packageLost => exact execPackageLost_inv h _
  | ethFrameRx => exact execEthFrameRx_inv h _ _ _
  | slotClose => exact execSlotClose_inv h _ _
  | egressRelease => exact execEgressRelease_inv h _
  | pacedSend => exact execPacedSend_inv h _ _ _
  | excRingTx => exact execExcRingTx_inv h _ _
  | flowEnable => exact execFlowEnable_inv h _
  | flowDisable => exact execFlowDisable_inv h _
  | flowRekey => exact execFlowRekey_inv h _ _
  | flowReanchor => exact execFlowReanchor_inv h _
  | keyLoad => exact execKeyLoad_inv h _ _
  | nvmeCommandIssue => exact execNvmeCommandIssue_inv h _ _ _ _ _ _
  | nvmeCommandComplete => exact execNvmeCommandComplete_inv h _ _ _ _
  | nvmeAbortTimeout => exact execNvmeAbortTimeout_inv h _ _
  | nvmeControllerReset => exact execNvmeControllerReset_inv h _ _
  | stewardInstruction => exact execStewardInstruction_inv h _ _
  | twait => exact execTwait_inv h _ _ _ _
  | stewardFenceSc => exact execStewardFenceSc_inv h _ _
  | spanq => exact execSpanq_inv h _ _ _
  | tread => exact execTread_inv h _ _ _
  | setipi => exact execSetipi_inv h _ _ _ _
  | mpartWrite => exact execMpartWrite_inv h _ _
  | mliveWrite => exact execMliveWrite_inv h _ _
  | mlosterrWrite => exact execMlosterrWrite_inv h _
  | mtimecmpxExpiry => exact execMtimecmpxExpiry_inv h _ _
  | wfi => exact execWfi_inv h _
  | coreWake => exact execCoreWake_inv h _
  | cboClean => exact execCboClean_inv h _ _
  | cboFlush => exact execCboFlush_inv h _ _
  | cboInval => exact execCboInval_inv h _ _
  | stewardAmo => exact execStewardAmo_inv h _ _ _ _ _ _
  | loadReserved => exact execLoadReserved_inv h _ _ _ _
  | storeConditional => exact execStoreConditional_inv h _ _ _ _ _
  | reservationTimeout => exact execReservationTimeout_inv h _
  | sfenceVma => exact execSfenceVma_inv h _ _ _
  | sbiPageMap => exact execSbiPageMap_inv h _
  | sbiPageUnmap => exact execSbiPageUnmap_inv h _
  | sbiFlowCmd => exact execSbiFlowCmd_inv h _
  | sbiKeyLoad => exact execSbiKeyLoad_inv h _
  | bar0DieViewWrite => exact execBar0DieViewWrite_inv h _ _ _
  | bar4Read => exact execBar4Read_inv h _ _
  | bar4Write => exact execBar4Write_inv h _ _ _
  | doorbell => exact execDoorbell_inv h _ _
  | commandFetch => exact execCommandFetch_inv h _ _
  | commandReread => exact execCommandReread_inv h _ _
  | nop => exact execNop_inv h _
  | fence => exact execFence_inv h _
  | write => exact execWrite_inv h _
  | copy => exact execCopy_inv h _ _
  | fill => exact execFill_inv h _
  | atomic => exact execAtomic_inv h _
  | runComplete => exact execRunComplete_inv h _
  | hostWindowEnd => exact execHostWindowEnd_inv h _
  | completionWrite => exact execCompletionWrite_inv h _
  | msixHoldoffExpiry => exact execMsixHoldoffExpiry_inv h _
  | cqHeadWrite => exact execCqHeadWrite_inv h _ _
  | queueEnable => exact execQueueEnable_inv h _ _ _ _ _
  | queueDisable => exact execQueueDisable_inv h _
  | queueResume => exact execQueueResume_inv h _ _ _
  | queueAbort => exact execQueueAbort_inv h _
  | queueAbortDone => exact execQueueAbortDone_inv h _
  | hostLost => exact execHostLost_inv h _
  | hostAttach => exact execHostAttach_inv h
  | relayRead => exact execRelayRead_inv h _ _ _
  | relayTimeout => exact execRelayTimeout_inv h
  | deviceReset => exact execDeviceReset_inv h _
  | dumpUnitTimeout => exact execDumpUnitTimeout_inv h
  | dumpTake => exact execDumpTake_inv h
  | dumpChunkRelease => exact execDumpChunkRelease_inv h
  | logConsWrite => exact execLogConsWrite_inv h _
  | flashProgramPage => exact execFlashProgramPage_inv h
  | flashEraseSector => exact execFlashEraseSector_inv h
  | flashCmdComplete => exact execFlashCmdComplete_inv h _
  | cntClr => exact execCntClr_inv h
  | sbRead => exact execSbRead_inv h _ _
  | sbReset => exact execSbReset_inv h _ _
  | sbAlert => exact execSbAlert_inv h _
  | sbIdent => exact execSbIdent_inv h
  | jtagInstruction => exact execJtagInstruction_inv h _
  | registerWrite => exact execRegisterWrite_inv h _ _ _ _ _
  | edgeRetrain => exact execEdgeRetrain_inv h _ _
  | perstNRelease => exact execPerstNRelease_inv h _ _
  | pcieConfigWrite => exact execPcieConfigWrite_inv h _ _
  | msixVectorUnmask => exact execMsixVectorUnmask_inv h _
  | ethPortLinkChange => exact execEthPortLinkChange_inv h _ _
  | remoteReadLost => exact execRemoteReadLost_inv h _
  | hostWindowStart => exact execHostWindowStart_inv h _
  | beaconUnanswered => exact execBeaconUnanswered_inv h _
  | recallDeferralEnd => exact execRecallDeferralEnd_inv h _
  -- the name of the one command left, `.seal`, is a keyword and cannot label an alternative
  | _ => exact execSeal_inv h

/-- Idling passes time, and no more. -/
theorem idleStep_inv {s : State} (h : s.Inv) : (idleStep s).Inv := by
  unfold idleStep
  split
  · exact Dev.passNs_canon h 10
  · exact h

/-- Settles O6: a step is the command in front or idling, and each of the two keeps the stores canonical. -/
theorem stepKeepsInv : Obligations.StepKeepsInv := by
  unfold Obligations.StepKeepsInv
  intro s t hs ht
  unfold step at ht
  split at ht
  case h_1 c rest _ => exact exec_inv (s := { s with pending := rest }) hs c t ht
  case h_2 =>
    cases ht
    exact idleStep_inv hs

end Sys2Proof.Machine
end

