-- ==== Sys2Proof/Proofs/RegRs.lean ====
section
/-! Writes to RS fields after seal (R10). A register with an RS field has no field that a write after seal changes: each is RS, RO or W1S. So such a write
stores nothing, and its one further effect is the command in the same register, which CNT_CLR of TICK_CTRL alone has (R420). -/

namespace Sys2Proof.Machine

theorem onlyRegs_refl (d : Dev) : OnlyRegs d d := rfl

theorem OnlyRegs.trans {d t u : Dev} (h1 : OnlyRegs d t) (h2 : OnlyRegs t u) : OnlyRegs d u := by
  unfold OnlyRegs at *
  rw [h1] at h2
  exact h2

theorem onlyRegs_writeRejected (d : Dev) (die : Nat) : OnlyRegs d (d.writeRejected die) :=
  (onlyRegs_wr d die Reg.GLB_SEAL_STATUS.WRITE_REJ 1).trans (onlyRegs_wr _ die Reg.GLB_SEAL_STATUS.REJ_COUNT _)

/-- A rejected write changes sticky fields alone (R10). -/
theorem Dev.rd_writeRejected_cold (d : Dev) (die die' : Nat) {f : Fld} (h : f.st = false) : (d.writeRejected die).rd die' f = d.rd die' f := by
  have apart (g : Fld) (hg : g.st = true) : ¬SameField die g die' f := fun ⟨_, hst⟩ => by simp [hg, h] at hst
  unfold Dev.writeRejected Dev.inc
  rw [Dev.rd_wr_ne _ _ (apart _ rfl), Dev.rd_wr_ne _ _ (apart _ rfl)]

/-- A rejected write sets WRITE_REJ; the count beside it has bits of its own (R10). -/
theorem Dev.rd_writeRejected_flag (d : Dev) (die : Nat) : (d.writeRejected die).rd die Reg.GLB_SEAL_STATUS.WRITE_REJ = 1 := by
  unfold Dev.writeRejected Dev.inc
  rw [Dev.rd_wr_ne _ _ (not_sameField (Or.inr (by decide)) (by decide) (by decide) (by decide) (by decide)), Dev.rd_wr_same]
  rfl

theorem Dev.sealed_writeRejected (d : Dev) (die : Nat) : (d.writeRejected die).sealed = d.sealed := by
  unfold Dev.sealed
  rw [Dev.rd_writeRejected_cold d die 0 rfl]

/-- Only registers change, and no register field at the listed offsets. -/
structure KeptAt (offs : List Nat) (d t : Dev) : Prop where
  only : OnlyRegs d t
  reads : ∀ die f, f.lo < 64 → f.off ∈ offs → t.rd die f = d.rd die f

theorem keptAt_refl (offs : List Nat) (d : Dev) : KeptAt offs d d := ⟨onlyRegs_refl d, fun _ _ _ _ => rfl⟩

section
variable {offs : List Nat} {d t : Dev} (h : KeptAt offs d t)
include h

theorem KeptAt.trans {u : Dev} (hu : KeptAt offs t u) : KeptAt offs d u :=
  ⟨h.only.trans hu.only, fun die f hlo hoff => (hu.reads die f hlo hoff).trans (h.reads die f hlo hoff)⟩

theorem KeptAt.foldl {β : Type} {g : Dev → β → Dev} {l : List β} (hg : ∀ t, ∀ b ∈ l, KeptAt offs t (g t b)) : KeptAt offs d (l.foldl g t) :=
  List.foldlRecOn (motive := KeptAt offs d) l g h fun t ht b hb => ht.trans (hg t b hb)

end

/-- A field that stands at none of the listed offsets; the bounds hold the register keys apart. -/
abbrev Apart (offs : List Nat) (g : Fld) : Prop := g.lo < 64 ∧ g.off < 2 ^ 33 ∧ g.off ∉ offs ∧ ∀ o ∈ offs, o < 2 ^ 33

theorem keptAt_wr {offs : List Nat} {g : Fld} (hg : Apart offs g) (d : Dev) (die v : Nat) : KeptAt offs d (d.wr die g v) := by
  obtain ⟨hlo, hoff, hnot, hoffs⟩ := hg
  refine ⟨onlyRegs_wr d die g v, fun die' f hf hmem => Dev.rd_wr_ne d v ?_⟩
  exact not_sameField (Or.inl fun e => hnot (e ▸ hmem)) hlo hf hoff (hoffs _ hmem)

theorem keptAt_zeroFields {offs : List Nat} {gs : List Fld} (hgs : ∀ g ∈ gs, Apart offs g) (d : Dev) (die : Nat) :
    KeptAt offs d (d.zeroFields die gs) :=
  (keptAt_refl offs d).foldl fun t g hg => keptAt_wr (hgs g hg) t die 0

/-- The registers that a write to an RS field speaks of: the seal status, the device events, and TICK_CTRL, whose CNT_CLR is a command. -/
def sealOffs : List Nat := [Reg.GLB_SEAL_STATUS.WRITE_REJ.off, Reg.TICK_CTRL.CNT_CLR.off, Reg.HIF_EVENT.RAISED.off]

/-- CNT_CLR clears counters of other registers (R420). -/
theorem keptAt_clearCounters (d : Dev) : KeptAt sealOffs d d.clearCounters := by
  have ports : ∀ k ∈ List.range 4, ∀ g ∈ [portFld Reg.LINK_PORT_ERR.FEC_CORR k, portFld Reg.LINK_PORT_ERR.REPLAYS k], Apart sealOffs g := by decide
  have nvme : ∀ k ∈ List.range 8, ∀ g ∈ [Reg.SIO_NVME_STATUS.ORPHANS.at 8 k, Reg.SIO_NVME_STATUS.ABORTS.at 8 k, Reg.SIO_NVME_STATUS.ERRORS.at 8 k],
      Apart sealOffs g := by decide
  unfold Dev.clearCounters
  extract_lets d1 d2 s d3
  have h1 : KeptAt sealOffs d d1 := (keptAt_refl _ d).foldl fun t die _ => keptAt_zeroFields (by decide) t die
  have h2 : KeptAt sealOffs d d2 :=
    h1.foldl fun t die _ => (keptAt_zeroFields (by decide) t die).foldl fun t k hk => keptAt_zeroFields (ports k hk) t die
  have h3 : KeptAt sealOffs d d3 := h2.trans (keptAt_zeroFields (by decide) d2 s)
  exact h3.foldl fun t k hk => keptAt_zeroFields (nvme k hk) t s

/-- Registers whose write does more than store fields, TICK_CTRL aside: the commands and the log pointer; and RAS_PKG_ERR, which is computed. -/
def specialOffs : List Nat :=
  [Reg.HIF_ATTACH.REQ.off, Reg.HIF_DEV_RESET.CMD.off, Reg.HIF_RELAY_CMD.PKG.off, Reg.BMC_OWN_CMD.OP.off, Reg.MMU_INV_CMD.OP.off, Reg.SIO_FLOW_CMD.OP.off,
   Reg.SIO_KEY_CMD.LOAD.off, Reg.RAS_DUMP_STATUS.TAKE.off, Reg.RAS_DUMP_READ.READY.off, Reg.BOOT_FLASH_CMD.OP.off, Reg.RAS_LOG_PTR.CONS.off, rasPkgErrOff]

/-- An access code under which a write after seal leaves the field as it is. -/
def Acc.fixed (a : Acc) : Bool := a = .rs || a = .ro || a = .w1s

/-- What holds of every register of the map that has an RS field: a write after seal stores nothing in it, its RS fields are not sticky, none of its
places is a special register's, and none lies among the perches. -/
def RegDesc.rsSound (r : RegDesc) : Bool :=
  r.fields.all (fun g => g.acc.fixed) && r.fields.all (fun g => g.acc ≠ .rs || !g.st) &&
    specialOffs.all (fun o => o < r.off || r.off + r.count * r.stride ≤ o) &&
    (r.off + r.count * r.stride ≤ 0x1000000 || 0x1000000 + 352 * 0x4000 ≤ r.off)

theorem table_fields : ∀ r ∈ Reg.table, ∀ g ∈ r.fields, g.off = r.off ∧ 0 < g.width ∧ g.lo + g.width ≤ 64 := by decide +kernel

theorem table_rsSound : ∀ r ∈ Reg.table, ∀ g ∈ r.fields, g.acc = .rs → r.rsSound = true := by decide +kernel

theorem chainBase_add (off : Nat) :
    (chainBase off).1 + (chainBase off).2 = off ∧ ((chainBase off).2 = 0 ∨ 0x100000 ≤ off ∧ off < 0x260000) := by
  unfold chainBase
  split
  · dsimp only
    omega
  · exact ⟨rfl, Or.inl rfl⟩

/-- The register that stands at an offset: one of the map, moved within its array or to another chain's block (R28). -/
theorem Dev.regAt_inv {d : Dev} {die off : Nat} {fs : List Fld} {mirror : Bool} (h : d.regAt die off = some (fs, mirror)) :
    ∃ r ∈ Reg.table, ∃ n, r.off + n = off ∧ (n < r.count * r.stride ∨ 0x100000 ≤ off ∧ off < 0x260000) ∧ fs = r.fields.map (fun g => g.shift n) := by
  obtain ⟨hadd, hchain⟩ := chainBase_add off
  unfold Dev.regAt at h
  rcases hbase : chainBase off with ⟨o, shift⟩
  rw [hbase] at h hadd hchain
  obtain ⟨r, hfind, hr⟩ := Option.map_eq_some_iff.1 h
  obtain ⟨rfl, rfl⟩ := Prod.mk.inj hr
  have hin := List.find?_some hfind
  simp only [Bool.and_eq_true, decide_eq_true_eq] at hin
  obtain ⟨⟨⟨hle, hlt⟩, -⟩, -⟩ := hin
  exact ⟨r, List.mem_of_find?_eq_some hfind, o - r.off + shift, by omega, by omega, rfl⟩

/-- A register with an RS field, where it stands. -/
structure RsRegister (off : Nat) (fs : List Fld) : Prop where
  fixed : ∀ g ∈ fs, g.acc.fixed = true
  cold : ∀ g ∈ fs, g.acc = .rs → g.st = false
  place : ∀ g ∈ fs, g.off = off ∧ 0 < g.width ∧ g.lo + g.width ≤ 64
  plain : off ∉ specialOffs
  noPerch : ¬(0x1000000 ≤ off ∧ off < 0x1000000 + 352 * 0x4000)

theorem RsRegister.ne {off : Nat} {fs : List Fld} (h : RsRegister off fs) {o : Nat} (ho : o ∈ specialOffs) : off ≠ o := fun e => h.plain (e ▸ ho)

theorem Dev.rsRegister_of_regAt {d : Dev} {die off : Nat} {fs : List Fld} {mirror : Bool} {f : Fld} (h : d.regAt die off = some (fs, mirror))
    (hf : f ∈ fs) (hrs : f.acc = .rs) : RsRegister off fs := by
  obtain ⟨r, hr, n, hoff, hn, rfl⟩ := Dev.regAt_inv h
  obtain ⟨g, hg, rfl⟩ := List.mem_map.1 hf
  have hsound := table_rsSound r hr g hg hrs
  have hchain : ∀ o ∈ specialOffs, ¬(0x100000 ≤ o ∧ o < 0x260000) := by decide
  simp only [RegDesc.rsSound, Bool.and_eq_true, Bool.or_eq_true, List.all_eq_true, decide_eq_true_eq] at hsound
  obtain ⟨⟨⟨hfixed, hcold⟩, hplain⟩, hperch⟩ := hsound
  constructor
  case fixed => exact List.forall_mem_map.2 hfixed
  case cold => exact List.forall_mem_map.2 fun g hg (hacc : g.acc = .rs) => by simpa [hacc, Fld.shift] using hcold g hg
  case place =>
    refine List.forall_mem_map.2 fun g hg => ?_
    obtain ⟨hgoff, hgw⟩ := table_fields r hr g hg
    exact ⟨by rw [Fld.shift, hgoff, hoff], hgw⟩
  case plain =>
    intro hmem
    have := hplain off hmem
    have := hchain off hmem
    omega
  case noPerch => omega

/-- After seal a write leaves a field that is RS, RO or W1S as it is (R8, R10). -/
theorem Dev.writeField_fixed {d : Dev} {f : Fld} (hsealed : d.sealed = true) (h : f.acc.fixed = true) (die mask v : Nat) :
    d.writeField die f mask v = d := by
  have hacc : f.acc = .rs ∨ f.acc = .ro ∨ f.acc = .w1s := by simpa [Acc.fixed, or_assoc] using h
  unfold Dev.writeField
  obtain e | e | e := hacc
  · rw [e]
    exact if_pos (Or.inr hsealed)
  · rw [e]
  · rw [e]

/-- After seal a write stores nothing in a register with an RS field. -/
theorem Dev.storeFields_rs {d : Dev} {off : Nat} {fs : List Fld} (hsealed : d.sealed = true) (hr : RsRegister off fs) (die mask v : Nat) :
    d.storeFields die off fs mask v = d := by
  unfold Dev.storeFields
  rw [if_neg (hr.ne (by decide)), if_neg (hr.ne (by decide))]
  refine List.foldlRecOn (motive := (· = d)) fs _ rfl fun t ht g hg => ?_
  subst ht
  exact Dev.writeField_fixed hsealed (hr.fixed g hg) die mask v

/-- Where EN of a chain stands as before, nothing of the chain is cleared. -/
theorem Dev.chainEnChanged_same (d : Dev) (die off : Nat) :
    d.chainEnChanged die off (((chainOfCtrl off).map (fun c => d.rd die (chainFld Reg.CHAIN_CTRL.EN c))).getD 0) = d := by
  unfold Dev.chainEnChanged
  split
  case h_1 => rfl
  case h_2 c hc => simp [hc]

/-- Outside the special registers CNT_CLR is the only command. -/
theorem Dev.commandRun_plain {off : Nat} (h : off ∉ specialOffs) (d : Dev) (v : Nat) :
    d.commandRun off v = d ∨ off = Reg.TICK_CTRL.CNT_CLR.off ∧ d.commandRun off v = d.clearCounters := by
  simp only [specialOffs, List.mem_cons, not_or] at h
  obtain ⟨h1, h2, h3, h4, h5, h6, h7, h8, h9, h10, -⟩ := h
  unfold Dev.commandRun
  dsimp only
  rw [if_neg h1, if_neg h2, if_neg h3, if_neg h4, if_neg h5, if_neg h6, if_neg h7, if_neg h8, if_neg h9, if_neg h10]
  split
  case isTrue htick =>
    split
    · exact Or.inr ⟨htick, rfl⟩
    · exact Or.inl rfl
  case isFalse => exact Or.inl rfl

/-- What a write to a register with an RS field does after seal, where it touches the field: it is counted as rejected (R10), and CNT_CLR acts (R420). -/
theorem Dev.writeReg_rs {d : Dev} {die off : Nat} {fs : List Fld} {mirror : Bool} {f : Fld} (hsealed : d.sealed = true)
    (h : d.regAt die off = some (fs, mirror)) (hf : f ∈ fs) (hrs : f.acc = .rs) {mask : Nat} (hmask : f.part mask ≠ 0) (v : Nat) :
    d.writeReg die off mask v = d.writeRejected die ∨
      off = Reg.TICK_CTRL.CNT_CLR.off ∧ d.writeReg die off mask v = (d.writeRejected die).clearCounters := by
  have hr := Dev.rsRegister_of_regAt h hf hrs
  have htouch : d.sealed = true ∧ fs.any (fun g => decide (g.acc = .rs) && g.part mask ≠ 0) = true :=
    ⟨hsealed, List.any_eq_true.2 ⟨f, hf, by simp [hrs, hmask]⟩⟩
  have hkept : (d.writeRejected die).sealed = true := (d.sealed_writeRejected die).trans hsealed
  unfold Dev.writeReg
  rw [h]
  dsimp only
  rw [if_pos htouch]
  split
  · exact Or.inl rfl
  · rw [Dev.storeFields_rs hkept hr, Dev.chainEnChanged_same]
    exact Dev.commandRun_plain hr.plain _ _

/-- An access of `n` bits at bit `sh` of a register touches the fields that it overlaps. -/
theorem Fld.part_ne_zero {f : Fld} {n sh : Nat} (hn : 0 < n) (hwidth : 0 < f.width) (h1 : f.lo < sh + n) (h2 : sh < f.lo + f.width) :
    f.part ((2 ^ n - 1) * 2 ^ sh) ≠ 0 := by
  intro h0
  obtain ⟨i, hlo, hsh, hi⟩ : ∃ i, f.lo ≤ i ∧ sh ≤ i ∧ i < f.lo + f.width ∧ i < sh + n := ⟨max f.lo sh, by omega⟩
  have hbit : (f.part ((2 ^ n - 1) * 2 ^ sh)).testBit (i - f.lo) = true := by
    unfold Fld.part
    rw [Nat.testBit_mod_two_pow, Nat.testBit_div_two_pow, Nat.testBit_mul_two_pow, Nat.testBit_two_pow_sub_one]
    simp only [Bool.and_eq_true, decide_eq_true_eq]
    omega
  rw [h0, Nat.zero_testBit] at hbit
  cases hbit

/-- An access that the requester may make, aligned and to a register of the map that is no perch's, is the write of that register. -/
theorem Dev.ctlWrite_of_regAt {d : Dev} {r : Requester} {die off size : Nat} {fs : List Fld} {mirror : Bool} (hmay : d.ctlRefused r die = none)
    (hsize : size = 8 ∨ size = 4) (halign : off % size = 0) (h : d.regAt die (off / 8 * 8) = some (fs, mirror)) (hr : RsRegister (off / 8 * 8) fs) (v : Nat) :
    d.ctlWrite r die off size v =
      d.writeReg die (off / 8 * 8) ((2 ^ (8 * size) - 1) * 2 ^ (8 * (off % 8))) (v % 2 ^ (8 * size) * 2 ^ (8 * (off % 8))) := by
  have hal : ctlAligned off size = true := by simp [ctlAligned, hsize, halign]
  have hreg : (d.reg64 die (off / 8 * 8)).isNone = false := by
    unfold Dev.reg64
    rw [if_neg hr.noPerch, if_neg (hr.ne (by decide)), h]
    dsimp only
    split
    · rfl
    · split
      · rfl
      · split
        · rfl
        · rfl
  unfold Dev.ctlWrite alignDown
  rw [hmay, Nat.mul_comm 8 (off / 8)]
  simp [hal, hreg]

/-- Settles O57: the field stands in a register that a write after seal does not change; what the write does is to count the rejection, in sticky fields of
the seal status, and, in TICK_CTRL alone, to clear counters of other registers. -/
theorem writeRejected : Obligations.WriteRejected := by
  unfold Obligations.WriteRejected
  intro r die offset size value fs mirror f s hon hsealed _ hmay hsize halign hreg hf hrs hlo hhi
  have hrsReg := Dev.rsRegister_of_regAt hreg hf hrs
  obtain ⟨hoff, hwidth, hend⟩ := hrsReg.place f hf
  have hmask : f.part ((2 ^ (8 * size) - 1) * 2 ^ (8 * (offset % 8))) ≠ 0 := Fld.part_ne_zero (by omega) hwidth hlo hhi
  have hcold (die' : Nat) : (s.dev.writeRejected die).rd die' f = s.dev.rd die' f := Dev.rd_writeRejected_cold _ _ _ (hrsReg.cold f hf hrs)
  have hevent : (s.dev.writeRejected die).rd 0 Reg.HIF_EVENT.RAISED = s.dev.rd 0 Reg.HIF_EVENT.RAISED := Dev.rd_writeRejected_cold _ _ _ rfl
  have hflag := Dev.rd_writeRejected_flag s.dev die
  have honly := onlyRegs_writeRejected s.dev die
  refine ⟨{ s with dev := s.dev.ctlWrite r die offset size value.toNat }, ?_, rfl, ?_⟩
  · change execRegisterWrite r (.control die) offset size value s = _
    simp only [execRegisterWrite, State.onDev, hon, if_true]
  · dsimp only
    rw [Dev.ctlWrite_of_regAt hmay hsize halign hreg hrsReg]
    obtain e | ⟨htick, e⟩ := Dev.writeReg_rs hsealed hreg hf hrs hmask _
    · rw [e]
      exact ⟨hcold _, hflag, hevent, honly⟩
    · have hclr := keptAt_clearCounters (s.dev.writeRejected die)
      have hfoff : f.off ∈ sealOffs := by simp [sealOffs, hoff, htick]
      rw [e]
      exact ⟨(hclr.reads _ f (by omega) hfoff).trans (hcold _), (hclr.reads _ _ (by decide) (by decide)).trans hflag,
        (hclr.reads _ _ (by decide) (by decide)).trans hevent, honly.trans hclr.only⟩

end Sys2Proof.Machine
end

