-- ==== Sys2Proof/Proofs/TickBoot.lean ====
section
/-! The tick generator and the timeouts of boot (R39 to R43, R536, R557, R558): what the state of the generator and the registers of boot read after the
updates that these commands are made of. -/

namespace Sys2Proof.Machine

/-- Two fields that stand apart on every die: in different registers or at different bits. The bounds hold the register keys apart. -/
abbrev Fld.Separate (f g : Fld) : Prop := (f.off ≠ g.off ∨ f.lo ≠ g.lo) ∧ f.lo < 64 ∧ g.lo < 64 ∧ f.off < 2 ^ 33 ∧ g.off < 2 ^ 33

theorem Fld.Separate.not_sameField {f g : Fld} (h : f.Separate g) (die die' : Nat) : ¬ SameField die f die' g := by
  obtain ⟨hplace, hflo, hglo, hfoff, hgoff⟩ := h
  exact Machine.not_sameField hplace hflo hglo hfoff hgoff

/-- A write keeps every field that stands apart from the one written. -/
theorem Dev.rd_wr_separate {f g : Fld} (h : f.Separate g) (d : Dev) (die die' v : Nat) : (d.wr die f v).rd die' g = d.rd die' g :=
  Dev.rd_wr_ne d v (h.not_sameField die die')

/-- A device that is on answers a command with its meaning's device. -/
theorem State.onDev_of_on {s : State} (hon : s.dev.on = true) (f : Dev → Dev) : s.onDev f = .next { s with dev := f s.dev } := by
  simp [State.onDev, hon]

theorem KMap.get_dropIf {α : Type} (d : α) (p : Nat → Bool) : ∀ (m : KMap α) (k : Nat),
    KMap.get d (KMap.dropIf p m) k = if p k = true then d else KMap.get d m k
  | [], k => by simp [KMap.dropIf]
  | (k', v) :: t, k => by
    have ih := KMap.get_dropIf d p t k
    unfold KMap.dropIf at ih ⊢
    by_cases hdrop : p k' = true
    · by_cases hk : k = k'
      · subst hk
        simp [ih, hdrop]
      · simp [ih, hdrop, KMap.get, hk]
    · by_cases hk : k = k'
      · subst hk
        simp [hdrop, KMap.get]
      · simp [ih, hdrop, KMap.get, hk]

/-- A field apart from all that are written reads as before. -/
theorem RegsKept.read {d t : Dev} {w : List (Nat × Fld)} (h : RegsKept d t w) {f : Fld} (hf : ∀ x ∈ w, x.2.Separate f) (die : Nat) :
    t.rd die f = d.rd die f := h die f fun x hx => (hf x hx).not_sameField x.1 die

/-! ### Events and the halt of boot -/

@[simp] theorem Dev.rd_sendVector (d : Dev) (v die : Nat) (f : Fld) : (d.sendVector v).rd die f = d.rd die f := by
  unfold Dev.sendVector
  dsimp only
  split
  · rfl
  · split
    · rfl
    · rfl

/-- Raising a device event touches the device events alone among the registers. -/
theorem Dev.rd_raiseEvent {f : Fld} (h : Reg.HIF_EVENT.RAISED.Separate f) (d : Dev) (v die : Nat) : (d.raiseEvent v).rd die f = d.rd die f := by
  unfold Dev.raiseEvent
  rw [Dev.rd_sendVector, Dev.rd_wr_separate h]
  rfl

theorem bit_or_two_pow {n v w : Nat} (h : v < w) : bit ((n ||| 2 ^ v) % 2 ^ w) v = true := by
  have hbit : ((n ||| 2 ^ v) % 2 ^ w).testBit v = true := by simp [Nat.testBit_mod_two_pow, h]
  simpa [bit, Nat.testBit_eq_decide_div_mod_eq] using hbit

/-- A device event that is raised shows in RAISED (R491). -/
theorem Dev.raised_raiseEvent (d : Dev) {v : Nat} (h : v < 8) : bit ((d.raiseEvent v).rd 0 Reg.HIF_EVENT.RAISED) v = true := by
  unfold Dev.raiseEvent
  rw [Dev.rd_sendVector, Dev.rd_wr_same]
  exact bit_or_two_pow h

/-- Of the units that boot and the perches use, raising an event changes none. -/
@[simp] theorem Dev.raiseEvent_units (d : Dev) (v : Nat) :
    (d.raiseEvent v).perches = d.perches ∧ (d.raiseEvent v).harts = d.harts ∧ (d.raiseEvent v).boot = d.boot := by
  unfold Dev.raiseEvent Dev.sendVector
  dsimp only
  split
  · simp
  · split
    · simp
    · simp

/-- The fuses show in registers of the die, of power and of the OTP, none of them the tick's (R34). -/
theorem keptAt_applyFuses (d : Dev) : KeptAt [Reg.TICK_STATUS.STATE.off] d d.applyFuses := by
  have wr {g : Fld} (hg : Apart [Reg.TICK_STATUS.STATE.off] g) {t : Dev} (die v : Nat) (h : KeptAt [Reg.TICK_STATUS.STATE.off] d t) :
      KeptAt [Reg.TICK_STATUS.STATE.off] d (t.wr die g v) := h.trans (keptAt_wr hg t die v)
  unfold Dev.applyFuses
  extract_lets dies t
  have hdies : KeptAt [Reg.TICK_STATUS.STATE.off] d t := (keptAt_refl _ d).foldl fun u die _ =>
    (((((((keptAt_wr (by decide) u die _).trans (keptAt_wr (by decide) _ die _)).trans (keptAt_wr (by decide) _ die _)).trans
      (keptAt_wr (by decide) _ die _)).trans (keptAt_wr (by decide) _ die _)).trans (keptAt_wr (by decide) _ die _)).trans (keptAt_wr (by decide) _ die _))
  exact wr (by decide) 0 _ (wr (by decide) 0 _ (wr (by decide) 0 _ hdies))

/-- Registers outside the blocks of the die, boot and the host interface return to their Reset values where boot halts; the generator is STOPPED (R557). -/
theorem Dev.tickState_clearRegs (d : Dev) : (d.clearRegs (fun k => viewOff (keyOff k))).tickState = tsStopped := by
  unfold Dev.tickState Dev.clearRegs
  rw [(keptAt_applyFuses _).reads 0 Reg.TICK_STATUS.STATE (by decide) (by decide)]
  unfold Dev.rd
  have hcold : (!viewOff (keyOff (regKey 0 Reg.TICK_STATUS.STATE))) = true := by decide
  rw [if_neg (by decide), KMap.get_dropIf, if_pos hcold]
  rfl

theorem OnlyRegs.units {d t : Dev} (h : OnlyRegs d t) : t.perches = d.perches ∧ t.harts = d.harts ∧ t.mem = d.mem ∧ t.boot = d.boot := by
  unfold OnlyRegs at h
  rw [h]
  exact ⟨rfl, rfl, rfl, rfl⟩

theorem Dev.clearRegs_units (d : Dev) (keep : Nat → Bool) : (d.clearRegs keep).perches = d.perches ∧ (d.clearRegs keep).harts = d.harts := by
  obtain ⟨hperches, hharts, -⟩ := (keptAt_applyFuses { d with regs := KMap.dropIf (fun k => !keep k) d.regs }).only.units
  exact ⟨hperches, hharts⟩

/-- What a halt of boot leaves (R557): STAGE HALTED with its cause, vector 5 raised, the generator STOPPED, no perch on and no core running. -/
structure Dev.HaltedWith (cause : Nat) (d : Dev) : Prop where
  stage : d.stage = 9
  halt : d.rd 0 Reg.BOOT_STATE.HALT = cause
  raised : bit (d.rd 0 Reg.HIF_EVENT.RAISED) 5 = true
  perches : ∀ p, (d.perch p).pstate = 0
  harts : ∀ h, (d.hart h).running = false
  tick : d.tickState = tsStopped
  notReady : d.boot.ready = false

/-- STAGE, HALT and vector 5 as a halt writes them, on a device whose units are off. -/
theorem Dev.haltedWith_of_off {c : Dev} (hperches : c.perches = []) (hharts : c.harts = []) (htick : c.tickState = tsStopped) {cause : Nat}
    (hcause : cause < 256) (detail ms : Nat) :
    ((((((c.setStage 9).wr 0 Reg.BOOT_STATE.HALT cause).wr 0 Reg.BOOT_STATE.DETAIL detail).wr 0 Reg.BOOT_STATE.ELAPSED_MS ms).wr 0
      Reg.HIF_STATUS.IN_RESET 0).updBoot (fun b => { b with wait := 0, ready := false, resetDue := 0 })).raiseEvent 5 |>.HaltedWith cause := by
  unfold Dev.setStage
  refine ⟨?stage, ?halt, Dev.raised_raiseEvent _ (by decide), fun p => ?perches, fun h => ?harts, ?tick, ?ready⟩
  case stage =>
    unfold Dev.stage
    rw [Dev.rd_raiseEvent (by decide), Dev.updBoot_rd]
    simp (disch := decide) only [Dev.rd_wr_separate, Dev.rd_wr_same]
    rfl
  case halt =>
    rw [Dev.rd_raiseEvent (by decide), Dev.updBoot_rd]
    simp (disch := decide) only [Dev.rd_wr_separate, Dev.rd_wr_same]
    exact Nat.mod_eq_of_lt hcause
  case perches => simp [Dev.perch, hperches]
  case harts => simp [Dev.hart, hharts]
  case tick =>
    unfold Dev.tickState at htick ⊢
    rw [Dev.rd_raiseEvent (by decide), Dev.updBoot_rd]
    simp (disch := decide) only [Dev.rd_wr_separate]
    exact htick
  case ready => simp

theorem Dev.bootHalt_haltedWith (d : Dev) {cause : Nat} (hcause : cause < 256) : (d.bootHalt (cause, 0)).HaltedWith cause := by
  obtain ⟨hperches, hharts⟩ := Dev.clearRegs_units { d.unitsOff with gen := {}, league := {} } (fun k => viewOff (keyOff k))
  exact Dev.haltedWith_of_off hperches hharts (Dev.tickState_clearRegs _) hcause 0 d.bootMs

/-! ### The tick generator -/

/-- The fields of TICK_STATUS that entering a state of the generator writes (R70). -/
def tickEnterFlds : List Fld := [Reg.TICK_STATUS.STATE, Reg.TICK_STATUS.ACTIVE_SRC, Reg.TICK_STATUS.ALT_ACTIVE, Reg.TICK_STATUS.NO_REF]

/-- What entering a state of the generator shows (R39, R70). -/
theorem Dev.tickEnter_reads (d : Dev) (state src : Nat) (alt : Bool) :
    (d.tickEnter state src alt).tickState = state % 2 ^ 3 ∧ (d.tickEnter state src alt).rd 0 Reg.TICK_STATUS.ACTIVE_SRC = src % 2 ^ 4 ∧
      (d.tickEnter state src alt).rd 0 Reg.TICK_STATUS.NO_REF = b2n (state = tsFreerun) % 2 := by
  unfold Dev.tickEnter Dev.tickState
  simp (disch := decide) only [Dev.updGen_rd, Dev.rd_wr_separate, Dev.rd_wr_same]
  exact ⟨rfl, rfl, rfl⟩

/-- Entering a state keeps every other register field. -/
theorem Dev.tickEnter_kept {w : List (Nat × Fld)} (hw : ∀ f ∈ tickEnterFlds, (0, f) ∈ w) (d : Dev) (state src : Nat) (alt : Bool) :
    RegsKept d (d.tickEnter state src alt) w := by
  have hwr : RegsKept d ((((d.wr 0 Reg.TICK_STATUS.STATE state).wr 0 Reg.TICK_STATUS.ACTIVE_SRC src).wr 0 Reg.TICK_STATUS.ALT_ACTIVE (b2n alt)).wr 0
      Reg.TICK_STATUS.NO_REF (b2n (state = tsFreerun))) w :=
    regsKept_wr _ (hw _ (by decide)) (regsKept_wr _ (hw _ (by decide)) (regsKept_wr _ (hw _ (by decide)) (regsKept_wr _ (hw _ (by decide)) (regsKept_refl d w))))
  exact hwr

/-- Beside registers, entering a state changes the generator alone. -/
theorem Dev.tickEnter_frame (d : Dev) (state src : Nat) (alt : Bool) :
    OnlyRegs { d with gen := (d.tickEnter state src alt).gen } (d.tickEnter state src alt) := by
  have hwr := (((onlyRegs_wr d 0 Reg.TICK_STATUS.STATE state).trans (onlyRegs_wr _ 0 Reg.TICK_STATUS.ACTIVE_SRC src)).trans
    (onlyRegs_wr _ 0 Reg.TICK_STATUS.ALT_ACTIVE (b2n alt))).trans (onlyRegs_wr _ 0 Reg.TICK_STATUS.NO_REF (b2n (state = tsFreerun)))
  unfold OnlyRegs at hwr ⊢
  unfold Dev.tickEnter Dev.updGen
  dsimp only
  rw [hwr]

/-- An acquisition that ends without a lock lets the generator run free where no lock is required (R42). -/
theorem execTickAcquireTimeout_free {s : State} (hon : s.dev.on = true) (hacq : s.dev.tickState = tsAcquiring)
    (hfree : s.dev.rd 0 Reg.TICK_CTRL.REQ_LOCK = 0) :
    execTickAcquireTimeout s = .next { s with dev := s.dev.tickEnter tsFreerun srcInternal false } := by
  unfold execTickAcquireTimeout
  rw [State.onDev_of_on hon]
  simp [hacq, hfree]

/-- Settles O11: a halt of boot leaves the same whatever its cause; each timeout is its own condition for it. -/
theorem bootTimeouts : Obligations.BootTimeouts := by
  unfold Obligations.BootTimeouts
  intro s hon Halted
  have halts {i : Instr} {cause : Nat} (hcause : cause < 256) (hexec : exec i s = .next { s with dev := s.dev.bootHalt (cause, 0) }) :
      ∃ t, exec i s = .next t ∧ Halted cause t := by
    have h := Dev.bootHalt_haltedWith s.dev hcause
    exact ⟨_, hexec, rfl, h.stage, h.halt, h.raised, h.perches, h.harts, h.tick, h.notReady⟩
  refine ⟨fun n c hmem hwait => ?step, fun hacq hlock => ?lock, fun hacq hfree => ?free, fun hrole hready hsealed hfresh => ?follower,
    fun hman hready hsealed hfresh hplan => ⟨fun hnone => ?noPlan, fun hsome => ?plan⟩⟩
  case step =>
    have hstep : execBootStepTimeout n s = .next { s with dev := s.dev.bootHalt (c, 0) } ∧ c < 256 := by
      unfold execBootStepTimeout
      rw [State.onDev_of_on hon]
      simp only [List.mem_cons, Prod.mk.injEq, List.not_mem_nil, or_false] at hmem
      obtain ⟨rfl, rfl⟩ | ⟨rfl, rfl⟩ | ⟨rfl, rfl⟩ := hmem
      · simp [hwait]
      · simp [hwait]
      · simp [hwait]
    exact halts hstep.2 hstep.1
  case lock =>
    refine halts (by decide) ?_
    change execTickAcquireTimeout s = _
    unfold execTickAcquireTimeout
    rw [State.onDev_of_on hon]
    simp [hacq, hlock]
  case free =>
    obtain ⟨hstate, hsrc, hnoRef⟩ := Dev.tickEnter_reads s.dev tsFreerun srcInternal false
    exact ⟨_, execTickAcquireTimeout_free hon hacq hfree, rfl, hstate, hnoRef, hsrc⟩
  case follower =>
    refine halts (by decide) ?_
    change execLeagueSealTimeout s = _
    unfold execLeagueSealTimeout
    rw [State.onDev_of_on hon]
    simp [hrole, hready, hsealed, hfresh]
  case noPlan =>
    refine halts (by decide) ?_
    change execJoinWaitExpiry s = _
    unfold execJoinWaitExpiry
    rw [State.onDev_of_on hon]
    simp [hman, hready, hsealed, hfresh, hplan, hnone]
  case plan =>
    refine ⟨{ s with dev := s.dev.updLeague (fun l => { l with waited := true }) }, ?_, rfl, rfl, rfl⟩
    change execJoinWaitExpiry s = _
    unfold execJoinWaitExpiry
    rw [State.onDev_of_on hon]
    simp [hman, hready, hsealed, hfresh, hplan, hsome]

/-- Settles O18: an acquisition that ends without a lock halts boot or lets the generator run free; INTERNAL needs no acquisition. -/
theorem tickAcquisition : Obligations.TickAcquisition := by
  unfold Obligations.TickAcquisition
  refine ⟨fun s hon hacq => ⟨fun hlock => ?lock, fun hfree => ?free⟩, fun d hpri => ?internal⟩
  case lock =>
    obtain ⟨-, hlocked, -⟩ := bootTimeouts s hon
    obtain ⟨t, hexec, -, hstage, hhalt, -⟩ := hlocked hacq hlock
    exact ⟨t, hexec, hstage, hhalt⟩
  case free =>
    obtain ⟨hstate, -⟩ := Dev.tickEnter_reads s.dev tsFreerun srcInternal false
    obtain ⟨-, -, -, hboot⟩ := (Dev.tickEnter_frame s.dev tsFreerun srcInternal false).units
    have hkept := Dev.tickEnter_kept (w := tickEnterFlds.map (0, ·)) (by decide) s.dev tsFreerun srcInternal false
    exact ⟨_, execTickAcquireTimeout_free hon hacq hfree, hstate, hkept.read (by decide) 0, hboot⟩
  case internal =>
    have hacquire : d.tickAcquire.tickState =
        ({ d with gen := {} }.tickEnter (if d.rd 0 Reg.TICK_CTRL.SRC_PRI = srcInternal then tsLocked else tsAcquiring)
          (d.rd 0 Reg.TICK_CTRL.SRC_PRI) false).tickState := rfl
    rw [hacquire, if_pos hpri]
    exact (Dev.tickEnter_reads { d with gen := {} } tsLocked _ false).1

/-! ### Timing edges -/

/-- A timing edge that comes while the generator does not acquire its source counts within 2 µs of the boundary (R43). -/
theorem Dev.timingEdge_running {d : Dev} (hrun : d.tickState ≠ tsStopped) (hacq : d.tickState ≠ tsAcquiring) (src : Nat) (x : Int) :
    d.timingEdge src x = (if -2000 ≤ x ∧ x ≤ 2000 then some x else none, d) := by
  unfold Dev.timingEdge
  rw [if_neg (fun h => hacq h.1)]
  by_cases hin : -2000 ≤ x ∧ x ≤ 2000
  · rw [if_pos ⟨hrun, hin⟩, if_pos hin]
  · rw [if_neg (fun h => hin h.2), if_neg hin]

/-- Settles O21: an edge counts by its offset, or steps the phase while the generator acquires; the end of holdover is an entry into FREERUN. -/
theorem timingEdges : Obligations.TimingEdges := by
  unfold Obligations.TimingEdges
  intro s hon
  refine ⟨fun w x hw hrun hacq => ?pulse, fun w x hw => ?short, fun w x hw hacq hsrc => ?acquire, fun x hrun hacq => ?pps, fun hhold => ?expiry⟩
  case pulse =>
    have hexec : exec (.tickInPulse x w) s = .next { s with dev :=
        if -2000 ≤ x ∧ x ≤ 2000 then { s.dev with gen := { s.dev.gen with tickIn := some x } } else s.dev } := by
      change execTickInPulse x w s = _
      unfold execTickInPulse
      rw [State.onDev_of_on hon, if_neg (by omega), Dev.timingEdge_running hrun hacq]
      by_cases hin : -2000 ≤ x ∧ x ≤ 2000
      · simp only [if_pos hin]
        rfl
      · simp only [if_neg hin]
    refine ⟨_, hexec, fun h1 h2 => ?_, fun hout => ?_⟩
    · rw [if_pos ⟨h1, h2⟩]
    · rw [if_neg (by omega)]
  case short =>
    change execTickInPulse x w s = _
    unfold execTickInPulse
    rw [State.onDev_of_on hon, if_pos hw]
  case acquire =>
    change execTickInPulse x w s = _
    unfold execTickInPulse
    rw [State.onDev_of_on hon, if_neg (by omega)]
    unfold Dev.timingEdge
    rw [if_pos ⟨hacq, hsrc⟩]
    rfl
  case pps =>
    have hexec : exec (.ppsEdge x) s = .next { s with dev := if -2000 ≤ x ∧ x ≤ 2000 then s.dev.ppsAccept x else s.dev } := by
      change execPpsEdge x s = _
      unfold execPpsEdge
      rw [State.onDev_of_on hon, Dev.timingEdge_running hrun hacq]
      by_cases hin : -2000 ≤ x ∧ x ≤ 2000
      · simp only [if_pos hin]
      · simp only [if_neg hin]
    refine ⟨_, hexec, fun h1 h2 => ?_, fun hout => ?_⟩
    · rw [if_pos ⟨h1, h2⟩]
      rfl
    · rw [if_neg (by omega)]
  case expiry =>
    obtain ⟨hstate, hsrc, hnoRef⟩ := Dev.tickEnter_reads s.dev tsFreerun srcInternal false
    obtain ⟨hperches, hharts, hmem, -⟩ := (onlyRegs_wr (s.dev.tickEnter tsFreerun srcInternal false) 0 Reg.TICK_TIME.PHASE_ERR 0).units
    obtain ⟨hperches', hharts', hmem', -⟩ := (Dev.tickEnter_frame s.dev tsFreerun srcInternal false).units
    have hexec : exec .holdoverExpiry s = .next { s with dev := (s.dev.tickEnter tsFreerun srcInternal false).wr 0 Reg.TICK_TIME.PHASE_ERR 0 } := by
      change execHoldoverExpiry s = _
      unfold execHoldoverExpiry
      rw [State.onDev_of_on hon, if_pos hhold]
    have apart {f : Fld} (hf : Reg.TICK_TIME.PHASE_ERR.Separate f) := Dev.rd_wr_separate hf (s.dev.tickEnter tsFreerun srcInternal false) 0 0 0
    exact ⟨_, hexec, rfl, (apart (by decide)).trans hstate, (apart (by decide)).trans hsrc, (apart (by decide)).trans hnoRef, Dev.rd_wr_same ..,
      regsKept_wr 0 (by decide) (Dev.tickEnter_kept (by decide) s.dev tsFreerun srcInternal false), hmem.trans hmem', hperches.trans hperches', hharts.trans hharts'⟩

end Sys2Proof.Machine
end

