-- ==== Sys2Proof/Proofs/BoundaryUnsealed.lean ====
section
/-! A tick boundary before seal (R39, R44, R47, R53, R579). The steps of a boundary that run on every device change the generator, the league state, the power
controller, charges, free values, outputs and registers; what they keep of the registers is carried from step to step by `BoundaryWork`. -/

namespace Sys2Proof.Machine

/-- What the steps of a boundary do to a device before seal: outputs are added, the listed register fields of S0 stay, and only the generator, the league
state, the power controller, the charges of the homes, the free values and registers change beside. -/
structure BoundaryWork (fs : List Fld) (d t : Dev) : Prop where
  only : t = { d with regs := t.regs, regsSt := t.regsSt, gen := t.gen, league := t.league, power := t.power, out := t.out, seed := t.seed,
                      charge := t.charge }
  outs : d.out ⊆ t.out
  reads : ∀ f ∈ fs, t.rd 0 f = d.rd 0 f

/-- The fields that the steps of a boundary before seal depend on and do not write. -/
def boundaryFlds : List Fld := [Reg.PWR_CTRL.OPP_MIN, Reg.GLB_SEAL_STATUS.SEALED, Reg.TICK_COUNT.COUNT, Reg.LINK_CFG.ROLE]

/-- The same with the points of the tick and of the next one, which the power controller sets (R579). -/
def pointFlds : List Fld := [Reg.PWR_STATUS.OPP_CUR, Reg.PWR_STATUS.OPP_NEXT] ++ boundaryFlds

section
variable {fs : List Fld} {d t : Dev}

theorem boundaryWork_refl (fs : List Fld) (d : Dev) : BoundaryWork fs d d := ⟨rfl, List.Subset.refl _, fun _ _ => rfl⟩

theorem BoundaryWork.trans {u : Dev} (h : BoundaryWork fs d t) (hu : BoundaryWork fs t u) : BoundaryWork fs d u := by
  refine ⟨?_, List.Subset.trans h.outs hu.outs, fun f hf => (hu.reads f hf).trans (h.reads f hf)⟩
  have honly := hu.only
  rw [h.only] at honly
  exact honly

theorem BoundaryWork.mono {gs : List Fld} (h : BoundaryWork fs d t) (hsub : gs ⊆ fs) : BoundaryWork gs d t :=
  ⟨h.only, h.outs, fun f hf => h.reads f (hsub hf)⟩

theorem BoundaryWork.wr_of (h : BoundaryWork fs d t) {die : Nat} {f : Fld} {v : Nat} (hf : ∀ g ∈ fs, ¬ SameField die f 0 g) :
    BoundaryWork fs d (t.wr die f v) := by
  refine h.trans ⟨?_, ?_, fun g hg => Dev.rd_wr_ne t v (hf g hg)⟩
  · have honly := onlyRegs_wr t die f v
    unfold OnlyRegs at honly
    rw [honly]
  · simp

theorem BoundaryWork.wr (h : BoundaryWork fs d t) {die : Nat} {f : Fld} {v : Nat} (hf : ∀ g ∈ fs, f.Separate g := by decide) :
    BoundaryWork fs d (t.wr die f v) := h.wr_of fun g hg => (hf g hg).not_sameField die 0

theorem BoundaryWork.updGen (h : BoundaryWork fs d t) {f : TickGen → TickGen} : BoundaryWork fs d (t.updGen f) :=
  h.trans ⟨rfl, List.Subset.refl _, fun _ _ => rfl⟩

theorem BoundaryWork.updLeague (h : BoundaryWork fs d t) {f : League → League} : BoundaryWork fs d (t.updLeague f) :=
  h.trans ⟨rfl, List.Subset.refl _, fun _ _ => rfl⟩

theorem BoundaryWork.updPower (h : BoundaryWork fs d t) {f : Power → Power} : BoundaryWork fs d (t.updPower f) :=
  h.trans ⟨rfl, List.Subset.refl _, fun _ _ => rfl⟩

theorem BoundaryWork.emit (h : BoundaryWork fs d t) {o : Out} : BoundaryWork fs d (t.emit o) :=
  h.trans ⟨rfl, List.subset_append_left _ _, fun _ _ => rfl⟩

theorem BoundaryWork.free (h : BoundaryWork fs d t) : BoundaryWork fs d t.free.2 := h.trans ⟨rfl, List.Subset.refl _, fun _ _ => rfl⟩

theorem BoundaryWork.ite {p : Prop} [Decidable p] {u : Dev} (ht : BoundaryWork fs d t) (hu : BoundaryWork fs d u) :
    BoundaryWork fs d (if p then t else u) := by
  split
  · exact ht
  · exact hu

theorem BoundaryWork.foldl {β : Type} {g : Dev → β → Dev} {l : List β} (h : BoundaryWork fs d t) (hg : ∀ t, ∀ b ∈ l, BoundaryWork fs t (g t b)) :
    BoundaryWork fs d (l.foldl g t) :=
  List.foldlRecOn (motive := BoundaryWork fs d) l g h fun t ht b hb => ht.trans (hg t b hb)

/-- The same for a fold that carries a number beside the device. -/
theorem BoundaryWork.foldl_snd {β : Type} {g : Nat × Dev → β → Nat × Dev} {r : Nat × Dev} {l : List β} (h : BoundaryWork fs d r.2)
    (hg : ∀ r, ∀ b ∈ l, BoundaryWork fs r.2 (g r b).2) : BoundaryWork fs d (l.foldl g r).2 :=
  List.foldlRecOn (motive := fun r => BoundaryWork fs d r.2) l g h fun r hr b hb => hr.trans (hg r b hb)

end

/-! ### The generator -/

theorem tickEnter_work (d : Dev) (state src : Nat) (alt : Bool) : BoundaryWork pointFlds d (d.tickEnter state src alt) := by
  unfold Dev.tickEnter
  exact (boundaryWork_refl _ d).wr.wr.wr.wr.updGen

theorem tickLoss_work (d : Dev) : BoundaryWork pointFlds d d.tickLoss := by
  unfold Dev.tickLoss
  exact ((boundaryWork_refl _ d).wr.trans (tickEnter_work _ _ _ _)).ite (boundaryWork_refl _ d)

theorem tickLock_work (d : Dev) : BoundaryWork pointFlds d d.tickLock := by
  unfold Dev.tickLock
  exact (tickEnter_work d _ _ _).ite ((tickEnter_work d _ _ _).ite (boundaryWork_refl _ d))

theorem correct_work (d : Dev) (stepBy : Int) : BoundaryWork pointFlds d (d.correct stepBy) := by
  unfold Dev.correct
  exact (boundaryWork_refl _ d).updGen

theorem generatorBoundary_work (d : Dev) (o : BoundaryObs) : BoundaryWork pointFlds d (d.generatorBoundary o) := by
  unfold Dev.generatorBoundary
  extract_lets length pri alt ep ea act free far d1 d2 d3
  have h2 : BoundaryWork pointFlds d d2 := (boundaryWork_refl _ d).updGen.updLeague
  have h3 : BoundaryWork pointFlds d d3 := by
    refine h2.wr.ite ?_
    generalize act = event
    cases event with
    | err e => exact h2.wr
    | missing => exact h2.wr.updGen
    | unexpected => exact h2
  exact ((h3.trans (tickLoss_work d3)).trans (tickLock_work _)).trans (correct_work _ _)

/-! ### Power -/

theorem showHeat_work (d : Dev) (die : Nat) (o : BoundaryObs) (ceil : Nat) (h : DieHeat) : BoundaryWork pointFlds d (d.showHeat die o ceil h) := by
  unfold Dev.showHeat
  exact (boundaryWork_refl _ d).wr.wr.wr.wr.wr.wr.wr.wr.wr.wr.wr.wr

theorem thermalBoundary_work (d : Dev) (o : BoundaryObs) : BoundaryWork pointFlds d (d.thermalBoundary o) := by
  unfold Dev.thermalBoundary
  refine ((boundaryWork_refl _ d).foldl fun t die _ => ?compute).foldl fun t die _ => ?steward
  case compute =>
    have hcapped : BoundaryWork pointFlds t (if t.rd die Reg.PWR_THERM.CEIL < 7 then t.inc die Reg.PWR_THERM.CAPPED_TICKS 1 else t) :=
      (boundaryWork_refl _ t).wr.ite (boundaryWork_refl _ t)
    exact hcapped.updPower.trans (showHeat_work _ _ _ _ _)
  case steward => exact (boundaryWork_refl _ t).updPower.wr.wr

theorem setRails_work (d : Dev) (points : List Nat) : BoundaryWork pointFlds d (d.setRails points) := by
  unfold Dev.setRails
  refine (boundaryWork_refl _ d).foldl fun t die _ => ?_
  exact (boundaryWork_refl _ t).ite (boundaryWork_refl _ t).wr.wr.emit.updPower

/-- The energy counters stand above the tick's and the power's registers, and the role of the package is no register of 64 bits. -/
theorem not_sameField_energy {f : Fld} (hlo : f.lo = 0) (hoff : 0x20030 ≤ f.off) (hst : f.st = true) : ∀ g ∈ pointFlds, ¬ SameField 0 f 0 g := by
  intro g hg hsame
  obtain ⟨hkey, hsticky⟩ := hsame
  unfold regKey at hkey
  simp only [pointFlds, boundaryFlds, List.cons_append, List.nil_append, List.mem_cons, List.not_mem_nil, or_false] at hg
  obtain rfl | rfl | rfl | rfl | rfl | rfl := hg
  · simp [hst, Reg.PWR_STATUS.OPP_CUR] at hsticky
  · simp [hst, Reg.PWR_STATUS.OPP_NEXT] at hsticky
  · simp [hst, Reg.PWR_CTRL.OPP_MIN] at hsticky
  · simp [hst, Reg.GLB_SEAL_STATUS.SEALED] at hsticky
  · simp only [Reg.TICK_COUNT.COUNT] at hkey
    omega
  · simp only [Reg.LINK_CFG.ROLE] at hkey
    omega

theorem BoundaryWork.addEnergy {d t : Dev} (h : BoundaryWork pointFlds d t) (f : Fld) {uj : Nat} (hlo : f.lo = 0) (hoff : 0x20030 ≤ f.off)
    (hst : f.st = true) : BoundaryWork pointFlds d (t.addEnergy f uj) := h.wr_of (not_sameField_energy hlo hoff hst)

theorem energyBoundary_work (d : Dev) (o : BoundaryObs) : BoundaryWork pointFlds d (d.energyBoundary o) := by
  unfold Dev.energyBoundary
  extract_lets d1 r
  have h1 : BoundaryWork pointFlds d d1 := (boundaryWork_refl _ d).addEnergy Reg.PWR_ENERGY_PKG.UJ rfl (by decide) rfl
  have hr : BoundaryWork pointFlds d r.2 := by
    refine BoundaryWork.foldl_snd (r := (o.energyUj, d1)) h1 fun r p _ => ?_
    split
    · exact boundaryWork_refl _ _
    · have hpart : BoundaryWork pointFlds r.2 (r.2.free.2.addEnergy (Reg.PWR_PART_ENERGY.UJ.at 8 p) (r.2.free.1 % (r.1 + 1))) :=
        (boundaryWork_refl _ r.2).free.addEnergy (Reg.PWR_PART_ENERGY.UJ.at 8 p) rfl (Nat.le_trans (by decide) (Nat.le_add_right _ _)) rfl
      refine BoundaryWork.foldl_snd (r := (r.2.free.1 % (r.1 + 1), r.2.free.2.addEnergy (Reg.PWR_PART_ENERGY.UJ.at 8 p) (r.2.free.1 % (r.1 + 1)))) hpart
        fun t q _ => ?_
      exact (boundaryWork_refl _ t.2).free.addEnergy (Reg.PWR_Q_ENERGY.UJ.at 8 q) rfl (Nat.le_trans (by decide) (Nat.le_add_right _ _)) rfl
  exact hr.addEnergy Reg.PWR_ENERGY_UNATTR.UJ rfl (by decide) rfl

theorem Dev.rd_lt (d : Dev) (die : Nat) (f : Fld) : d.rd die f < 2 ^ f.width := Nat.mod_lt _ (Nat.two_pow_pos _)

/-- Where the tick that begins is none of dispatch, its point and the next one are OPP_MIN (R579). -/
theorem applyPoints_work (d : Dev) (own lim : Nat) :
    BoundaryWork boundaryFlds d (d.applyPoints own lim false) ∧ (d.applyPoints own lim false).opp = d.rd 0 Reg.PWR_CTRL.OPP_MIN ∧
      (d.applyPoints own lim false).rd 0 Reg.PWR_STATUS.OPP_NEXT = d.rd 0 Reg.PWR_CTRL.OPP_MIN := by
  have hlo : d.rd 0 Reg.PWR_CTRL.OPP_MIN % 2 ^ 3 = d.rd 0 Reg.PWR_CTRL.OPP_MIN := Nat.mod_eq_of_lt (Dev.rd_lt d 0 Reg.PWR_CTRL.OPP_MIN)
  obtain ⟨t, points, happly, hset, hcur, hnext⟩ : ∃ t points, d.applyPoints own lim false = t.setRails points ∧ BoundaryWork boundaryFlds d t ∧
      t.rd 0 Reg.PWR_STATUS.OPP_CUR = d.rd 0 Reg.PWR_CTRL.OPP_MIN ∧ t.rd 0 Reg.PWR_STATUS.OPP_NEXT = d.rd 0 Reg.PWR_CTRL.OPP_MIN := by
    refine ⟨((((d.wr 0 Reg.PWR_STATUS.OPP_CUR (d.rd 0 Reg.PWR_CTRL.OPP_MIN)).wr 0 Reg.PWR_STATUS.OPP_NEXT (d.rd 0 Reg.PWR_CTRL.OPP_MIN)).wr 0
      Reg.PWR_STATUS.LIMITER 5).updLeague (fun l => { l with oppNext2 := d.rd 0 Reg.PWR_CTRL.OPP_MIN })).updPower (fun p => { p with limiters := [], ramp := 0 }),
      _, rfl, (boundaryWork_refl _ d).wr.wr.wr.updLeague.updPower, ?_, ?_⟩
    · simp (disch := decide) only [Dev.updPower_rd, Dev.updLeague_rd, Dev.rd_wr_separate, Dev.rd_wr_same]
      exact hlo
    · simp (disch := decide) only [Dev.updPower_rd, Dev.updLeague_rd, Dev.rd_wr_separate, Dev.rd_wr_same]
      exact hlo
  have hrails := setRails_work t points
  rw [happly]
  exact ⟨hset.trans (hrails.mono (by decide)), (hrails.reads _ (by decide)).trans hcur, (hrails.reads _ (by decide)).trans hnext⟩

theorem BoundaryWork.sealed {d t : Dev} (h : BoundaryWork boundaryFlds d t) : t.sealed = d.sealed := by
  unfold Dev.sealed
  rw [h.reads _ (by decide)]

/-- Power at a boundary before seal: the thermal sample, the points of an idle tick, the energy counters. -/
theorem Dev.powerBoundary_unsealed {d : Dev} {o : BoundaryObs} (h : (d.thermalBoundary o).sealed = false) :
    d.powerBoundary o = ((((d.thermalBoundary o).updPower (fun p => { p with allowance := (d.thermalBoundary o).rd 0 Reg.PWR_CTRL.OPP_MIN })).applyPoints
      d.power.allowance 5 false).energyBoundary o) := by
  have hupd (f : Power → Power) : ((d.thermalBoundary o).updPower f).sealed = false := h
  unfold Dev.powerBoundary
  simp [h, hupd]

theorem powerBoundary_work {d : Dev} (hsealed : d.sealed = false) (o : BoundaryObs) :
    BoundaryWork boundaryFlds d (d.powerBoundary o) ∧ (d.powerBoundary o).opp = d.rd 0 Reg.PWR_CTRL.OPP_MIN ∧
      (d.powerBoundary o).rd 0 Reg.PWR_STATUS.OPP_NEXT = d.rd 0 Reg.PWR_CTRL.OPP_MIN := by
  have hthermal : BoundaryWork boundaryFlds d (d.thermalBoundary o) := (thermalBoundary_work d o).mono (by decide)
  rw [Dev.powerBoundary_unsealed (hthermal.sealed.trans hsealed)]
  obtain ⟨hpoints, hopp, hnext⟩ := applyPoints_work ((d.thermalBoundary o).updPower (fun p =>
    { p with allowance := (d.thermalBoundary o).rd 0 Reg.PWR_CTRL.OPP_MIN })) d.power.allowance 5
  have hmin : (d.thermalBoundary o).rd 0 Reg.PWR_CTRL.OPP_MIN = d.rd 0 Reg.PWR_CTRL.OPP_MIN := hthermal.reads _ (by decide)
  have henergy := energyBoundary_work (((d.thermalBoundary o).updPower (fun p =>
    { p with allowance := (d.thermalBoundary o).rd 0 Reg.PWR_CTRL.OPP_MIN })).applyPoints d.power.allowance 5 false) o
  exact ⟨(hthermal.updPower.trans hpoints).trans (henergy.mono (by decide)), (henergy.reads _ (by decide)).trans (hopp.trans hmin),
    (henergy.reads _ (by decide)).trans (hnext.trans hmin)⟩

/-! ### The budgets of the homes -/

theorem hitFld_separate (die p : Nat) (hp : p < 16) : ∀ g ∈ pointFlds, ((hitFld die).at 8 p).Separate g := by
  have hsteward : ∀ p < 16, ∀ g ∈ pointFlds, (Reg.BMC_BW_BUDGET.HIT_LAST.at 8 p).Separate g := by decide
  have hcompute : ∀ p < 16, ∀ g ∈ pointFlds, (Reg.MEMC_BW_BUDGET.HIT_LAST.at 8 p).Separate g := by decide
  unfold hitFld
  split
  · exact hsteward p hp
  · exact hcompute p hp

theorem usedFld_separate (die p : Nat) (hp : p < 16) : ∀ g ∈ pointFlds, ((usedFld die).at 8 p).Separate g := by
  have hsteward : ∀ p < 16, ∀ g ∈ pointFlds, (Reg.BMC_BW_BUDGET.USED.at 8 p).Separate g := by decide
  have hcompute : ∀ p < 16, ∀ g ∈ pointFlds, (Reg.MEMC_BW_BUDGET.USED.at 8 p).Separate g := by decide
  unfold usedFld
  split
  · exact hsteward p hp
  · exact hcompute p hp

theorem budgetBoundary_work (d : Dev) : BoundaryWork pointFlds d d.budgetBoundary := by
  have hfold : BoundaryWork pointFlds d (d.dies.foldl (fun d die => (List.range 16).foldl (fun (d : Dev) p =>
      let b := d.budget die p
      (d.wr die ((hitFld die).at 8 p) (b2n (b ≠ 0 && b * 4096 ≤ d.charged die p))).wr die ((usedFld die).at 8 p) 0) d) d) := by
    refine (boundaryWork_refl _ d).foldl fun t die _ => (boundaryWork_refl _ t).foldl fun t p hp => ?_
    exact ((boundaryWork_refl _ t).wr (hitFld_separate die p (List.mem_range.1 hp))).wr (usedFld_separate die p (List.mem_range.1 hp))
  exact hfold.trans ⟨rfl, List.Subset.refl _, fun _ _ => rfl⟩

/-! ### A device that boot has not sealed yet -/

/-- A device that boot has not sealed yet: nothing runs on its perches and cores, no home holds an access, and it manages no league. -/
structure Dev.Unsealed (d : Dev) : Prop where
  sealed : d.sealed = false
  fresh : d.boot.fresh = true
  member : d.isManager = false
  held : d.held = []
  peerHeld : d.peerHeld = []
  harts : d.harts = []
  perches : d.perches = []
  spans : d.spans = []

theorem BoundaryWork.unsealed {d t : Dev} (h : BoundaryWork boundaryFlds d t) (hd : d.Unsealed) : t.Unsealed := by
  have hmanager : t.isManager = d.isManager := by
    unfold Dev.isManager
    rw [h.reads _ (by decide)]
  refine ⟨h.sealed.trans hd.sealed, ?_, hmanager.trans hd.member, ?_, ?_, ?_, ?_, ?_⟩
  · rw [h.only]; exact hd.fresh
  · rw [h.only]; exact hd.held
  · rw [h.only]; exact hd.peerHeld
  · rw [h.only]; exact hd.harts
  · rw [h.only]; exact hd.perches
  · rw [h.only]; exact hd.spans

section
variable {d : Dev} (h : d.Unsealed)
include h

/-- Time that passes where nothing runs. -/
theorem Dev.Unsealed.toTime (ns : Nat) : d.toTime ns = { d with elapsed := max d.elapsed ns } := by
  unfold Dev.toTime
  split
  case isTrue hover => rw [Nat.max_eq_left hover]
  case isFalse hlater =>
    have hnone := h.perches
    have hidle := h.harts
    obtain ⟨⟩ := d
    dsimp only at hnone hidle
    subst hnone hidle
    unfold Dev.passNs
    rw [Nat.max_eq_right (by omega), Nat.add_sub_cancel' (by omega)]
    rfl

theorem Dev.Unsealed.endSpans : d.endSpans = d := by
  unfold Dev.endSpans
  simp [h.perches, h.spans]

theorem Dev.Unsealed.tickEvents : d.tickEvents = d := by
  unfold Dev.tickEvents
  simp [h.sealed]

theorem Dev.Unsealed.countTick : d.countTick = d := by
  unfold Dev.countTick
  simp [h.sealed, h.fresh]

theorem Dev.Unsealed.releaseFree : d.releaseFree = d := by
  unfold Dev.releaseFree
  simp [h.held, h.peerHeld]

theorem Dev.Unsealed.dmaBoundary : d.dmaBoundary = d := by
  unfold Dev.dmaBoundary
  simp [h.perches]

theorem Dev.Unsealed.beaconBoundary : d.beaconBoundary = d := by
  unfold Dev.beaconBoundary
  simp [h.member]

theorem Dev.Unsealed.hartBoundary : d.hartBoundary = d := by
  unfold Dev.hartBoundary
  simp [h.harts]

end

/-- The clock of the tick that begins: the time of the ended tick is added, and what belonged to the ended tick is gone. -/
def Dev.nextTick (d : Dev) (length : Nat) : Dev :=
  { d with timeNs := d.timeNs + length, elapsed := 0, moves := [], overrunDue := false, spanStarts := [], lateIn := [],
           hif := { d.hif with windows := [], worked := [] } }

theorem Dev.Unsealed.nextTick {d : Dev} (h : d.Unsealed) (length : Nat) : (d.nextTick length).Unsealed :=
  ⟨h.sealed, h.fresh, h.member, h.held, h.peerHeld, h.harts, h.perches, h.spans⟩

/-- A boundary before seal: the generator and the power controller work, the next tick begins, the boundary is sent to every die, and the homes' budgets start
anew (R44, R47, R579). -/
theorem Dev.Unsealed.boundary {d : Dev} (h : d.Unsealed) (o : BoundaryObs) :
    ∃ g, BoundaryWork boundaryFlds { d with elapsed := max d.elapsed d.tickLength } g ∧
      d.boundary o = (((g.powerBoundary o).nextTick d.tickLength).emit (.boundary (g.powerBoundary o).tick)).budgetBoundary := by
  have hclock : Dev.Unsealed { d with elapsed := max d.elapsed d.tickLength } :=
    ⟨h.sealed, h.fresh, h.member, h.held, h.peerHeld, h.harts, h.perches, h.spans⟩
  unfold Dev.boundary
  extract_lets length d1 d2 d3 hif d4 began d5 d6 d7 d8 d9 d10 d11 d12
  have h1 : d1 = { d with elapsed := max d.elapsed d.tickLength } := by
    change d.endSpans.toTime d.tickLength = _
    rw [h.endSpans, h.toTime]
  have hwork : BoundaryWork boundaryFlds { d with elapsed := max d.elapsed d.tickLength } d2 := h1 ▸ (generatorBoundary_work d1 _).mono (by decide)
  refine ⟨d2, hwork, ?_⟩
  have h2 : d2.Unsealed := hwork.unsealed hclock
  have hpower : (d2.powerBoundary o).Unsealed := (powerBoundary_work h2.sealed o).1.unsealed h2
  have h4 : d4 = (d2.powerBoundary o).nextTick d.tickLength := by
    change d3.nextTick d.tickLength = _
    rw [show d3 = d2.powerBoundary o from hpower.tickEvents]
  have hu4 : d4.Unsealed := h4 ▸ hpower.nextTick d.tickLength
  have hbegan : began = false := by simp [began, hu4.sealed, hu4.fresh]
  have h5 : d5 = d4 := by simp [d5, hbegan, hu4.countTick]
  have h7 : d7 = d4.emit (.boundary d4.tick) := by simp [d7, d6, hbegan, h5]
  have hu7 : d7.Unsealed := h7 ▸ (boundaryWork_refl boundaryFlds d4).emit.unsealed hu4
  have h8 : d8 = d7 := by simp [d8, hu7.sealed]
  have hu9 : d9.Unsealed := ((budgetBoundary_work d8).mono (by decide)).unsealed (h8 ▸ hu7)
  have h10 : d10 = d9 := by simp [d10, hbegan]
  have h11 : d11 = d9 := by simp only [d11, h10, hu9.releaseFree, hu9.dmaBoundary]
  have h12 : d12 = d9 := by simp [d12, h11, hu9.sealed]
  rw [h12, hu9.beaconBoundary, hu9.hartBoundary]
  simp only [d9, h8, h7, h4]
  rfl

/-- Settles O19: what runs at a boundary before seal keeps time and memory, and sets the points of an idle tick. -/
theorem boundaryBeforeSeal : Obligations.BoundaryBeforeSeal := by
  unfold Obligations.BoundaryBeforeSeal
  intro o s hon hrun hsealed hfresh hman hheld hpeer hharts hperches hspans
  have hu : s.dev.Unsealed := ⟨hsealed, hfresh, hman, hheld, hpeer, hharts, hperches, hspans⟩
  obtain ⟨g, hg, hboundary⟩ := hu.boundary o
  obtain ⟨hpower, hopp, hnext⟩ := powerBoundary_work (hg.sealed.trans hsealed) o
  have hbudget := budgetBoundary_work (((g.powerBoundary o).nextTick s.dev.tickLength).emit (.boundary (g.powerBoundary o).tick))
  have hwork := hg.trans hpower
  have hmin : g.rd 0 Reg.PWR_CTRL.OPP_MIN = s.dev.rd 0 Reg.PWR_CTRL.OPP_MIN := hg.reads _ (by decide)
  have htick : (g.powerBoundary o).tick = s.dev.tick := hwork.reads Reg.TICK_COUNT.COUNT (by decide)
  refine ⟨{ s with dev := s.dev.boundary o }, ?_, rfl, ?_⟩
  · change execTickBoundary o s = _
    unfold execTickBoundary
    rw [State.onDev_of_on hon, if_neg hrun]
  · dsimp only
    rw [hboundary]
    refine ⟨by rw [hbudget.only]; rfl, ?_, (hbudget.reads _ (by decide)).trans htick, hbudget.outs ?_, (hbudget.reads _ (by decide)).trans (hopp.trans hmin),
      (hbudget.reads _ (by decide)).trans (hnext.trans hmin), by rw [hbudget.only]; rfl, ?_, ?_⟩
    · rw [hbudget.only]
      change (g.powerBoundary o).timeNs + s.dev.tickLength = _
      rw [hwork.only]
      rfl
    · rw [htick]
      simp
    · rw [hbudget.only]
      change (g.powerBoundary o).mem = _
      rw [hwork.only]
    · rw [hbudget.only]
      change (g.powerBoundary o).perches = _
      rw [hwork.only]
      exact hperches

end Sys2Proof.Machine
end

