-- ==== Sys2Proof/Proofs/StatusRecord.lean ====
section
/-! The status record of a dispatch (R51, R62, R66): its bytes, where it goes, and what a write that fails leaves. -/

namespace Sys2Proof.Machine

@[simp] theorem length_leBytes : ∀ k n : Nat, (leBytes k n).length = k
  | 0, _ => rfl
  | k + 1, n => by simp [leBytes, length_leBytes k]

/-- The bytes of a number hold its low bits (R5). -/
@[simp] theorem leNat_leBytes : ∀ k n : Nat, leNat (leBytes k n) = n % 256 ^ k
  | 0, n => by simp [leBytes, leNat, Nat.mod_one]
  | k + 1, n => by
    have hsplit : n % 256 ^ (k + 1) = n % 256 + 256 * (n / 256 % 256 ^ k) := by
      rw [Nat.pow_succ', Nat.mod_mul]
    simp [leBytes, leNat, leNat_leBytes k, hsplit]

theorem drop_leBytes {k j : Nat} (h : k ≤ j) (n : Nat) : (leBytes k n).drop j = [] := List.drop_eq_nil_of_le (by simpa using h)

/-- A counter field that saturates reads the sum, at most what it holds. -/
theorem Dev.rd_inc_same (d : Dev) (die : Nat) (f : Fld) (n : Nat) : (d.inc die f n).rd die f = min (d.rd die f + n) (2 ^ f.width - 1) := by
  unfold Dev.inc satAdd
  rw [Dev.rd_wr_same]
  have := Nat.two_pow_pos f.width
  exact Nat.mod_eq_of_lt (by omega)

/-- The 32 bytes of a status record (R51). -/
theorem SpanInfo.record_bytes (i : SpanInfo) (span : Nat) :
    (i.record span).length = 32 ∧ fld (i.record span) 0 8 = i.tick % 2 ^ 64 ∧ fld (i.record span) 8 2 = span % 65536 ∧
      fld (i.record span) 10 1 = i.outcome % 256 ∧ fld (i.record span) 12 2 = i.perches % 65536 ∧ fld (i.record span) 14 2 = i.ended % 65536 ∧
      fld (i.record span) 16 4 = i.cyclesMax % 2 ^ 32 ∧ fld (i.record span) 20 2 = i.dispatch % 65536 ∧ fld (i.record span) 22 2 = i.firstPerch % 65536 := by
  unfold SpanInfo.record fld
  simp [List.drop_append, drop_leBytes]

/-- A record that is due is written once, and kept with the continuation unless it is SKIPPED (R51, R62). -/
def Dev.recordTaken (d : Dev) (span : Nat) (e : SpanEntry) : Dev :=
  let i := d.span span
  let t := d.setSpan span { i with recordDue := false }
  if e.kind = 0 ∨ i.outcome = ocSkipped then t else t.updCont e.contId (fun c => { c with record := i.record span })

theorem Dev.statusRecord_due {d : Dev} {span : Nat} {e : SpanEntry} (hdue : (d.span span).recordDue = true) (he : d.anyEntry span = some e) :
    d.statusRecord span = if bit e.flags 0 = true then (d.recordTaken span e).writeStatus e ((d.span span).record span) else d.recordTaken span e := by
  have he' : (d.setSpan span { d.span span with recordDue := false }).anyEntry span = some e := he
  unfold Dev.statusRecord
  rw [if_neg (by simp [hdue])]
  dsimp only
  rw [he']
  rfl

/-- The write of a status record: where it fails, if it does, and the device after it (R51). -/
def Dev.recordWrite (d : Dev) (e : SpanEntry) (b : List Byte) : Option Nat × Dev :=
  d.dvaWrite (tickXq e.partition e.spanId) (.hif 0xFFFF) ((tickXq e.partition e.spanId).rq false true) none e.statusDva (clean b)

/-- A write of a record that fails is counted (R51, R66). -/
theorem Dev.writeStatus_eq (d : Dev) (e : SpanEntry) (b : List Byte) :
    d.writeStatus e b = match (d.recordWrite e b).1 with
      | none => (d.recordWrite e b).2
      | some _ => (d.recordWrite e b).2.inc 0 Reg.TICK_OVERRUN_CNT.STATUS_LOST 1 := by
  unfold Dev.writeStatus Dev.recordWrite
  dsimp only
  split
  · next hok => rw [hok]
  · next hfail => rw [hfail]

/-- Settles O26: the record's bytes are fixed by its layout; a record that is asked for is a write of the tick unit, counted where it fails. -/
theorem statusRecordWritten : Obligations.StatusRecordWritten := by
  unfold Obligations.StatusRecordWritten
  intro span e s hon hdue he i b d0 d w
  obtain ⟨hlen, h0, h8, h10, h12, h14, h16, h20, h22⟩ := i.record_bytes span
  have hexec : exec (.spanStatusRecord span) s = .next { s with dev := if bit e.flags 0 = true then d.writeStatus e b else d } := by
    change execSpanStatusRecord span s = _
    unfold execSpanStatusRecord
    rw [State.onDev_of_on hon, Dev.statusRecord_due hdue he]
    rfl
  refine ⟨hlen, h0, h8, h10, h12, h14, h16, h20, h22, fun hflag => ?none, fun hflag hok => ?written, fun a hflag hfail => ?lost⟩
  case none => rw [hexec, if_neg (by simp [hflag])]
  case written =>
    refine ⟨{ s with dev := if bit e.flags 0 = true then d.writeStatus e b else d }, hexec, by dsimp only, ?_⟩
    dsimp only
    rw [if_pos hflag, Dev.writeStatus_eq, show (d.recordWrite e b).1 = none from hok]
    rfl
  case lost =>
    refine ⟨{ s with dev := if bit e.flags 0 = true then d.writeStatus e b else d }, hexec, by dsimp only, ?_⟩
    dsimp only
    rw [if_pos hflag, Dev.writeStatus_eq, show (d.recordWrite e b).1 = some a from hfail]
    exact ⟨onlyRegs_wr _ _ _ _, Dev.rd_inc_same _ _ _ _⟩

end Sys2Proof.Machine
end

