-- ==== Sys2Proof/Proofs/SpanTime.lean ====
section
/-! What the spans of the perches see of time and of one another: the cycles that pass (R58, R116), the credit of stream channels (R111), and the schedule of
the tick (R48). -/

namespace Sys2Proof.Machine

/-- What `mapV` does at a key whose value it may change: an unlisted key must keep the default. -/
theorem KMap.get_mapV_of {α : Type} [DecidableEq α] (d : α) (f : Nat → α → α) : ∀ (m : KMap α) (k : Nat), (KMap.get d m k = d → f k d = d) →
    KMap.get d (KMap.mapV d f m) k = f k (KMap.get d m k)
  | [], _, hf => (hf rfl).symm
  | (k', v) :: t, k, hf => by
    by_cases h : k = k'
    · subst h
      by_cases hv : f k v = d
      · simp [KMap.mapV, KMap.get, KMap.get_erase, hv]
      · simp [KMap.mapV, KMap.get, hv]
    · have hget : KMap.get d ((k', v) :: t) k = KMap.get d t k := by simp [KMap.get, h]
      have ih := KMap.get_mapV_of d f t k (hget ▸ hf)
      by_cases hv : f k' v = d
      · simp [KMap.mapV, KMap.get, KMap.get_erase, hv, h, ih]
      · simp [KMap.mapV, KMap.get, KMap.get_erase, hv, h, ih]

/-! ### Time -/

/-- A perch counts the cycles of the ns that pass where it runs a span (R58). -/
theorem Dev.perch_passNs (d : Dev) (ns q : Nat) :
    (d.passNs ns).perch q = if d.runs? q = true then (d.perch q).runFor (d.perchCycles (d.slotNs q ns)) else d.perch q := by
  refine KMap.get_mapV_of {} (fun k p => if d.runs? k then p.runFor (d.perchCycles (d.slotNs k ns)) else p) d.perches q fun hidle => ?_
  have hstopped : d.runs? q = false := by simp [Dev.runs?, Dev.perch, hidle]
  simp [hstopped]

/-- Beside the perches and the cores that count cycles, time changes the time alone. -/
theorem Dev.toTime_frame (d : Dev) (ns : Nat) :
    d.toTime ns = { d with elapsed := max d.elapsed ns, perches := (d.toTime ns).perches, harts := (d.toTime ns).harts } := by
  unfold Dev.toTime
  split
  case isTrue hover => rw [Nat.max_eq_left hover]
  case isFalse hlater =>
    have hadd : d.elapsed + (ns - d.elapsed) = max d.elapsed ns := by omega
    unfold Dev.passNs
    rw [hadd]

theorem Dev.elapsed_toTime (d : Dev) (ns : Nat) : (d.toTime ns).elapsed = max d.elapsed ns := by rw [Dev.toTime_frame]

/-- Registers do not see time pass. -/
theorem Dev.rd_toTime (d : Dev) (ns die : Nat) (f : Fld) : (d.toTime ns).rd die f = d.rd die f := by
  rw [Dev.toTime_frame]
  rfl

/-- A perch that runs nothing does not see time pass. -/
theorem Dev.perch_toTime_stopped {d : Dev} {q : Nat} (h : d.runs? q = false) (ns : Nat) : (d.toTime ns).perch q = d.perch q := by
  unfold Dev.toTime
  split
  · rfl
  · rw [Dev.perch_passNs, if_neg (by simp [h])]

/-- Of a perch, time changes the counts of cycles and the warning that they make pending (R58, R116). -/
theorem Dev.perch_toTime (d : Dev) (ns q : Nat) :
    (d.toTime ns).perch q = { d.perch q with remaining := ((d.toTime ns).perch q).remaining, expired := ((d.toTime ns).perch q).expired,
                                             mcycle := ((d.toTime ns).perch q).mcycle, mip := ((d.toTime ns).perch q).mip } := by
  unfold Dev.toTime
  split
  · rfl
  · rw [Dev.perch_passNs]
    split
    · rfl
    · rfl

theorem Dev.spanId_toTime (d : Dev) (ns q : Nat) : ((d.toTime ns).perch q).spanId = (d.perch q).spanId := by
  rw [Dev.perch_toTime]

/-! ### Credit of stream channels -/

/-- The device but for the endpoints of perches is the same. -/
structure OnlyEndpoints (d t : Dev) : Prop where
  only : t = { d with perches := t.perches }
  perch : ∀ q, t.perch q = { d.perch q with ep := (t.perch q).ep }

theorem onlyEndpoints_refl (d : Dev) : OnlyEndpoints d d := ⟨rfl, fun _ => rfl⟩

theorem OnlyEndpoints.trans {d t u : Dev} (h : OnlyEndpoints d t) (hu : OnlyEndpoints t u) : OnlyEndpoints d u := by
  refine ⟨?_, fun q => ?_⟩
  · have honly := hu.only
    rw [h.only] at honly
    exact honly
  · have hperch := hu.perch q
    rw [h.perch q] at hperch
    exact hperch

theorem OnlyEndpoints.foldl {β : Type} {g : Dev → β → Dev} {d : Dev} {l : List β} (hg : ∀ t b, OnlyEndpoints t (g t b)) : OnlyEndpoints d (l.foldl g d) :=
  List.foldlRecOn (motive := OnlyEndpoints d) l g (onlyEndpoints_refl d) fun t ht b _ => ht.trans (hg t b)

theorem onlyEndpoints_updEndp (d : Dev) (p e : Nat) (f : Endpoint → Endpoint) : OnlyEndpoints d (d.updEndp p e f) := by
  refine ⟨rfl, fun q => ?_⟩
  unfold Dev.updEndp
  rw [Dev.perch_updPerch]
  by_cases hq : q = p
  · subst hq
    simp
  · simp [hq]

theorem onlyEndpoints_returnCredit (d : Dev) (p e units : Nat) : OnlyEndpoints d (d.returnCredit p e units) := by
  unfold Dev.returnCredit
  split
  · split
    · exact onlyEndpoints_refl d
    · exact onlyEndpoints_updEndp d _ _ _
  · exact onlyEndpoints_refl d

theorem onlyEndpoints_endpointsEnd (d : Dev) (p : Nat) : OnlyEndpoints d (d.endpointsEnd p) := by
  unfold Dev.endpointsEnd
  refine OnlyEndpoints.foldl fun t e => ?_
  dsimp only
  split
  · exact (onlyEndpoints_returnCredit t p e _).trans (onlyEndpoints_updEndp _ p e _)
  · exact onlyEndpoints_updEndp t p e _

theorem onlyEndpoints_grantCredit (d : Dev) (p : Nat) : OnlyEndpoints d (d.grantCredit p) := by
  unfold Dev.grantCredit
  refine OnlyEndpoints.foldl fun t e => ?_
  split
  · exact onlyEndpoints_refl t
  · dsimp only
    split
    · exact onlyEndpoints_updEndp t _ _ _
    · split
      · exact onlyEndpoints_updEndp t _ _ _
      · exact onlyEndpoints_refl t

/-! ### The schedule of the tick -/

/-- Two devices that dispatch the same pattern: the schedule in force, the tick, the dies that are left, the runs, the continuations and the spans started. -/
structure SamePattern (d t : Dev) : Prop where
  charter : t.charter = d.charter
  boot : t.boot = d.boot
  runs : t.runs = d.runs
  conts : t.conts = d.conts
  starts : t.spanStarts = d.spanStarts
  plan : t.rd 0 Reg.RAS_PKG.PLAN = d.rd 0 Reg.RAS_PKG.PLAN
  tick : t.rd 0 Reg.TICK_COUNT.COUNT = d.rd 0 Reg.TICK_COUNT.COUNT
  dispatching : t.rd 0 Reg.TICK_STATUS.DISPATCHING = d.rd 0 Reg.TICK_STATUS.DISPATCHING
  dieFailed : t.rd 0 Reg.RAS_PKG.DIE_FAILED = d.rd 0 Reg.RAS_PKG.DIE_FAILED
  part : t.rd 0 Reg.GLB_DIE_ID.PART = d.rd 0 Reg.GLB_DIE_ID.PART

/-- The schedule in force is the charter's for the plan (R48, R555). -/
theorem Dev.sched_congr {d t : Dev} (hcharter : t.charter = d.charter) (hplan : t.rd 0 Reg.RAS_PKG.PLAN = d.rd 0 Reg.RAS_PKG.PLAN) : t.sched = d.sched := by
  unfold Dev.sched Dev.planNow
  rw [hcharter, hplan]

section
variable {d t : Dev} (h : SamePattern d t)
include h

theorem SamePattern.sched : t.sched = d.sched := Dev.sched_congr h.charter h.plan

theorem SamePattern.entryOf (span : Nat) : t.entryOf span = d.entryOf span := by
  unfold Dev.entryOf Dev.tick
  rw [h.sched, h.tick]

theorem SamePattern.groupMap (e : SpanEntry) : t.groupMap e = d.groupMap e := by
  unfold Dev.groupMap
  rw [h.sched]

theorem SamePattern.skips (e : SpanEntry) (g : Nat) : t.skips e g = d.skips e g := by
  unfold Dev.skips
  rw [h.runs]

theorem SamePattern.perchOk (p : Nat) : t.perchOk p = d.perchOk p := by
  unfold Dev.perchOk Dev.perchCount Dev.nd Dev.sh4 Dev.dieFailed Dev.lostDies
  rw [h.part, h.dieFailed, h.boot]

theorem SamePattern.startedNow (p : Nat) (e : SpanEntry) : t.startedNow p e = d.startedNow p e := by
  unfold Dev.startedNow Dev.tick
  rw [h.starts, h.tick]

theorem SamePattern.tickNow : t.tick = d.tick := h.tick

theorem SamePattern.dispatches : t.dispatching = d.dispatching := by
  unfold Dev.dispatching
  rw [h.dispatching]

end

end Sys2Proof.Machine
end

