-- ==== Sys2Proof/Proofs/SpanStart.lean ====
section
/-! A span starts on a free perch (R55, R56, R57, R84, R92): what the start of its dispatch changes, the perch as the span finds it, and a late start. -/

namespace Sys2Proof.Machine

/-- A perch as a span that begins finds it (R56, R84); `n` is the dispatch number that PERCH_STATUS shows. -/
def Dev.spanPerch (d : Dev) (p : Nat) (e : SpanEntry) (g n : Nat) : Perch :=
  d.freshPerch e (ordinalOf g p) (groupSizeOf g)
    { d.perch p with pstate := 3, spanId := e.spanId, dispatch := n, kernel := e.kernel, part := e.partition, kind := e.kind, budget := e.budget,
                     remaining := e.budget, expired := false, ordinal := ordinalOf g p, groupSize := groupSizeOf g, icache := [] }

/-- The x registers at the start of a span (R84). -/
theorem Dev.spanPerch_gx (d : Dev) (p : Nat) (e : SpanEntry) (g n r : Nat) :
    (d.spanPerch p e g n).core.gx r = if r = 2 then 0x180000 else if r = 10 then e.argDva % 2 ^ 32 else if r = 11 then e.argDva / 2 ^ 32
      else if r = 12 then ordinalOf g p else if r = 13 then groupSizeOf g else 0 := by
  unfold Dev.spanPerch Dev.freshPerch RvCore.gx
  simp only [KMap.get_set, KMap.get_nil]
  grind

/-- What a start of a span leaves: the perch is the span's, of the other perches only endpoints change, and the tick unit's records, the continuations and
the agents of remote accesses go on. -/
structure SpanBegun (d t : Dev) (p : Nat) (e : SpanEntry) (g : Nat) : Prop where
  only : t = { d with spans := t.spans, conts := t.conts, remote := t.remote, perches := t.perches }
  perch : ∃ n, t.perch p = { d.spanPerch p e g n with ep := (t.perch p).ep }
  others : ∀ q, q ≠ p → t.perch q = { d.perch q with ep := (t.perch q).ep }

/-! ### The record of a dispatch -/

/-- What a dispatch that begins does: the tick unit's records, the continuations and the agents of remote accesses change, and no perch comes to hold saved
state (R51, R62). -/
structure DispatchWork (d t : Dev) : Prop where
  only : t = { d with spans := t.spans, conts := t.conts, remote := t.remote }
  saved : ∀ id p, KMap.get 0 (t.cont id).saved p = 1 → KMap.get 0 (d.cont id).saved p = 1

theorem dispatchWork_refl (d : Dev) : DispatchWork d d := ⟨rfl, fun _ _ h => h⟩

section
variable {d t : Dev} (h : DispatchWork d t)
include h

theorem DispatchWork.trans {u : Dev} (hu : DispatchWork t u) : DispatchWork d u := by
  refine ⟨?_, fun id p hsaved => h.saved id p (hu.saved id p hsaved)⟩
  have honly := hu.only
  rw [h.only] at honly
  exact honly

theorem DispatchWork.setSpan {id : Nat} {i : SpanInfo} : DispatchWork d (t.setSpan id i) := h.trans ⟨rfl, fun _ _ h => h⟩

theorem DispatchWork.disown {mine : Agent → Bool} : DispatchWork d (t.disown mine) := h.trans ⟨rfl, fun _ _ h => h⟩

theorem DispatchWork.updCont {id : Nat} {f : Cont → Cont} (hf : ∀ c, (f c).saved = c.saved ∨ (f c).saved = []) : DispatchWork d (t.updCont id f) := by
  refine h.trans ⟨rfl, fun id' p hsaved => ?_⟩
  have hcont : (t.updCont id f).cont id' = if id' = id then f (t.cont id) else t.cont id' := KMap.get_upd ({} : Cont) t.conts id id' f
  rw [hcont] at hsaved
  by_cases hid : id' = id
  · subst hid
    rw [if_pos rfl] at hsaved
    obtain hkept | hnone := hf (t.cont id')
    · rwa [hkept] at hsaved
    · simp [hnone] at hsaved
  · rwa [if_neg hid] at hsaved

theorem DispatchWork.ite {c : Prop} [Decidable c] {u : Dev} (hu : DispatchWork d u) : DispatchWork d (if c then t else u) := by
  split
  · exact h
  · exact hu

end

theorem dispatchWork_beginDispatch (d : Dev) (e : SpanEntry) (g : Nat) : DispatchWork d (d.beginDispatch e g) := by
  unfold Dev.beginDispatch
  extract_lets i d1 c d2 n d3
  have h1 : DispatchWork d d1 := ((dispatchWork_refl d).updCont fun _ => Or.inr rfl).ite (dispatchWork_refl d)
  have h2 : DispatchWork d d2 := by
    refine (h1.disown.updCont ?_).ite h1
    exact fun _ => Or.inl rfl
  have h3 : DispatchWork d d3 := h2.ite (h2.updCont fun _ => Or.inl rfl)
  exact (dispatchWork_refl d).ite h3.setSpan

/-! ### The perch -/

theorem Perch.eq_with_ep {v w : Perch} (h : v = w) : v = { w with ep := v.ep } := by subst h; rfl

/-- A perch is given to a span that begins: it loads the span, its remote accesses go on for nobody, and it starts afresh (R56, R84, R109). -/
def Dev.givePerch (d : Dev) (p : Nat) (e : SpanEntry) (g n : Nat) : Dev :=
  let d := d.updPerch p (fun v => { v with pstate := 3, spanId := e.spanId, dispatch := n, kernel := e.kernel, part := e.partition, kind := e.kind,
                                           budget := e.budget, remaining := e.budget, expired := false, ordinal := ordinalOf g p,
                                           groupSize := groupSizeOf g, icache := [] })
  (d.disown (Agent.ofPerch p)).updPerch p (d.freshPerch e (ordinalOf g p) (groupSizeOf g))

theorem Dev.perch_disown (d : Dev) (mine : Agent → Bool) (q : Nat) : (d.disown mine).perch q = d.perch q := rfl

theorem Dev.givePerch_begun (d : Dev) (p : Nat) (e : SpanEntry) (g n : Nat) : SpanBegun d (d.givePerch p e g n) p e g := by
  unfold Dev.givePerch
  refine ⟨rfl, ⟨n, Perch.eq_with_ep ?_⟩, fun q hq => Perch.eq_with_ep ?_⟩
  · rw [Dev.perch_updPerch_same, Dev.perch_disown, Dev.perch_updPerch_same]
    rfl
  · rw [Dev.perch_updPerch, if_neg hq, Dev.perch_disown, Dev.perch_updPerch, if_neg hq]

theorem SpanBegun.endpoints {d t u : Dev} {p : Nat} {e : SpanEntry} {g : Nat} (h : SpanBegun d t p e g) (hu : OnlyEndpoints t u) :
    SpanBegun d u p e g := by
  obtain ⟨n, hperch⟩ := h.perch
  refine ⟨?_, ⟨n, ?_⟩, fun q hq => ?_⟩
  · have honly : u = { t with spans := u.spans, conts := u.conts, remote := u.remote, perches := u.perches } := by rw [hu.only]
    rw [h.only] at honly
    exact honly
  · have hp := hu.perch p
    rw [hperch] at hp
    exact hp
  · have hq' := hu.perch q
    rw [h.others q hq] at hq'
    exact hq'

theorem SpanBegun.of_dispatch {d u t : Dev} {p : Nat} {e : SpanEntry} {g : Nat} (hu : DispatchWork d u) (h : SpanBegun u t p e g) : SpanBegun d t p e g := by
  obtain ⟨n, hperch⟩ := h.perch
  have hframe : u = { d with spans := u.spans, conts := u.conts, remote := u.remote } := hu.only
  refine ⟨?_, ⟨n, ?_⟩, fun q hq => ?_⟩
  · have honly := h.only
    rw [hframe] at honly
    exact honly
  · rw [hframe] at hperch
    exact hperch
  · have hother := h.others q hq
    rw [hframe] at hother
    exact hother

/-- A span that does not resume begins on its perch (R56, R84). -/
theorem Dev.startSpan_begun {d : Dev} {p : Nat} {e : SpanEntry} {g : Nat} (src : PerchStart)
    (hnew : e.kind = 0 ∨ KMap.get 0 (d.cont e.contId).saved p ≠ 1) : SpanBegun d (d.startSpan p e g src) p e g := by
  unfold Dev.startSpan
  extract_lets d1 i d2 c resumes ordinal d3 d4
  have h2 : DispatchWork d d2 := (dispatchWork_beginDispatch d e g).setSpan
  have hnot : ¬ resumes := by
    rintro ⟨hkind, hsaved⟩
    obtain hzero | hclear := hnew
    · exact hkind hzero
    · exact hclear (h2.saved e.contId p hsaved)
  rw [if_neg hnot]
  exact SpanBegun.of_dispatch h2 ((d2.givePerch_begun p e g (if e.kind = 0 then 0 else i.dispatch)).endpoints (onlyEndpoints_grantCredit _ p))

/-- The perch of a span that begins (R56, R57, R84, R92, R147, R170). -/
theorem SpanBegun.perch_fields {d t : Dev} {p : Nat} {e : SpanEntry} {g : Nat} (h : SpanBegun d t p e g) :
    let v := t.perch p
    v.pstate = 3 ∧ v.spanId = e.spanId ∧ v.kernel = e.kernel ∧ v.part = e.partition ∧ v.budget = e.budget ∧ v.remaining = e.budget ∧ v.expired = false ∧
      v.core.pc = 0x80000000 + (d.kernel e.kernel).entry ∧ v.core.gx 2 = 0x180000 ∧ v.core.gx 10 = e.argDva % 2 ^ 32 ∧
      v.core.gx 11 = e.argDva / 2 ^ 32 ∧ v.core.gx 12 = ordinalOf g p ∧ v.core.gx 13 = groupSizeOf g ∧
      (∀ r, r ∉ [2, 10, 11, 12, 13] → v.core.gx r = 0) ∧ (∀ n, KMap.get 0 v.ctr n = 0) ∧ v.mtvec = 0 ∧ v.inTrap = false ∧ v.icache = [] ∧
      v.wcb = [] ∧ v.arr = { activity := 4, window := true } ∧ v.stall = .none := by
  obtain ⟨n, hperch⟩ := h.perch
  generalize (t.perch p).ep = endpoints at hperch
  have hcore : (t.perch p).core = (d.spanPerch p e g n).core := by rw [hperch]
  intro v
  have hgx (r : Nat) : v.core.gx r = (d.spanPerch p e g n).core.gx r := by rw [hcore]
  simp only [hgx, Dev.spanPerch_gx]
  simp only [v, hperch]
  refine ⟨rfl, rfl, rfl, rfl, rfl, rfl, rfl, rfl, rfl, rfl, rfl, rfl, rfl, fun r hr => ?_, fun _ => rfl, rfl, rfl, rfl, rfl, rfl, rfl⟩
  simp only [List.mem_cons, List.not_mem_nil, or_false, not_or] at hr
  obtain ⟨h2, h10, h11, h12, h13⟩ := hr
  simp [h2, h10, h11, h12, h13]

/-! ### The start, in time and late -/

/-- The tick unit notes that the perch has started the span in this tick. -/
def Dev.noteStart (d : Dev) (p : Nat) (e : SpanEntry) : Dev := { d with spanStarts := KMap.set 0 d.spanStarts (p * 65536 + e.spanId) (d.tick + 1) }

/-- A start of a span takes effect where the tick is dispatched and the perch is free for it (R55, R56). -/
theorem Dev.spanStart_free {d : Dev} {span : Nat} {src : PerchStart} {e : SpanEntry} (he : d.entryOf span = some e) (hdispatch : d.dispatching = true)
    (hruns : d.skips e (d.groupMap e) = false) (hok : d.perchOk src.perch = true) (hgroup : bit (d.groupMap e) src.perch = true)
    (hidle : (d.perch src.perch).pstate = 2) (hnew : d.startedNow src.perch e = false) :
    d.spanStart span src = ((d.noteStart src.perch e).toTime e.startNs).startSpan src.perch e (d.groupMap e) src := by
  unfold Dev.spanStart
  dsimp only
  rw [he]
  simp [hdispatch, hruns, hok, hgroup, hidle, hnew, Dev.noteStart]

theorem Dev.toTime_over {d : Dev} {ns : Nat} (h : ns ≤ d.elapsed) : d.toTime ns = d := by
  unfold Dev.toTime
  rw [if_pos h]

/-- A late start is counted: LATE of the perch's die, and nothing else but what reports it (R57, R66). -/
structure LateCounted (d t : Dev) (p : Nat) : Prop where
  only : t = { d with regs := t.regs, regsSt := t.regsSt, lateIn := t.lateIn, overrunDue := t.overrunDue }
  count : t.rd (perchDie p) Reg.TICK_OVERRUN_CNT.LATE = min (d.rd (perchDie p) Reg.TICK_OVERRUN_CNT.LATE + 1) 65535
  kept : RegsKept d t [(perchDie p, Reg.TICK_OVERRUN_CNT.LATE)]

theorem lateCounted_inc {d t : Dev} {p : Nat} {late : KMap Nat} {due : Bool}
    (h : t = { d.inc (perchDie p) Reg.TICK_OVERRUN_CNT.LATE 1 with lateIn := late, overrunDue := due }) : LateCounted d t p := by
  have hregs (die : Nat) (f : Fld) : t.rd die f = (d.inc (perchDie p) Reg.TICK_OVERRUN_CNT.LATE 1).rd die f := by rw [h]; rfl
  refine ⟨?_, ?_, fun die f hf => ?_⟩
  · rw [h]
    dsimp only
    have honly := onlyRegs_wr d (perchDie p) Reg.TICK_OVERRUN_CNT.LATE (satAdd Reg.TICK_OVERRUN_CNT.LATE.width (d.rd (perchDie p) Reg.TICK_OVERRUN_CNT.LATE) 1)
    unfold OnlyRegs at honly
    unfold Dev.inc
    rw [honly]
  · rw [hregs]
    exact Dev.rd_inc_same d _ _ _
  · rw [hregs]
    exact regsKept_wr _ (List.mem_singleton_self _) (regsKept_refl d _) die f hf

theorem Dev.countLate_first {d : Dev} {p : Nat} (h : KMap.get 0 d.lateIn p ≠ d.tick + 1) : LateCounted d (d.countLate p) p := by
  unfold Dev.countLate
  rw [if_neg h]
  dsimp only
  split
  · exact lateCounted_inc rfl
  · exact lateCounted_inc rfl

/-- What a span that starts at a time begins on: the device as time leaves it. -/
structure StartsOn (d D : Dev) : Prop where
  perches : D.perches = d.perches
  harts : D.harts = d.harts
  elapsed : D.elapsed = d.elapsed
  mem : D.mem = d.mem
  charter : D.charter = d.charter

theorem StartsOn.trans {d D E : Dev} (h : StartsOn d D) (hE : StartsOn D E) : StartsOn d E :=
  ⟨hE.perches.trans h.perches, hE.harts.trans h.harts, hE.elapsed.trans h.elapsed, hE.mem.trans h.mem, hE.charter.trans h.charter⟩

theorem Dev.startsOn_noteStart (d : Dev) (p : Nat) (e : SpanEntry) (ns : Nat) : StartsOn (d.toTime ns) ((d.noteStart p e).toTime ns) := by
  have hsame : (d.noteStart p e).elapsed = d.elapsed := rfl
  unfold Dev.toTime
  rw [hsame]
  split
  · exact ⟨rfl, rfl, rfl, rfl, rfl⟩
  · exact ⟨rfl, rfl, rfl, rfl, rfl⟩

/-- Neither the note of a start nor time touches the registers and the continuations. -/
theorem Dev.noteStart_kept (d : Dev) (p : Nat) (e : SpanEntry) (ns : Nat) :
    ((d.noteStart p e).toTime ns).regs = d.regs ∧ ((d.noteStart p e).toTime ns).regsSt = d.regsSt ∧ ((d.noteStart p e).toTime ns).conts = d.conts := by
  rw [Dev.toTime_frame]
  exact ⟨rfl, rfl, rfl⟩

/-- A span that starts on a free perch begins (R56, R84). -/
theorem Dev.spanStart_begun {d : Dev} {span : Nat} {src : PerchStart} {e : SpanEntry} (he : d.entryOf span = some e) (hdispatch : d.dispatching = true)
    (hruns : d.skips e (d.groupMap e) = false) (hok : d.perchOk src.perch = true) (hgroup : bit (d.groupMap e) src.perch = true)
    (hidle : (d.perch src.perch).pstate = 2) (hnew : d.startedNow src.perch e = false) (hfresh : e.kind = 0 ∨ KMap.get 0 (d.cont e.contId).saved src.perch ≠ 1) :
    SpanBegun ((d.noteStart src.perch e).toTime e.startNs) (d.spanStart span src) src.perch e (d.groupMap e) := by
  rw [Dev.spanStart_free he hdispatch hruns hok hgroup hidle hnew]
  refine Dev.startSpan_begun src ?_
  unfold Dev.cont at hfresh ⊢
  rwa [(d.noteStart_kept src.perch e e.startNs).2.2]

theorem SpanBegun.regs {d t : Dev} {p : Nat} {e : SpanEntry} {g : Nat} (h : SpanBegun d t p e g) : t.regs = d.regs ∧ t.regsSt = d.regsSt := by
  rw [h.only]
  exact ⟨rfl, rfl⟩

theorem SpanBegun.units {d t : Dev} {p : Nat} {e : SpanEntry} {g : Nat} (h : SpanBegun d t p e g) :
    t.mem = d.mem ∧ t.harts = d.harts ∧ t.elapsed = d.elapsed := by
  rw [h.only]
  exact ⟨rfl, rfl, rfl⟩

/-- The schedule does not see time. -/
theorem samePattern_toTime (d : Dev) (ns : Nat) : SamePattern d (d.toTime ns) := by
  have hframe := Dev.toTime_frame d ns
  have hrd := d.rd_toTime ns
  refine ⟨?_, ?_, ?_, ?_, ?_, hrd _ _, hrd _ _, hrd _ _, hrd _ _, hrd _ _⟩ <;> rw [hframe]

theorem SamePattern.trans {d t u : Dev} (h : SamePattern d t) (hu : SamePattern t u) : SamePattern d u where
  charter := hu.charter.trans h.charter
  boot := hu.boot.trans h.boot
  runs := hu.runs.trans h.runs
  conts := hu.conts.trans h.conts
  starts := hu.starts.trans h.starts
  plan := hu.plan.trans h.plan
  tick := hu.tick.trans h.tick
  dispatching := hu.dispatching.trans h.dispatching
  dieFailed := hu.dieFailed.trans h.dieFailed
  part := hu.part.trans h.part

theorem LateCounted.startsOn {d t : Dev} {p : Nat} (h : LateCounted d t p) : StartsOn d t := by
  rw [h.only]
  exact ⟨rfl, rfl, rfl, rfl, rfl⟩

/-- The schedule does not see the count of late starts. -/
theorem LateCounted.samePattern {d t : Dev} {p : Nat} (h : LateCounted d t p) : SamePattern d t := by
  have hrd {f : Fld} (hf : Reg.TICK_OVERRUN_CNT.LATE.Separate f) : t.rd 0 f = d.rd 0 f :=
    h.kept.read (by simpa using hf) 0
  refine ⟨?_, ?_, ?_, ?_, ?_, hrd (by decide), hrd (by decide), hrd (by decide), hrd (by decide), hrd (by decide)⟩ <;> rw [h.only]

/-- Settles O24: a span that starts, on time or late, begins on what time leaves of the device. -/
theorem spanStarts : Obligations.SpanStarts := by
  unfold Obligations.SpanStarts
  intro span src e s hon hdispatch he hruns hok hgroup hidle hnew hfresh p Started
  have started {d D t : Dev} (h : SpanBegun D t p e (s.dev.groupMap e)) (hD : StartsOn d D) (hmem : d.mem = s.dev.mem) (hcharter : d.charter = s.dev.charter) :
      Started d { s with dev := t } := by
    have hkernel : D.kernel e.kernel = s.dev.kernel e.kernel := by
      unfold Dev.kernel
      rw [hD.charter, hcharter]
    obtain ⟨htmem, htharts, htelapsed⟩ := h.units
    have hfields := h.perch_fields
    rw [hkernel] at hfields
    have hothers (q : Nat) (hq : q ≠ p) : t.perch q = { d.perch q with ep := (t.perch q).ep } := by
      have hother := h.others q hq
      have hsame : D.perch q = d.perch q := by simp [Dev.perch, hD.perches]
      rwa [hsame] at hother
    have hall := And.intro hfields
      (And.intro (htmem.trans (hD.mem.trans hmem)) (And.intro (htharts.trans hD.harts) (And.intro (htelapsed.trans hD.elapsed) hothers)))
    simp only [and_assoc] at hall
    exact ⟨rfl, hall⟩
  refine ⟨?onTime, fun hlate => ?late⟩
  case onTime =>
    have hbegun := Dev.spanStart_begun he hdispatch hruns hok hgroup hidle hnew hfresh
    have hbase := Dev.startsOn_noteStart s.dev p e e.startNs
    obtain ⟨hregs, hregsSt, -⟩ := Dev.noteStart_kept s.dev p e e.startNs
    have hframe := Dev.toTime_frame s.dev e.startNs
    exact ⟨_, State.onDev_of_on hon (fun d => d.spanStart span src), started hbegun hbase (by rw [hframe]) (by rw [hframe]), hbegun.regs.1.trans hregs,
      hbegun.regs.2.trans hregsSt⟩
  case late =>
    have hstopped : s.dev.runs? p = false := by simp [Dev.runs?, p, hidle]
    have hframe := Dev.toTime_frame s.dev (e.startNs + 1)
    have htime := samePattern_toTime s.dev (e.startNs + 1)
    have hcount : LateCounted (s.dev.toTime (e.startNs + 1)) ((s.dev.toTime (e.startNs + 1)).countLate p) p := by
      refine Dev.countLate_first ?_
      rw [htime.tickNow]
      rwa [hframe]
    have hunits := hcount.startsOn
    have hpattern := htime.trans hcount.samePattern
    have hgroups := hpattern.groupMap e
    have hperch : ((s.dev.toTime (e.startNs + 1)).countLate p).perch p = s.dev.perch p := by
      rw [← Dev.perch_toTime_stopped hstopped (e.startNs + 1)]
      simp [Dev.perch, hunits.perches]
    have hover : e.startNs ≤ ((s.dev.toTime (e.startNs + 1)).countLate p).elapsed := by
      rw [hunits.elapsed, Dev.elapsed_toTime]
      omega
    have hexec : exec (.spanLateStart span src) s = .next { s with dev := ((s.dev.toTime (e.startNs + 1)).countLate p).spanStart span src } := by
      change execSpanLateStart span src s = _
      unfold execSpanLateStart
      rw [State.onDev_of_on hon]
      simp only [he, hdispatch, hruns, hok, hgroup, hidle, hnew]
      rfl
    generalize (s.dev.toTime (e.startNs + 1)).countLate p = d at *
    have hbegun := Dev.spanStart_begun ((hpattern.entryOf span).trans he) (hpattern.dispatches.trans hdispatch)
      (by rw [hgroups, hpattern.skips, hruns]) ((hpattern.perchOk p).trans hok) (by rw [hgroups]; exact hgroup) (by rw [hperch]; exact hidle)
      ((hpattern.startedNow p e).trans hnew) (by unfold Dev.cont; rw [hpattern.conts]; exact hfresh)
    have hbase := Dev.startsOn_noteStart d p e e.startNs
    rw [Dev.toTime_over hover] at hbase
    rw [hgroups] at hbegun
    have hrd (die : Nat) (f : Fld) : (d.spanStart span src).rd die f = d.rd die f := by
      obtain ⟨hregs, hregsSt, -⟩ := Dev.noteStart_kept d p e e.startNs
      simp only [Dev.rd, hbegun.regs, p, hregs, hregsSt]
    have hsame := s.dev.rd_toTime (e.startNs + 1)
    refine ⟨_, hexec, started hbegun (hunits.trans hbase) (by rw [hframe]) (by rw [hframe]), ?_, fun die f hf => ?_⟩
    · rw [hrd, hcount.count, hsame]
    · rw [hrd, hcount.kept die f hf, hsame]

end Sys2Proof.Machine
end

