-- ==== Sys2Proof/Proofs/SpanEnd.lean ====
section
/-! A span ends on its perch: by SPANEND (R58, R88), or by a shed at the end of its budget and at its displacement (R59, R63, R66). -/

namespace Sys2Proof.Machine

/-! ### What collectives see -/

/-- The collectives see the same: the schedule, the package, the state of the definitions and their own accesses to other packages. -/
structure CollView (d t : Dev) : Prop where
  charter : t.charter = d.charter
  plan : t.rd 0 Reg.RAS_PKG.PLAN = d.rd 0 Reg.RAS_PKG.PLAN
  pkg : t.rd 0 Reg.LINK_CFG.PKG_ID = d.rd 0 Reg.LINK_CFG.PKG_ID
  colls : t.colls = d.colls
  remote : ∀ o die id k m part, o.agent = .coll die id k m part → (o ∈ t.remote ↔ o ∈ d.remote)

theorem CollView.trans {d t u : Dev} (h : CollView d t) (hu : CollView t u) : CollView d u where
  charter := hu.charter.trans h.charter
  plan := hu.plan.trans h.plan
  pkg := hu.pkg.trans h.pkg
  colls := hu.colls.trans h.colls
  remote o die id k m part ho := (hu.remote o die id k m part ho).trans (h.remote o die id k m part ho)

theorem collView_updPerch (d : Dev) (p : Nat) (f : Perch → Perch) : CollView d (d.updPerch p f) := ⟨rfl, rfl, rfl, rfl, fun _ _ _ _ _ _ _ => Iff.rfl⟩

theorem OnlyEndpoints.view {d t : Dev} (h : OnlyEndpoints d t) : CollView d t := by
  rw [h.only]
  exact ⟨rfl, rfl, rfl, rfl, fun _ _ _ _ _ _ _ => Iff.rfl⟩

section
variable {d t : Dev} (h : CollView d t)
include h

theorem CollView.sched : t.sched = d.sched := Dev.sched_congr h.charter h.plan

theorem CollView.anyEntry (span : Nat) : t.anyEntry span = d.anyEntry span := by
  unfold Dev.anyEntry
  rw [h.sched]

theorem CollView.collMine (c : CollDef) : t.collMine c = d.collMine c := by
  unfold Dev.collMine Dev.collMembers Dev.pkgId
  rw [h.sched, h.pkg]

theorem CollView.coll (id : Nat) : t.coll id = d.coll id := by
  unfold Dev.coll
  rw [h.colls]

theorem CollView.collPending (c : CollDef) (member : Nat) (i : CollInst) : t.collPending c member i = d.collPending c member i := by
  unfold Dev.collPending
  congr 3
  rw [Bool.eq_iff_iff, List.any_eq_true, List.any_eq_true]
  refine exists_congr fun o => and_congr_left fun ho => ?_
  cases hagent : o.agent with
  | coll die id k m part => exact h.remote o die id k m part hagent
  | dma perch ctx ticket => simp [hagent] at ho
  | susp cont perch ctx ticket => simp [hagent] at ho
  | hart hart => simp [hagent] at ho
  | mover die entry => simp [hagent] at ho
  | hif queue => simp [hagent] at ho

theorem CollView.collQuiet (p span : Nat) : t.collQuiet p span = d.collQuiet p span := by
  have hpending : t.collPending = d.collPending := funext fun c => funext fun m => funext fun i => h.collPending c m i
  unfold Dev.collQuiet
  simp only [h.sched, h.collMine, h.coll, hpending]

end

/-- Where no collective waits for what a span has posted, its end changes no collective (R374). -/
theorem Dev.collSpanEnd_quiet {d : Dev} {p span : Nat} (h : d.collQuiet p span = true) : d.collSpanEnd p span = d := by
  unfold Dev.collQuiet at h
  rw [List.all_eq_true] at h
  unfold Dev.collSpanEnd
  refine List.foldlRecOn (motive := fun t => t = d) _ _ rfl fun t ht c hc => ?_
  subst ht
  specialize h c hc
  cases hmine : (t.collMine c).find? (fun m => m.1.perch = p && m.1.spanId = span) with
  | none => rfl
  | some m =>
    simp only [hmine, Option.all_some, Bool.and_eq_true, decide_eq_true_eq, List.all_eq_true, Bool.not_eq_true'] at h
    obtain ⟨hbegun, hread⟩ := h
    have hnone : (t.coll c.collId).insts.filter (t.collPending c m.2) = [] := List.filter_eq_nil_iff.mpr fun i hi => by simp [hread i hi]
    dsimp only
    rw [hnone, List.foldl_nil, if_neg (by omega)]

/-- A perch whose span no collective waits for goes idle alone (R88). -/
theorem Dev.perchIdle_quiet {d : Dev} {p : Nat} (h : d.collQuiet p (d.perch p).spanId = true) :
    d.perchIdle p = d.updPerch p (fun v => { v with pstate := 2, stall := .none, arr := { v.arr with held := v.matrix } }) := by
  unfold Dev.perchIdle
  dsimp only
  exact Dev.collSpanEnd_quiet (((collView_updPerch d p _).collQuiet p _).trans h)

/-! ### The report to the tick unit -/

/-- What a report of a perch leaves: the tick unit's record of the span counts it, and the continuation and the run group change (R51, R59, R62, R504). -/
structure Reported (d t : Dev) (span outcome : Nat) : Prop where
  only : t = { d with spans := t.spans, conts := t.conts, runs := t.runs }
  seen : (t.span span).seen = (d.span span).seen ||| 2 ^ outcome
  running : (t.span span).running = (d.span span).running - 1

section
variable {d t : Dev} {span outcome : Nat} (h : Reported d t span outcome)
include h

theorem Reported.updCont {id : Nat} {f : Cont → Cont} : Reported d (t.updCont id f) span outcome := by
  refine ⟨?_, h.seen, h.running⟩
  rw [h.only]
  rfl

theorem Reported.ofRuns {runs : KMap RunGroup} : Reported d { t with runs := runs } span outcome := by
  refine ⟨?_, h.seen, h.running⟩
  rw [h.only]

theorem Reported.ite {c : Prop} [Decidable c] {u : Dev} (hu : Reported d u span outcome) : Reported d (if c then t else u) span outcome := by
  split
  · exact h
  · exact hu

end

theorem Dev.span_setSpan_same (d : Dev) (id : Nat) (i : SpanInfo) : (d.setSpan id i).span id = i := KMap.get_set_same _ _ _ _

theorem reported_setSpan {d : Dev} {span outcome : Nat} {i : SpanInfo} (hseen : i.seen = (d.span span).seen ||| 2 ^ outcome)
    (hrunning : i.running = (d.span span).running - 1) : Reported d (d.setSpan span i) span outcome :=
  ⟨rfl, by rw [Dev.span_setSpan_same, hseen], by rw [Dev.span_setSpan_same, hrunning]⟩

theorem Dev.report_reported (d : Dev) (p outcome : Nat) : Reported d (d.report p outcome) (d.perch p).spanId outcome := by
  unfold Dev.report
  extract_lets v i0 i1 last i d1
  have hseen : i.seen = i0.seen ||| 2 ^ outcome ∧ i.running = i0.running - 1 := by
    unfold i
    split
    · exact ⟨rfl, rfl⟩
    · exact ⟨rfl, rfl⟩
  have h1 : Reported d d1 (d.perch p).spanId outcome := reported_setSpan hseen.1 hseen.2
  clear_value d1
  split
  · exact h1
  · extract_lets d2 d3
    have h2 : Reported d d2 (d.perch p).spanId outcome := h1.ite (h1.ite (h1.updCont.ite h1.updCont))
    clear_value d2
    have h3 : Reported d d3 (d.perch p).spanId outcome := h2.updCont.ite h2
    clear_value d3
    exact h3.ofRuns.ite h3

theorem Reported.units {d t : Dev} {span outcome : Nat} (h : Reported d t span outcome) :
    t.perches = d.perches ∧ t.mem = d.mem ∧ t.regs = d.regs ∧ t.regsSt = d.regsSt ∧ t.elapsed = d.elapsed := by
  rw [h.only]
  exact ⟨rfl, rfl, rfl, rfl, rfl⟩

theorem Reported.collView {d t : Dev} {span outcome : Nat} (h : Reported d t span outcome) : CollView d t := by
  rw [h.only]
  exact ⟨rfl, rfl, rfl, rfl, fun _ _ _ _ _ _ _ => Iff.rfl⟩

theorem Reported.seen_bit {d t : Dev} {span outcome : Nat} (h : Reported d t span outcome) : bit (t.span span).seen outcome = true := by
  have hbit : (t.span span).seen.testBit outcome = true := by simp [h.seen]
  simpa [bit, Nat.testBit_eq_decide_div_mod_eq] using hbit

/-! ### The store buffer -/

/-- Only scratchpads change. -/
def OnlySpad (d t : Dev) : Prop := t = { d with mem := t.mem, spadPoison := t.spadPoison }

theorem OnlySpad.trans {d t u : Dev} (h : OnlySpad d t) (hu : OnlySpad t u) : OnlySpad d u := by
  have honly : u = { t with mem := u.mem, spadPoison := u.spadPoison } := hu
  rw [h] at honly
  exact honly

theorem onlySpad_stores (d : Dev) (p : Nat) (stores : List (Nat × Nat × Nat)) :
    OnlySpad d (stores.foldl (fun t e => t.spadWrite p e.1 (clean (leBytes e.2.1 e.2.2))) d) :=
  List.foldlRecOn (motive := OnlySpad d) stores _ rfl fun _ ht _ _ => ht.trans rfl

/-- The stores that drain change the scratchpad; the buffer is empty after them (R86). -/
theorem Dev.drainStores_frame (d : Dev) (p : Nat) :
    d.drainStores p = { d with mem := (d.drainStores p).mem, spadPoison := (d.drainStores p).spadPoison, perches := (d.drainStores p).perches } := by
  have hstores := onlySpad_stores d p (d.perch p).storeBuf
  unfold Dev.drainStores
  dsimp only
  generalize (d.perch p).storeBuf.foldl (fun t e => t.spadWrite p e.1 (clean (leBytes e.2.1 e.2.2))) d = t at hstores
  rw [hstores]
  rfl

theorem Dev.perch_drainStores (d : Dev) (p q : Nat) : (d.drainStores p).perch q = if q = p then { d.perch p with storeBuf := [] } else d.perch q := by
  have hstores := onlySpad_stores d p (d.perch p).storeBuf
  unfold Dev.drainStores
  dsimp only
  generalize (d.perch p).storeBuf.foldl (fun t e => t.spadWrite p e.1 (clean (leBytes e.2.1 e.2.2))) d = t at hstores
  rw [Dev.perch_updPerch, hstores]
  rfl

theorem collView_drainStores (d : Dev) (p : Nat) : CollView d (d.drainStores p) := by
  rw [Dev.drainStores_frame]
  exact ⟨rfl, rfl, rfl, rfl, fun _ _ _ _ _ _ _ => Iff.rfl⟩

/-! ### The end of a span -/

/-- A perch that goes idle keeps what it shows of its array (R170). -/
def Perch.idled (v : Perch) : Perch := { v with pstate := 2, stall := .none, arr := { v.arr with held := v.matrix } }

/-- The perch is idle and has reported the end of its span; registers, memory and the other perches are the same (R59, R88). -/
structure SpanEnded (d t : Dev) (p outcome : Nat) : Prop where
  perch : t.perch p = (d.perch p).idled
  others : ∀ q, q ≠ p → t.perch q = d.perch q
  seen : bit (t.span (d.perch p).spanId).seen outcome = true
  running : (t.span (d.perch p).spanId).running = (d.span (d.perch p).spanId).running - 1
  mem : t.mem = d.mem
  regs : t.regs = d.regs
  regsSt : t.regsSt = d.regsSt
  elapsed : t.elapsed = d.elapsed

/-- A perch reports and goes idle (R59, R88). -/
theorem Dev.report_perchIdle {d : Dev} {p : Nat} (h : d.collQuiet p (d.perch p).spanId = true) (outcome : Nat) :
    SpanEnded d ((d.report p outcome).perchIdle p) p outcome := by
  have hreport := d.report_reported p outcome
  generalize d.report p outcome = t at hreport
  obtain ⟨hperches, hmem, hregs, hregsSt, helapsed⟩ := hreport.units
  have hperch (q : Nat) : t.perch q = d.perch q := by simp [Dev.perch, hperches]
  rw [Dev.perchIdle_quiet (by rw [hperch, hreport.collView.collQuiet, h])]
  refine ⟨?_, fun q hq => ?_, hreport.seen_bit, hreport.running, hmem, hregs, hregsSt, helapsed⟩
  · rw [Dev.perch_updPerch_same, hperch]
    rfl
  · rw [Dev.perch_updPerch, if_neg hq, hperch]

/-- A span that ends well on a perch (R58). -/
theorem Dev.complete_ended {d : Dev} {p : Nat} (h : d.collQuiet p (d.perch p).spanId = true) : SpanEnded (d.drainStores p) (d.complete p) p ocCompleted := by
  have hspan : ((d.drainStores p).perch p).spanId = (d.perch p).spanId := by rw [Dev.perch_drainStores, if_pos rfl]
  exact Dev.report_perchIdle (by rw [hspan, (collView_drainStores d p).collQuiet, h]) ocCompleted

end Sys2Proof.Machine
end

