-- ==== Sys2Proof/Proofs/SpanShed.lean ====
section
/-! A shed on a perch (R59, R63, R66, R157): the work of its units is gone and it is counted; the end of the budget and a displacement shed a drop span. -/

namespace Sys2Proof.Machine

/-! ### The DMA contexts -/

theorem collView_updPerch_remote (d : Dev) (p : Nat) (f : Perch → Perch) {keep : RemoteOp → Bool}
    (hkeep : ∀ o die id k m part, o.agent = .coll die id k m part → keep o = true) :
    CollView d ({ d with remote := d.remote.filter keep }.updPerch p f) :=
  ⟨rfl, rfl, rfl, rfl, fun o die id k m part ho => by simp [Dev.updPerch, Dev.setPerch, List.mem_filter, hkeep o die id k m part ho]⟩

/-- What an abort of contexts of a perch leaves: the work of its contexts and its accesses change, no context takes up work, and collectives see the same
(R109). -/
structure Aborted (d t : Dev) (p : Nat) : Prop where
  only : t = { d with remote := t.remote, perches := t.perches }
  perch : t.perch p = { d.perch p with ctx := (t.perch p).ctx, wcb := (t.perch p).wcb }
  view : CollView d t
  queues : ∀ c, (d.ctxOf p c).queue = [] → (t.ctxOf p c).queue = []

theorem aborted_refl (d : Dev) (p : Nat) : Aborted d d p := ⟨rfl, rfl, ⟨rfl, rfl, rfl, rfl, fun _ _ _ _ _ _ _ => Iff.rfl⟩, fun _ h => h⟩

theorem Aborted.trans {d t u : Dev} {p : Nat} (h : Aborted d t p) (hu : Aborted t u p) : Aborted d u p := by
  refine ⟨?_, ?_, h.view.trans hu.view, fun c hc => hu.queues c (h.queues c hc)⟩
  · have honly := hu.only
    rw [h.only] at honly
    exact honly
  · have hperch := hu.perch
    rw [h.perch] at hperch
    exact hperch

/-- A perch whose context is emptied and whose write-combining lines are dropped, with accesses of that context alone forgotten. -/
theorem aborted_emptied (d : Dev) (p c : Nat) {keep : RemoteOp → Bool} (wcb : Perch → List DmaLine) {g : DmaCtx → DmaCtx}
    (hkeep : ∀ o die id k m part, o.agent = .coll die id k m part → keep o = true) (hg : ∀ x, (g x).queue = []) :
    let t := ({ d with remote := d.remote.filter keep }.updPerch p (fun v => { v with wcb := wcb v })).updCtx p c g
    Aborted d t p ∧ (t.ctxOf p c).queue = [] := by
  intro t
  have hperch : t.perch p = { d.perch p with wcb := wcb (d.perch p), ctx := KMap.upd {} (d.perch p).ctx c g } := by
    unfold t Dev.updCtx
    rw [Dev.perch_updPerch_same, Dev.perch_updPerch_same]
    rfl
  have hctx (c' : Nat) : t.ctxOf p c' = if c' = c then g (d.ctxOf p c) else d.ctxOf p c' := by
    unfold Dev.ctxOf
    rw [hperch]
    exact KMap.get_upd _ _ _ _ _
  refine ⟨⟨rfl, ?_, ?_, fun c' hc' => ?_⟩, ?_⟩
  · rw [hperch]
  · exact (collView_updPerch_remote d p _ hkeep).trans (collView_updPerch _ p _)
  · rw [hctx]
    split
    · exact hg _
    · exact hc'
  · rw [hctx, if_pos rfl]
    exact hg _

/-- A context after an abort (R109, R126). -/
def DmaCtx.aborted (x : DmaCtx) (span cause : Nat) : DmaCtx :=
  { x with state := 0, queue := [], landed := (x.queue.head?.map (·.landed)).getD 0, logSpan := span, logCause := cause,
           logLanded := (x.queue.head?.map (·.landed)).getD 0 }

/-- An abort leaves the context without work (R109, R126). -/
theorem Dev.dmaAbort_aborted (d : Dev) (p c cause : Nat) : Aborted d (d.dmaAbort p c cause) p ∧ ((d.dmaAbort p c cause).ctxOf p c).queue = [] := by
  unfold Dev.dmaAbort
  split
  case isTrue hidle => exact ⟨aborted_refl d p, by simpa [DmaCtx.busy] using hidle⟩
  case isFalse hbusy =>
    exact aborted_emptied d p c (fun v => v.wcb.filter (fun l => l.ctx ≠ c)) (g := fun x => x.aborted (d.perch p).spanId cause)
      (fun o die id k m part ho => by simp [ho, Agent.ofCtx]) fun _ => rfl

theorem Dev.dmaAbortAll_aborted (d : Dev) (p cause : Nat) :
    Aborted d (d.dmaAbortAll p cause) p ∧ ∀ c, c < 8 → ((d.dmaAbortAll p cause).ctxOf p c).queue = [] := by
  have hprefix (n : Nat) : Aborted d ((List.range n).foldl (fun t c => t.dmaAbort p c cause) d) p ∧
      ∀ c, c < n → (((List.range n).foldl (fun t c => t.dmaAbort p c cause) d).ctxOf p c).queue = [] := by
    induction n with
    | zero => exact ⟨aborted_refl d p, by simp⟩
    | succ n ih =>
      obtain ⟨hab, hqueues⟩ := ih
      rw [List.range_succ, List.foldl_append, List.foldl_cons, List.foldl_nil]
      obtain ⟨hnext, hempty⟩ := Dev.dmaAbort_aborted ((List.range n).foldl (fun t c => t.dmaAbort p c cause) d) p n cause
      refine ⟨hab.trans hnext, fun c hc => ?_⟩
      obtain hlt | heq := Nat.lt_succ_iff_lt_or_eq.mp hc
      · exact hnext.queues c (hqueues c hlt)
      · rw [heq]
        exact hempty
  exact hprefix 8

/-! ### The counts of a shed -/

/-- Whether the tick-overrun event is due (R67). -/
def Dev.setOverrunDue (d : Dev) (due : Bool) : Dev := { d with overrunDue := due }

@[simp] theorem Dev.rd_setOverrunDue (d : Dev) (due : Bool) (die : Nat) (f : Fld) : (d.setOverrunDue due).rd die f = d.rd die f := rfl

/-- Where a count is enabled for the tick-overrun event, it makes the event due. -/
theorem Dev.overrunDue_ite (d : Dev) (enabled : Prop) [Decidable enabled] :
    ∃ due, (if enabled then { d with overrunDue := true } else d) = d.setOverrunDue due := by
  split
  · exact ⟨true, rfl⟩
  · exact ⟨d.overrunDue, rfl⟩

/-- The register fields that a shed writes. -/
def shedFlds : List Fld :=
  [Reg.TICK_SHED_CNT.SHEDS, Reg.TICK_LAST_SHED.SPAN_ID, Reg.TICK_LAST_SHED.OUTCOME, Reg.TICK_LAST_SHED.PERCH, Reg.TICK_LAST_SHED.TICK_LO]

/-- The register fields after a shed (R66, R75, R78). -/
structure ShedShown (d t : Dev) (p outcome : Nat) : Prop where
  sheds : t.rd (perchDie p) Reg.TICK_SHED_CNT.SHEDS = min (d.rd (perchDie p) Reg.TICK_SHED_CNT.SHEDS + 1) (2 ^ 32 - 1)
  span : t.rd (perchDie p) Reg.TICK_LAST_SHED.SPAN_ID = (d.perch p).spanId % 65536
  outcome : t.rd (perchDie p) Reg.TICK_LAST_SHED.OUTCOME = outcome % 256
  perch : t.rd (perchDie p) Reg.TICK_LAST_SHED.PERCH = p % 65536
  tick : t.rd (perchDie p) Reg.TICK_LAST_SHED.TICK_LO = d.tick % 65536
  others : ∀ die f, (∀ g ∈ shedFlds, g.Separate f) → t.rd die f = d.rd die f

/-- The fields of a shed are read of the registers and of the perch's span alone. -/
theorem ShedShown.congr {d t d' t' : Dev} {p outcome : Nat} (h : ShedShown d t p outcome) (hspan : (d.perch p).spanId = (d'.perch p).spanId)
    (hd : ∀ die f, d.rd die f = d'.rd die f) (ht : ∀ die f, t'.rd die f = t.rd die f) : ShedShown d' t' p outcome where
  sheds := by rw [ht, h.sheds, hd]
  span := by rw [ht, h.span, hspan]
  outcome := by rw [ht, h.outcome]
  perch := by rw [ht, h.perch]
  tick := by rw [ht, h.tick, Dev.tick, hd, Dev.tick]
  others die f hf := by rw [ht, h.others die f hf, hd]

/-- A shed is noted: the count, and which span, how, where and when. -/
def Dev.noteShed (d : Dev) (p outcome : Nat) : Dev :=
  ((((d.inc (perchDie p) Reg.TICK_SHED_CNT.SHEDS 1).wr (perchDie p) Reg.TICK_LAST_SHED.SPAN_ID (d.perch p).spanId).wr (perchDie p)
    Reg.TICK_LAST_SHED.OUTCOME outcome).wr (perchDie p) Reg.TICK_LAST_SHED.PERCH p).wr (perchDie p) Reg.TICK_LAST_SHED.TICK_LO d.tick

theorem Dev.countShed_eq (d : Dev) (p outcome : Nat) : ∃ due, d.countShed p outcome = (d.noteShed p outcome).setOverrunDue due := by
  unfold Dev.countShed
  extract_lets die v d1 d2 irq
  exact Dev.overrunDue_ite (d.noteShed p outcome) _

theorem Dev.onlyRegs_noteShed (d : Dev) (p outcome : Nat) : OnlyRegs d (d.noteShed p outcome) :=
  ((((onlyRegs_wr d _ _ _).trans (onlyRegs_wr _ _ _ _)).trans (onlyRegs_wr _ _ _ _)).trans (onlyRegs_wr _ _ _ _)).trans (onlyRegs_wr _ _ _ _)

theorem Dev.noteShed_shown (d : Dev) (p outcome : Nat) : ShedShown d (d.noteShed p outcome) p outcome := by
  unfold Dev.noteShed
  refine ⟨?sheds, ?span, ?outcome, ?perch, ?tick, fun die f hf => ?others⟩
  case sheds =>
    simp (disch := decide) only [Dev.rd_wr_separate]
    exact Dev.rd_inc_same d _ _ _
  case span =>
    simp (disch := decide) only [Dev.rd_wr_separate, Dev.rd_wr_same]
    rfl
  case outcome =>
    simp (disch := decide) only [Dev.rd_wr_separate, Dev.rd_wr_same]
    rfl
  case perch =>
    simp (disch := decide) only [Dev.rd_wr_separate, Dev.rd_wr_same]
    rfl
  case tick =>
    rw [Dev.rd_wr_same]
    rfl
  case others =>
    simp only [shedFlds, List.forall_mem_cons] at hf
    obtain ⟨hsheds, hspan, houtcome, hperch, htick, -⟩ := hf
    rw [Dev.rd_wr_separate htick, Dev.rd_wr_separate hperch, Dev.rd_wr_separate houtcome, Dev.rd_wr_separate hspan]
    exact Dev.rd_wr_separate hsheds _ _ _ _

theorem Dev.countShed_shown (d : Dev) (p outcome : Nat) : ShedShown d (d.countShed p outcome) p outcome := by
  obtain ⟨due, hcount⟩ := d.countShed_eq p outcome
  exact (d.noteShed_shown p outcome).congr rfl (fun _ _ => rfl) fun die f => by rw [hcount, Dev.rd_setOverrunDue]

theorem Dev.countShed_frame (d : Dev) (p outcome : Nat) :
    d.countShed p outcome = { d with regs := (d.countShed p outcome).regs, regsSt := (d.countShed p outcome).regsSt,
                                     overrunDue := (d.countShed p outcome).overrunDue } := by
  obtain ⟨due, hcount⟩ := d.countShed_eq p outcome
  have honly := d.onlyRegs_noteShed p outcome
  unfold OnlyRegs at honly
  rw [hcount]
  unfold Dev.setOverrunDue
  dsimp only
  rw [honly]

theorem Dev.countShed_units (d : Dev) (p outcome : Nat) : (d.countShed p outcome).perches = d.perches ∧ (d.countShed p outcome).elapsed = d.elapsed := by
  rw [Dev.countShed_frame]
  exact ⟨rfl, rfl⟩

/-- The counts of a shed are none of what collectives see. -/
theorem Dev.countShed_collView (d : Dev) (p outcome : Nat) : CollView d (d.countShed p outcome) := by
  have hothers := (d.countShed_shown p outcome).others
  have hframe := d.countShed_frame p outcome
  refine ⟨?_, hothers 0 _ (by decide), hothers 0 _ (by decide), ?_, fun _ _ _ _ _ _ _ => ?_⟩
  · rw [hframe]
  · rw [hframe]
  · rw [hframe]

/-! ### The shed -/

/-- The array after a shed (R59, R157). -/
def Arr.cleared (a : Arr) : Arr := { a.stop with plane0 := {}, plane1 := {}, queue := [] }

/-- The units of a perch stop: its array, its contexts, its store buffer, its endpoints and its counters (R59). -/
def Dev.stopWork (d : Dev) (p logCause : Nat) : Dev :=
  ((((d.arrayClear p).dmaAbortAll p logCause).drainStores p).endpointsEnd p).updPerch p (fun v => { v with ctr := [] })

theorem Dev.shed_eq (d : Dev) (p outcome logCause : Nat) :
    d.shed p outcome logCause = (((d.stopWork p logCause).countShed p outcome).report p outcome).perchIdle p := rfl

/-- What is left where the units of a perch have stopped. -/
structure Stopped (d t : Dev) (p : Nat) : Prop where
  only : t = { d with mem := t.mem, spadPoison := t.spadPoison, remote := t.remote, perches := t.perches }
  view : CollView d t
  perch : t.perch p = { d.perch p with arr := (d.perch p).arr.cleared, ctx := (t.perch p).ctx, wcb := (t.perch p).wcb, ep := (t.perch p).ep,
                                       storeBuf := [], ctr := [] }
  queues : ∀ c, c < 8 → (t.ctxOf p c).queue = []

theorem Dev.stopWork_stopped (d : Dev) (p logCause : Nat) : Stopped d (d.stopWork p logCause) p := by
  have hclear : (d.arrayClear p).perch p = { d.perch p with arr := (d.perch p).arr.cleared } := by
    unfold Dev.arrayClear Dev.updArr
    rw [Dev.perch_updPerch_same]
    rfl
  have hframe : d.arrayClear p = { d with perches := (d.arrayClear p).perches } := rfl
  have hview : CollView d (d.arrayClear p) := collView_updPerch d p (fun v => { v with arr := v.arr.cleared })
  unfold Dev.stopWork
  generalize d.arrayClear p = d1 at *
  obtain ⟨habort, hqueues⟩ := d1.dmaAbortAll_aborted p logCause
  generalize d1.dmaAbortAll p logCause = d2 at *
  have hstores := d2.perch_drainStores p p
  rw [if_pos rfl] at hstores
  have hstoresFrame := d2.drainStores_frame p
  have hstoresView := collView_drainStores d2 p
  generalize d2.drainStores p = d3 at *
  have hend := onlyEndpoints_endpointsEnd d3 p
  generalize d3.endpointsEnd p = d4 at *
  have hlast : (d4.updPerch p (fun v => { v with ctr := [] })).perch p =
      { d.perch p with arr := (d.perch p).arr.cleared, ctx := (d2.perch p).ctx, wcb := (d2.perch p).wcb, ep := (d4.perch p).ep, storeBuf := [], ctr := [] } := by
    have hep := hend.perch p
    have hab := habort.perch
    generalize (d4.perch p).ep = endpoints at *
    generalize (d2.perch p).ctx = contexts at *
    generalize (d2.perch p).wcb = lines at *
    rw [Dev.perch_updPerch_same, hep, hstores, hab, hclear]
  refine ⟨?only, ?view, ?perch, fun c hc => ?queues⟩
  case only =>
    have h4 := hend.only
    rw [hstoresFrame, habort.only, hframe] at h4
    unfold Dev.updPerch Dev.setPerch
    rw [h4]
  case view => exact ((hview.trans (habort.view.trans hstoresView)).trans hend.view).trans (collView_updPerch d4 p _)
  case perch => rw [hlast]
  case queues =>
    unfold Dev.ctxOf
    rw [hlast]
    exact hqueues c hc

/-- What a shed on a perch leaves (R59, R66, R157). -/
structure ShedOn (d t : Dev) (p outcome : Nat) : Prop where
  shown : ShedShown d t p outcome
  perch : ∃ contexts lines endpoints, t.perch p =
    Perch.idled { d.perch p with arr := (d.perch p).arr.cleared, ctx := contexts, wcb := lines, ep := endpoints, storeBuf := [], ctr := [] }
  queues : ∀ c, c < 8 → (t.ctxOf p c).queue = []
  seen : bit (t.span (d.perch p).spanId).seen outcome = true
  elapsed : t.elapsed = d.elapsed

/-- The perch is idle with its units cleared. -/
theorem ShedOn.cleared {d t : Dev} {p outcome : Nat} (h : ShedOn d t p outcome) :
    (t.perch p).pstate = 2 ∧ (t.perch p).ctr = [] ∧ (t.perch p).arr.queue = [] ∧ (t.perch p).arr.inflight = [] ∧ (t.perch p).arr.plane0 = {} ∧
      (t.perch p).arr.plane1 = {} ∧ (t.perch p).storeBuf = [] ∧ (t.perch p).remaining = (d.perch p).remaining := by
  obtain ⟨contexts, lines, endpoints, hperch⟩ := h.perch
  rw [hperch]
  exact ⟨rfl, rfl, rfl, rfl, rfl, rfl, rfl, rfl⟩

theorem Stopped.units {d t : Dev} {p : Nat} (h : Stopped d t p) : t.regs = d.regs ∧ t.regsSt = d.regsSt ∧ t.elapsed = d.elapsed := by
  rw [h.only]
  exact ⟨rfl, rfl, rfl⟩

theorem Dev.rd_eq_of_regs {d t : Dev} (hregs : t.regs = d.regs) (hregsSt : t.regsSt = d.regsSt) (die : Nat) (f : Fld) : t.rd die f = d.rd die f := by
  unfold Dev.rd
  rw [hregs, hregsSt]

theorem Dev.shed_on {d : Dev} {p : Nat} (h : d.collQuiet p (d.perch p).spanId = true) (outcome logCause : Nat) :
    ShedOn d (d.shed p outcome logCause) p outcome := by
  rw [Dev.shed_eq]
  have hstop := d.stopWork_stopped p logCause
  generalize d.stopWork p logCause = d1 at *
  have hcount := d1.countShed_shown p outcome
  obtain ⟨hperches, helapsed⟩ := d1.countShed_units p outcome
  have hview := hstop.view.trans (d1.countShed_collView p outcome)
  generalize d1.countShed p outcome = d2 at *
  have hperch : d2.perch p = d1.perch p := by simp [Dev.perch, hperches]
  have hspan1 : (d1.perch p).spanId = (d.perch p).spanId := by rw [hstop.perch]
  have hspan : (d2.perch p).spanId = (d.perch p).spanId := by rw [hperch, hspan1]
  have hend := Dev.report_perchIdle (d := d2) (p := p) (by rw [hspan, hview.collQuiet, h]) outcome
  generalize (d2.report p outcome).perchIdle p = t at *
  obtain ⟨hregs1, hregsSt1, helapsed1⟩ := hstop.units
  have hlast : t.perch p = (d1.perch p).idled := by rw [hend.perch, hperch]
  have hctx (c : Nat) : t.ctxOf p c = d1.ctxOf p c := by
    unfold Dev.ctxOf
    rw [hlast]
    rfl
  exact {
    shown := hcount.congr hspan1 (Dev.rd_eq_of_regs hregs1 hregsSt1) (Dev.rd_eq_of_regs hend.regs hend.regsSt)
    perch := ⟨_, _, _, hlast.trans (congrArg Perch.idled hstop.perch)⟩
    queues := fun c hc => (congrArg DmaCtx.queue (hctx c)).trans (hstop.queues c hc)
    seen := by rw [← hspan, hend.seen]
    elapsed := hend.elapsed.trans (helapsed.trans helapsed1) }

/-! ### The end of a budget and a displacement -/

/-- A drop span whose budget ends is shed (R58, R59). -/
theorem Dev.spanOut_budget {d : Dev} {p : Nat} (hdrop : ∀ e, d.anyEntry (d.perch p).spanId = some e → e.kind = 0) :
    d.spanOut p ocBudget = d.shed p ocBudget 1 := by
  unfold Dev.spanOut
  rw [if_neg (by decide)]
  dsimp only
  cases hentry : d.anyEntry (d.perch p).spanId with
  | none => rfl
  | some e => exact if_pos (hdrop e hentry)

/-- The count of a displacement (R66). -/
def Dev.noteDisplaced (d : Dev) (p : Nat) : Dev := d.inc (perchDie p) Reg.TICK_OVERRUN_CNT.DISPLACED 1

theorem Dev.noteDisplaced_onlyRegs (d : Dev) (p : Nat) : OnlyRegs d (d.noteDisplaced p) := by
  unfold Dev.noteDisplaced Dev.inc
  exact onlyRegs_wr d _ _ _

theorem Dev.rd_noteDisplaced {f : Fld} (h : Reg.TICK_OVERRUN_CNT.DISPLACED.Separate f) (d : Dev) (p die : Nat) : (d.noteDisplaced p).rd die f = d.rd die f :=
  Dev.rd_wr_separate h d _ _ _

/-- The count of a displacement leaves perches and time as they were. -/
theorem Dev.noteDisplaced_units (d : Dev) (p : Nat) (due : Bool) :
    ((d.noteDisplaced p).setOverrunDue due).perches = d.perches ∧ ((d.noteDisplaced p).setOverrunDue due).elapsed = d.elapsed := by
  have honly := d.noteDisplaced_onlyRegs p
  generalize d.noteDisplaced p = t at *
  rw [honly]
  exact ⟨rfl, rfl⟩

theorem Dev.spanId_noteDisplaced (d : Dev) (p : Nat) (due : Bool) : (((d.noteDisplaced p).setOverrunDue due).perch p).spanId = (d.perch p).spanId := by
  unfold Dev.perch
  rw [(d.noteDisplaced_units p due).1]

theorem collView_noteDisplaced (d : Dev) (p : Nat) (due : Bool) : CollView d ((d.noteDisplaced p).setOverrunDue due) := by
  have honly := d.noteDisplaced_onlyRegs p
  have hplan := Dev.rd_noteDisplaced (f := Reg.RAS_PKG.PLAN) (by decide) d p 0
  have hpkg := Dev.rd_noteDisplaced (f := Reg.LINK_CFG.PKG_ID) (by decide) d p 0
  generalize d.noteDisplaced p = t at *
  refine ⟨?_, hplan, hpkg, ?_, fun _ _ _ _ _ _ _ => ?_⟩
  · rw [honly]
    rfl
  · rw [honly]
    rfl
  · rw [honly]
    rfl

/-- A drop span that is displaced is counted as such and shed (R58, R59, R63, R66). -/
theorem Dev.spanOut_displaced {d : Dev} {p : Nat} (hdrop : ∀ e, d.anyEntry (d.perch p).spanId = some e → e.kind = 0) :
    ∃ due, d.spanOut p ocDisplaced = ((d.noteDisplaced p).setOverrunDue due).shed p ocDisplaced 1 := by
  unfold Dev.spanOut
  extract_lets v d1 d2
  obtain ⟨due, hdue⟩ : ∃ due, d2 = (d.noteDisplaced p).setOverrunDue due := by
    unfold d2
    rw [if_pos rfl]
    exact Dev.overrunDue_ite (d.noteDisplaced p) _
  refine ⟨due, ?_⟩
  clear_value d2
  subst hdue
  cases hentry : ((d.noteDisplaced p).setOverrunDue due).anyEntry v.spanId with
  | none => rfl
  | some e =>
    rw [(collView_noteDisplaced d p due).anyEntry] at hentry
    exact if_pos (hdrop e hentry)

theorem Dev.spanEnds_budget {d : Dev} {p : Nat}
    (h : ∀ t, d.displaceAt p = some t → (d.perch p).remaining = 0 ∨ d.elapsed + d.cyclesNs (d.perch p).remaining ≤ t) :
    d.spanEnds p =
      ((d.toTime (d.elapsed + d.cyclesNs (d.perch p).remaining)).updPerch p (fun v => { v with remaining := 0 })).spanOut p ocBudget := by
  unfold Dev.spanEnds
  dsimp only
  cases hdisp : d.displaceAt p with
  | none => rfl
  | some t => exact if_pos (h t hdisp)

theorem Dev.spanEnds_displaced {d : Dev} {p t : Nat} (hdisp : d.displaceAt p = some t) (hleft : (d.perch p).remaining ≠ 0)
    (hfirst : t < d.elapsed + d.cyclesNs (d.perch p).remaining) : d.spanEnds p = (d.toTime t).spanOut p ocDisplaced := by
  unfold Dev.spanEnds
  dsimp only
  rw [hdisp]
  exact if_neg (by omega)

theorem collView_toTime (d : Dev) (ns : Nat) : CollView d (d.toTime ns) := by
  rw [Dev.toTime_frame]
  exact ⟨rfl, rfl, rfl, rfl, fun _ _ _ _ _ _ _ => Iff.rfl⟩

/-- The device at the time at which the budget of a perch ends. -/
def Dev.outOfBudget (d : Dev) (p : Nat) : Dev :=
  (d.toTime (d.elapsed + d.cyclesNs (d.perch p).remaining)).updPerch p (fun v => { v with remaining := 0 })

theorem Dev.outOfBudget_perch (d : Dev) (p : Nat) : ((d.outOfBudget p).perch p).remaining = 0 ∧ ((d.outOfBudget p).perch p).spanId = (d.perch p).spanId := by
  unfold Dev.outOfBudget
  rw [Dev.perch_updPerch_same]
  exact ⟨rfl, Dev.spanId_toTime _ _ _⟩

theorem collView_outOfBudget (d : Dev) (p : Nat) : CollView d (d.outOfBudget p) := (collView_toTime d _).trans (collView_updPerch _ p _)

theorem Dev.rd_outOfBudget (d : Dev) (p die : Nat) (f : Fld) : (d.outOfBudget p).rd die f = d.rd die f := Dev.rd_toTime d _ die f

theorem Dev.elapsed_outOfBudget (d : Dev) (p : Nat) : (d.outOfBudget p).elapsed = d.elapsed + d.cyclesNs (d.perch p).remaining := by
  have htime : (d.outOfBudget p).elapsed = max d.elapsed (d.elapsed + d.cyclesNs (d.perch p).remaining) := Dev.elapsed_toTime d _
  omega

/-- The end of the budget of a drop span sheds it (R58, R59). -/
theorem Dev.spanEnds_budget_shed {d : Dev} {p : Nat} (hquiet : d.collQuiet p (d.perch p).spanId = true)
    (hdrop : ∀ e, d.anyEntry (d.perch p).spanId = some e → e.kind = 0)
    (hfirst : ∀ t, d.displaceAt p = some t → (d.perch p).remaining = 0 ∨ d.elapsed + d.cyclesNs (d.perch p).remaining ≤ t) :
    ShedOn (d.outOfBudget p) (d.spanEnds p) p ocBudget := by
  have hview := collView_outOfBudget d p
  have hspan := (d.outOfBudget_perch p).2
  have hshed : d.spanEnds p = (d.outOfBudget p).shed p ocBudget 1 := by
    rw [Dev.spanEnds_budget hfirst]
    refine Dev.spanOut_budget (d := d.outOfBudget p) fun e he => hdrop e ?_
    rwa [hview.anyEntry, hspan] at he
  rw [hshed]
  exact Dev.shed_on (by rw [hspan, hview.collQuiet, hquiet]) ocBudget 1

/-- A displacement that comes before the end of the budget of a drop span sheds it (R58, R59, R63). -/
theorem Dev.spanEnds_displaced_shed {d : Dev} {p t : Nat} (hquiet : d.collQuiet p (d.perch p).spanId = true)
    (hdrop : ∀ e, d.anyEntry (d.perch p).spanId = some e → e.kind = 0) (hdisp : d.displaceAt p = some t) (hleft : (d.perch p).remaining ≠ 0)
    (hfirst : t < d.elapsed + d.cyclesNs (d.perch p).remaining) :
    ∃ due, ShedOn (((d.toTime t).noteDisplaced p).setOverrunDue due) (d.spanEnds p) p ocDisplaced := by
  have hview := collView_toTime d t
  have hspan := d.spanId_toTime t p
  obtain ⟨due, hout⟩ := Dev.spanOut_displaced (d := d.toTime t) (p := p) fun e he => hdrop e (by rwa [hview.anyEntry, hspan] at he)
  refine ⟨due, ?_⟩
  rw [Dev.spanEnds_displaced hdisp hleft hfirst, hout]
  refine Dev.shed_on ?_ ocDisplaced 1
  rw [Dev.spanId_noteDisplaced, hspan, (collView_noteDisplaced _ p due).collQuiet, hview.collQuiet, hquiet]

/-- Settles O25: SPANEND completes the span; the end of the budget and a displacement shed it. -/
theorem spanEnds : Obligations.SpanEnds := by
  unfold Obligations.SpanEnds
  intro p s hon hruns hquiet v die expiry Shed
  refine ⟨fun hmay => ?spanend, fun hdrop i hi => ?shed⟩
  case spanend =>
    have hend := Dev.complete_ended hquiet
    have hexec : exec (.spanend p) s = .next { s with dev := s.dev.complete p } := by
      change s.onDev (fun d => if d.mayEnd p then d.xExec p .spanend else d) = _
      rw [State.onDev_of_on hon, if_pos hmay]
      rfl
    have hframe := s.dev.drainStores_frame p
    have hperch := s.dev.perch_drainStores p
    generalize s.dev.complete p = t at *
    have hspan : ((s.dev.drainStores p).perch p).spanId = v.spanId := by rw [hperch, if_pos rfl]
    refine ⟨_, hexec, rfl, ?_, ?_, ?_, ?_, hend.mem, ?_, ?_, fun q hq => ?_⟩
    · rw [hend.perch]
      rfl
    · rw [hend.perch, hperch, if_pos rfl]
      rfl
    · rw [← hspan, hend.seen]
    · rw [← hspan, hend.running, hframe]
      rfl
    · rw [hend.regs, hframe]
    · rw [hend.regsSt, hframe]
    · rw [hend.others q hq, hperch, if_neg hq]
  case shed =>
    have hexec : exec i s = .next { s with dev := s.dev.spanEnds p } := by
      obtain rfl | rfl := hi
      · change s.onDev (fun d => if d.runs? p then d.spanEnds p else d) = _
        rw [State.onDev_of_on hon, if_pos hruns]
      · change s.onDev (fun d => if d.runs? p then d.spanEnds p else d) = _
        rw [State.onDev_of_on hon, if_pos hruns]
    have shed {d t : Dev} {outcome : Nat} (h : ShedOn d t p outcome) (houtcome : outcome < 256) (hspan : (d.perch p).spanId = v.spanId)
        (hsheds : d.rd die Reg.TICK_SHED_CNT.SHEDS = s.dev.rd die Reg.TICK_SHED_CNT.SHEDS) (htick : d.tick = s.dev.tick) :
        Shed { s with dev := t } outcome := by
      obtain ⟨hidle, hctr, hqueue, hinflight, hplane0, hplane1, hstores, -⟩ := h.cleared
      refine ⟨rfl, hidle, hctr, hqueue, hinflight, hplane0, hplane1, h.queues, hstores, ?_, ?_, ?_, h.shown.perch, ?_, ?_⟩
      · rw [h.shown.sheds, hsheds]
      · rw [h.shown.span, hspan]
      · rw [h.shown.outcome, Nat.mod_eq_of_lt houtcome]
      · rw [h.shown.tick, htick]
      · rw [← hspan, h.seen]
    refine ⟨fun hfirst => ?budget, fun at_ hdisp hleft hfirst => ?displaced⟩
    case budget =>
      have hshed := Dev.spanEnds_budget_shed hquiet hdrop hfirst
      obtain ⟨hleft, hspan⟩ := s.dev.outOfBudget_perch p
      obtain ⟨-, -, -, -, -, -, -, hsame⟩ := hshed.cleared
      exact ⟨_, hexec, shed hshed (by decide) hspan (Dev.rd_outOfBudget _ _ _ _) (Dev.rd_outOfBudget _ _ _ _), hsame.trans hleft,
        hshed.elapsed.trans (s.dev.elapsed_outOfBudget p)⟩
    case displaced =>
      obtain ⟨due, hshed⟩ := Dev.spanEnds_displaced_shed hquiet hdrop hdisp hleft hfirst
      have hspan := ((s.dev.toTime at_).spanId_noteDisplaced p due).trans (s.dev.spanId_toTime at_ p)
      have hrd {f : Fld} (hf : Reg.TICK_OVERRUN_CNT.DISPLACED.Separate f) (die : Nat) :
          (((s.dev.toTime at_).noteDisplaced p).setOverrunDue due).rd die f = s.dev.rd die f :=
        (Dev.rd_noteDisplaced hf _ p die).trans (s.dev.rd_toTime at_ die f)
      refine ⟨_, hexec, shed hshed (by decide) hspan (hrd (by decide) die) (hrd (by decide) 0), ?_, ?_⟩
      · exact hshed.elapsed.trans (((s.dev.toTime at_).noteDisplaced_units p due).2.trans (s.dev.elapsed_toTime at_))
      · rw [hshed.shown.others _ _ (by decide), Dev.rd_setOverrunDue, ← s.dev.rd_toTime at_]
        exact Dev.rd_inc_same (s.dev.toTime at_) _ _ _

end Sys2Proof.Machine
end

