-- ==== Sys2Proof/Proofs/MoverEnds.lean ====
section
/-! The end of a mover entry whose PORT lies outside the part (O44). The orphan counters of the NVMe ports are an array of stride 8 (R449, R460) that has 8 elements
in the map; the one of port 262,082 would lie on DONE of BMC_MOVE_CNT. The PORT byte of a charter's entry (R248) cannot name that port, a MoveEntry can. -/

namespace Sys2Proof.Machine

/-- The index at which the array SIO_NVME_STATUS meets BMC_MOVE_CNT: 262,082. -/
def farPort : Nat := (Reg.BMC_MOVE_CNT.DONE.off - Reg.SIO_NVME_STATUS.ORPHANS.off) / 8

theorem orphans_at_farPort : Reg.SIO_NVME_STATUS.ORPHANS.at 8 farPort = { Reg.BMC_MOVE_CNT.DONE with width := 16 } := rfl

/-- Commands that the port orphans are counted in the low half of DONE. -/
theorem Dev.rd_done_inc_orphans (d : Dev) (die n : Nat) :
    (d.inc die (Reg.SIO_NVME_STATUS.ORPHANS.at 8 farPort) n).rd die Reg.BMC_MOVE_CNT.DONE = min (d.rd die Reg.BMC_MOVE_CNT.DONE % 2 ^ 16 + n) (2 ^ 16 - 1) := by
  rw [orphans_at_farPort]
  simp [Dev.inc, Dev.wr, Dev.rd, satAdd, regKey, Reg.BMC_MOVE_CNT.DONE]
  omega

/-- An entry without a done record that ends with ERROR does not change DONE at its end (R252, R254). -/
theorem Dev.rd_done_moveEnd_error {e : MoveEntry} (hrecord : bit e.flags 0 = false) (d : Dev) (die entry : Nat) (m : MoveRun) :
    (d.moveEnd die entry e m 3).rd die Reg.BMC_MOVE_CNT.DONE = d.rd die Reg.BMC_MOVE_CNT.DONE := by
  simp [Dev.moveEnd, hrecord, Dev.inc, Dev.rd_wr_separate (f := Reg.BMC_MOVE_CNT.FAILED) (g := Reg.BMC_MOVE_CNT.DONE) (by decide)]

/-- An SSD read of die 1 on that port, without a done record. -/
def farEntry : MoveEntry := { kind := 5, execDie := 1, port := farPort, amount := 4096 }

/-- A device that is on. The entry, the only one of every tick, is in progress and has failed with ERROR, and one command of it is outstanding. -/
def farFailing : Dev :=
  { on := true, charter := { sched := { period := 100, patterns := [{ moveCount := 1 }], moves := [farEntry] } }
    moves := [(65536, { state := 1, fail := 3, issued := 4096 })], nvme := [(farPort, { cmds := [{ die := 1, bytes := 4096 }], nextCid := 1 })] }

theorem farFailing_inProgress : farFailing.moveList[0]? = some farEntry ∧ (farFailing.moveRun 1 0).state = 1 ∧ (farFailing.moveRun 1 0).fail = 3 ∧
    max farFailing.elapsed 0 < farFailing.tailGuard := by decide

theorem exec_moveEntryDone_farFailing : exec (.moveEntryDone 1 0 0) { dev := farFailing } = .next { dev := farFailing.moveCut 1 0 farEntry 3 } := rfl

/-- The command outlives the entry, and DONE counts it. -/
theorem rd_done_moveCut_farFailing : farFailing.rd 1 Reg.BMC_MOVE_CNT.DONE = 0 ∧ (farFailing.moveCut 1 0 farEntry 3).rd 1 Reg.BMC_MOVE_CNT.DONE = 1 := by
  refine ⟨by decide, ?_⟩
  rw [Dev.moveCut, Dev.rd_done_moveEnd_error (by decide)]
  exact Dev.rd_done_inc_orphans ((farFailing.moverDetach 1 0).setNvPort farPort { cmds := [{ die := 1, bytes := 4096, orphan := true }], nextCid := 1 }) 1 1

/-- Refutes O44: the statement bounds the PORT of no entry, and with 262,082 the entry that fails leaves DONE one higher, where DONE must stay. -/
theorem not_moverEnds : ¬ Obligations.MoverEnds := by
  unfold Obligations.MoverEnds
  intro h
  obtain ⟨hentry, hstate, hfail, hguard⟩ := farFailing_inProgress
  obtain ⟨hends, -⟩ := h 1 { dev := farFailing } rfl
  obtain ⟨hfailed, -⟩ := hends 0 0 farEntry hentry hstate hguard
  obtain ⟨t, hexec, -, hcounts⟩ := hfailed (.inl hfail)
  obtain ⟨-, hkept⟩ := hcounts (by decide)
  obtain ⟨hbefore, hafter⟩ := rd_done_moveCut_farFailing
  rw [exec_moveEntryDone_farFailing] at hexec
  obtain rfl := Host.Outcome.next.inj hexec
  exact absurd (hafter.symm.trans (hkept.trans hbefore)) (by decide)

end Sys2Proof.Machine
end

