-- ==== Sys2Proof/Proofs/Collectives.lean ====
section
/-! The status record of a member where the page-owner table ends within a line of the record (O46). A write recalls the line that it touches from the steward dies
(R211, R241), and a recall writes the whole line. Where that line holds the owner byte of the record's page, the page may cease to be the device's between the two
lines of one record, and a partition without budget is then refused (R266). -/

namespace Sys2Proof.Machine

/-! ### A completion without bytes to write -/

/-- COLL_MEMBER_COMPLETE of an invocation whose result stands goes on to its bytes (R361). -/
theorem exec_collMemberComplete_of_ready {coll k member : Nat} {c : CollDef} {m : CollMember} {i : CollInst} {s : State} (hon : s.dev.on = true)
    (hpick : s.dev.collPick coll member = some (c, m)) (hfind : (s.dev.coll coll).insts.find? (fun i => i.k = k) = some i) (hready : i.ready = true)
    (hphase : i.phase = 2) (hverdict : i.verdict = none) (hwrote : member ∉ i.wrote) (hdone : member ∉ i.done) (hlost : s.dev.collLost c = none)
    (horder : (s.dev.coll coll).insts.any (fun j => j.k < k && !j.done.contains member) = false) (hheld : s.dev.collWriteHeld c i member m = false) :
    exec (.collMemberComplete coll k member) s = .next { s with dev := s.dev.collComplete c i member m } := by
  change execCollMemberComplete coll k member s = _
  unfold execCollMemberComplete
  rw [State.onDev_of_on hon, hpick]
  dsimp only
  rw [hfind]
  dsimp only
  rw [if_neg (by simp [hverdict, hlost]), if_neg (by simp [hphase]), if_neg (by rw [horder]; simp [hready, hwrote, hdone, hheld])]

/-- Without bytes to write, a completion is the member's record and increment (R361). -/
theorem Dev.collComplete_empty {d : Dev} {c : CollDef} {i : CollInst} {idx : Nat} {m : CollMember} (hresult : i.result = []) (hresidues : i.residues = [])
    (hwriting : d.collWriting c i.k idx = false) : d.collComplete c i idx m = d.collLanded c i idx m := by
  have htargets : d.collTargets c i idx m = (true, d) := by simp [Dev.collTargets, Dev.collBuffer, hresult, hresidues]
  have hwrite (x : Xq) (agent : Agent) (q : Rq) (dva : Nat) : d.dvaWrite x agent q none dva [] = (none, d) := by
    simp [Dev.dvaWrite, pageSegs, pageSegsAux]
  simp [Dev.collComplete, htargets, hresult, hresidues, hwrite, hwriting]

/-- A write that its home refuses leaves an access error alone (R26). -/
theorem Dev.writeSeg_of_accFault {d : Dev} {q : Rq} {line off kind : Nat} (hfault : d.accFault q (line * 128 + off) = some kind) (v : List PByte) :
    d.writeSeg q line off v = (true, d.accErr q.die kind q (line * 128 + off)) := by
  simp [Dev.writeSeg, hfault]

/-! ### The device -/

/-- The last 64 KiB page of a fathom tier of 16 GiB. -/
def lastPage : Nat := fathomBase + 2 ^ 34 - 65536

/-- Its page index (R261). -/
def lastIndex : Nat := 6553599

/-- Its first line. -/
def lastLine : Nat := lastPage / 128

/-- The record begins 16 bytes before the end of that line. -/
def recordPa : Nat := lastPage + 112

/-- A barrier of two members. -/
def twoBarrier : CollDef := { collId := 1, op := 4, memberCount := 2 }

/-- The member that completes. -/
def firstMember : CollMember := { statusDva := 112 }

/-- Its invocation 1 waits for its members to complete. -/
def waiting : CollInst := { k := 1, phase := 2, ready := true }

/-- The leaf of the record's page in the engine's TLB. -/
def lastLeaf : TlbEntry := { mmu := mmuColl 2, target := lastPage, rights := 3 }

/-- A device that is on. The page-owner table ends where the record begins, so that its last entry, that of the record's own page, stands in the record's first line.
The page is the device's; partition 0, in which the collective runs, has no budget. Steward die 0 holds that line modified, with zero bytes. -/
def straddled : Dev :=
  { ((({} : Dev).wr 0 Reg.BMC_STATUS.CAP_GIB 1).wr 0 Reg.BMC_OWN_BASE.BASE (recordPa - (lastIndex + 1))).wr 2 (Reg.MMU_ROOT.VALID.at 8 0) 1 with
    on := true
    charter := { sched := { collDefs := [twoBarrier], collMembers := [firstMember, {}] } }
    colls := [(1, { begun := 1, insts := [waiting] })]
    owner := [(lastIndex, 0xFE#8)]
    stew := [(lastLine, { valid := true, dirty := true })]
    tlb := [lastLeaf] }

/-- The engine of die 2 as the requester of records. -/
def recordRq : Rq := (collXq 2 0).rq false true

/-- The record of the invocation: it names no non-finite element, so its bytes 20 to 23 are 0xFF (R360). -/
def okRecord : List Byte := collRecord waiting.tick twoBarrier.collId waiting.k csOk waiting.flags waiting.count waiting.firstNf 0xFFFF

/-- The device once the record's first line has been written. -/
def halfWritten : Dev := (straddled.tlbTouch lastLeaf).homeWriteSeg recordRq lastLine 112 (clean (okRecord.take 16))

/-- Member 0 may complete, and is not the last one. -/
theorem straddled_completes : straddled.collDef 1 = some twoBarrier ∧ straddled.collPick 1 0 = some (twoBarrier, firstMember) ∧
    (straddled.coll 1).insts.find? (fun i => i.k = 1) = some waiting ∧ straddled.collLost twoBarrier = none ∧
    (straddled.coll 1).insts.any (fun j => j.k < 1 && !j.done.contains 0) = false ∧ 1 ≤ (straddled.coll 1).begun ∧
    straddled.collWriteHeld twoBarrier waiting 0 firstMember = false ∧ (straddled.collTargets twoBarrier waiting 0 firstMember).1 = true ∧
    straddled.collWriting twoBarrier 1 0 = false ∧ (straddled.collMine twoBarrier).all (fun z => z.2 = 0 || waiting.done.contains z.2) = false := by
  decide +kernel

/-- Before the completion the engine may reach every byte of the record's place. -/
theorem straddled_reachable : straddled.translate (collXq 2 0) 112 axWrite = (.ok recordPa, straddled.tlbTouch lastLeaf) ∧
    straddled.localOf recordPa = some recordPa ∧ straddled.inFathom recordRq recordPa 32 := by
  refine ⟨rfl, by decide +kernel, ?_⟩
  unfold Dev.inFathom
  decide +kernel

/-- The recall of the first line takes the page from the device, and the second line is refused. -/
theorem halfWritten_refuses : straddled.ownerOf lastIndex = 0xFE ∧ halfWritten.ownerOf lastIndex = 0 ∧
    halfWritten.accFault recordRq ((lastLine + 1) * 128 + 0) = some 3 := by decide +kernel

/-- The member completes with its record's second line still to be written. -/
theorem collLanded_straddled : straddled.collLanded twoBarrier waiting 0 firstMember =
    (halfWritten.writeSeg recordRq (lastLine + 1) 0 (clean (okRecord.drop 16))).2.updInst twoBarrier 1 (fun y => { y with done := [0] }) := by decide +kernel

/-- FIRST_NF of the record belongs in the second line; zero is read at its address. -/
theorem cohByte_straddled : (straddled.collLanded twoBarrier waiting 0 firstMember).cohByte (recordPa + 20) = 0#8 := by
  obtain ⟨-, -, hfault⟩ := halfWritten_refuses
  rw [collLanded_straddled, Dev.writeSeg_of_accFault hfault]
  decide +kernel

/-- Refutes O46: a member completes, and its record's second line is not at its address, as the write of the first line has changed the owner of the page. -/
theorem not_collectives : ¬ Obligations.Collectives := by
  unfold Obligations.Collectives
  intro h
  obtain ⟨hdef, hpick, hfind, hlost, horder, hbegun, hheld, htargets, hwriting, hlast⟩ := straddled_completes
  obtain ⟨htranslate, hlocal, hreach⟩ := straddled_reachable
  have hexec : exec (.collMemberComplete 1 1 0) { dev := straddled } = .next { dev := straddled.collLanded twoBarrier waiting 0 firstMember } := by
    rw [exec_collMemberComplete_of_ready rfl hpick hfind rfl rfl rfl (by decide) (by decide) hlost horder hheld, Dev.collComplete_empty rfl rfl hwriting]
  obtain ⟨hmembers, -⟩ := h 1 twoBarrier { dev := straddled } rfl hdef
  obtain ⟨-, hcomplete⟩ := hmembers 0 firstMember hpick
  obtain ⟨-, -, hlanded⟩ := hcomplete 1 waiting hfind rfl rfl rfl (by decide) (by decide) hlost horder hbegun (by decide) hheld
  obtain ⟨hnotLast, -⟩ := hlanded htargets hwriting
  obtain ⟨t, ht, -, -, -, -, hrecord⟩ := hnotLast hlast
  rw [hexec] at ht
  obtain rfl := Host.Outcome.next.inj ht
  have hbyte := hrecord rfl rfl rfl rfl recordPa recordPa _ htranslate (by decide) hlocal hreach 20 (by decide)
  dsimp only at hbyte
  rw [cohByte_straddled] at hbyte
  exact absurd hbyte (by decide +kernel)

end Sys2Proof.Machine
end
